-- ==== Sys2Proof/Word.lean ====
section
/-! DEFINITION. The word types of the SZ9: 32-bit words, bytes, lane masks, scalar and address words (02_words R3, R38). -/
namespace Sys2Proof

/-- One instruction word, literal, or 32-bit lane value. -/
abbrev Word := BitVec 32
/-- One byte of memory. -/
abbrev Byte := BitVec 8
/-- A scalar register, a 64-bit value or an address held in a scalar (R38). -/
abbrev DWord := BitVec 64
/-- A lane mask: bit l stands for lane l (R38, R261). Lanes from %tsize upward are zero. -/
abbrev Mask := BitVec 1024

/-- A field that names one of v0 to v63 (R34). -/
abbrev VReg := BitVec 6
/-- A field that names one of s0 to s63 (R34). -/
abbrev SReg := BitVec 6
/-- A field that names one of k0 to k7 (R34). -/
abbrev KReg := BitVec 3
/-- A field that names one of z0 to z7 (R34). -/
abbrev ZReg := BitVec 3

end Sys2Proof
end

