-- ==== Sys2Proof/Config.lean ====
section
/-! DEFINITION. What one SZ9 fixes for itself, and the free values (the values that the manual does not state).
Every constant here is opaque: nothing in Lean can evaluate one, and a theorem about the machine holds for every
value of it. The log entries that name them stand in notes/assumptions. -/
namespace Sys2Proof.Config

/-- The seven forms of opcode 0x28 whose result off the fixed points is not published (R79, R124). -/
inductive Transc where
  | frcp | frsq | fexp2 | flog2 | fsin | fcos | ftanh
  deriving DecidableEq, Repr

/-- Which of the FP32 values that the accuracy of R124 admits a form delivers, off its fixed points, for an input and an fm: the
number of the value, counted round (log 8). -/
opaque transcValue (f : Transc) (x fm : Word) : Nat

/-- Which of the two bracketing FP32 values a faithful form delivers (R124): true is the one of greater magnitude. -/
opaque faithfulAway (f : Transc) (x fm : Word) : Bool

/-- The serial number in DEVID (R363). -/
opaque serial : BitVec 24

/-- IDPK0 to IDPK3, the public key of the device (R363, R374). -/
opaque idpk (n : Nat) : DWord

/-- FWMEAS0 to FWMEAS3, the SHA-256 of the front-core ROM (R363). -/
opaque fwmeas (n : Nat) : DWord

/-- The SLH-DSA-SHA2-128s signature over a report's first 112 bytes (R374); the algorithm is not part of this manual. -/
opaque signature (report : List Byte) (n : Nat) : Byte

/-- The order in which the cupping unit tries the free cores for the n-th choice (R313: the choice is not stated). -/
opaque corePreference (n : Nat) : List Nat

/-- The place in POOL that the front core tries first for the n-th piece (R362: the place is not stated), in bytes. -/
opaque poolPlace (n : Nat) : Nat

/-- Which entry of a full cache or TLB gives way to a new one, for the n-th time (R12, R14, R366: no replacement is stated). -/
opaque victim (n : Nat) : Nat

/-- The energy, in units of 0.1 pJ, that the device's counters measure for the n-th issue or engine step beyond
nothing (R411: the counters measure the device; no figure is given). -/
opaque measuredEnergy (n : Nat) : Nat

/-- The low 64 bits of the SHA-256 of a skeleton, from its counters (R309: the bytes that are hashed are not stated). -/
opaque skeletonHash (counters : List Nat) : DWord

/-- The address of the completion word, and PEERNS, of the n-th imported launch (R392: the launch record holds neither). -/
opaque importedCompl (n : Nat) : Nat
opaque importedPeerNs (n : Nat) : Nat

/-- The target context of the n-th import whose image no context registers (R392: the launch record names none). -/
opaque importedContext (n : Nat) : BitVec 6

/-- Of the energy that a launch's engines take in a stretch of time, what the work of its user-handler runs takes (R385, R411:
the counters measure the device; no figure is given). -/
opaque handlerShare (n : Nat) : Nat

end Sys2Proof.Config
end

