-- ==== Sys2Proof/Machine/Store.lean ====
section
/-! DEFINITION. The two containers that State is built from, as plain data: a table of records by key, and sparse
byte memory in one canonical form. Reading is total, so no operation of the machine can fail on a missing key. -/
namespace Sys2Proof.Machine

/-- A table by key: keys strictly rising when it is built by `Tab.set`. -/
abbrev Tab (α : Type) := List (Nat × α)

/-- The record at a key, or the default for a key that the table does not list. -/
def Tab.get {α : Type} (dflt : α) : Tab α → Nat → α
  | [], _ => dflt
  | (k', x) :: m, k => if k' = k then x else Tab.get dflt m k

/-- The record at a key, if the table lists it. -/
def Tab.find? {α : Type} : Tab α → Nat → Option α
  | [], _ => none
  | (k', x) :: m, k => if k' = k then some x else Tab.find? m k

/-- Puts a record into a table, before the first greater key; an older record at the key is replaced. -/
def Tab.set {α : Type} : Tab α → Nat → α → Tab α
  | [], k, x => [(k, x)]
  | (k', y) :: m, k, x =>
    if k' = k then (k, x) :: m
    else if k < k' then (k, x) :: (k', y) :: m
    else (k', y) :: Tab.set m k x

/-- Takes a key out of a table. -/
def Tab.erase {α : Type} (m : Tab α) (k : Nat) : Tab α := m.filter (fun e => e.1 != k)

/-- The keys of a table. -/
def Tab.keys {α : Type} (m : Tab α) : List Nat := m.map (fun e => e.1)

/-- The records of a table, in the order of their keys. -/
def Tab.vals {α : Type} (m : Tab α) : List α := m.map (fun e => e.2)

/-- Changes every record. -/
def Tab.mapVals {α : Type} (f : α → α) (m : Tab α) : Tab α := m.map (fun e => (e.1, f e.2))

/-- Sparse bytes by address, in canonical form (`Memory.wf`). -/
abbrev Memory := List Host.Cell

/-- What an address that the list does not hold reads as. The manual gives no contents for memory that nothing has
written, and gives zero for stash (R180); for memory this is a DESIGN CHOICE (log 3). -/
def Memory.unlisted : Byte := 0

/-- The byte at an address. -/
def Memory.read : Memory → Nat → Byte
  | [], _ => Memory.unlisted
  | (a', x) :: m, a => if a' = a then x else Memory.read m a

/-- Puts a byte before the first greater address, replacing an entry at the address itself. -/
def Memory.insert : Memory → Nat → Byte → Memory
  | [], a, x => [(a, x)]
  | (a', y) :: m, a, x =>
    if a' = a then (a, x) :: m
    else if a < a' then (a, x) :: (a', y) :: m
    else (a', y) :: Memory.insert m a x

/-- Writes one byte; writing what an unlisted address reads as removes the entry. -/
def Memory.write (m : Memory) (a : Nat) (x : Byte) : Memory :=
  if x = Memory.unlisted then m.filter (fun e => e.1 != a) else Memory.insert m a x

/-- The canonical form: addresses strictly rising, no entry that reads as an unlisted address does. -/
abbrev Memory.wf (m : Memory) : Prop :=
  m.Pairwise (fun p q => p.1 < q.1) ∧ ∀ p ∈ m, p.2 ≠ Memory.unlisted

/-- Writes consecutive bytes from an address upward. -/
def Memory.writeBytes (m : Memory) (a : Nat) : List Byte → Memory
  | [] => m
  | x :: xs => Memory.writeBytes (Memory.write m a x) (a + 1) xs

/-- The n bytes from an address upward. -/
def Memory.readBytes (m : Memory) (a n : Nat) : List Byte := (List.range n).map (fun i => m.read (a + i))

/-- A little-endian value from its bytes, byte 0 first (R4). -/
def ofBytesLE : List Byte → Nat
  | [] => 0
  | b :: bs => b.toNat + 256 * ofBytesLE bs

/-- A little-endian field of some bytes. -/
def fieldLE (bs : List Byte) (off n : Nat) : Nat := ofBytesLE ((bs.drop off).take n)

/-- The n bytes of a value, little-endian (R4). -/
def toBytesLE : Nat → Nat → List Byte
  | 0, _ => []
  | n + 1, v => BitVec.ofNat 8 v :: toBytesLE n (v / 256)

/-- A little-endian value of n bytes read from memory. -/
def Memory.readLE (m : Memory) (a n : Nat) : Nat := ofBytesLE (m.readBytes a n)

/-- Writes the low n bytes of a value, little-endian. -/
def Memory.writeLE (m : Memory) (a n v : Nat) : Memory := m.writeBytes a (toBytesLE n v)

/-- Bits [hi:lo] of a number (R3). -/
def bits (v hi lo : Nat) : Nat := (v / 2 ^ lo) % 2 ^ (hi + 1 - lo)

/-- Bit n of a number. -/
def bit (v n : Nat) : Bool := v.testBit n

/-- The least whole number not below a / b. -/
def ceilDiv (a b : Nat) : Nat := (a + b - 1) / b

/-- The mask whose bits below n are those of p. -/
def maskOf (n : Nat) (p : Nat → Bool) : Mask :=
  BitVec.ofNat 1024 ((List.range n).foldl (fun acc i => if p i then acc ||| 2 ^ i else acc) 0)

/-- The lanes of a mask, ascending (R9, Active). -/
def lanesOf (n : Nat) (m : Mask) : List Nat := (List.range n).filter (fun i => m.getLsbD i)

/-- The lowest set bit of a mask, if any. -/
def firstLane (n : Nat) (m : Mask) : Option Nat := (List.range n).find? (fun i => m.getLsbD i)

end Sys2Proof.Machine
end

