-- ==== Sys2Proof/Syntax.lean ====
section
/-! DEFINITION. The instructions and steps of the SZ9: one constructor for every row of spec/opcode_table.json.
Rows 0 to 244 are words (an argument `sw` is the switch marker S of R33; a literal of the form is an argument of
the constructor). Rows 245 to 307 are the steps of the front cores, the scheduler, the engines, the home slices and
the host (95_what_each_step_holds.md); their arguments name the agent concerned and carry its input. -/
namespace Sys2Proof

/-- The operand of a form with literal count "0 or 1" (R30): its immediate field, or the literal that replaces it. -/
inductive Imm (w : Nat) where
  | field (v : BitVec w)
  | lit (v : Word)
  deriving DecidableEq, Repr

/-- A ring of a command stream (R369): the stream 0 to 127, and whether it is the high ring. -/
structure Ring where
  stream : Nat
  high : Bool
  deriving DecidableEq, Repr

/-- The fields of a QUOTE packet (R312, R371), each at the width the packet gives it. -/
structure QuoteFields where
  image : BitVec 64
  kernel : BitVec 32
  grid : BitVec 64
  args : BitVec 64
  ctrl : BitVec 32
  peerns : BitVec 32
  qrec : BitVec 64
  compl : BitVec 64
  deriving DecidableEq, Repr

/-- What a fabric write names (R360, R372): a virtual address of a context, or a physical address. -/
inductive FabricTarget where
  | ctx (index : BitVec 6) (va : BitVec 64)
  | phys (pa : BitVec 64)
  deriving DecidableEq, Repr

/-- The entries that a re-plan may raise (R310, R311), in the order of the four registers QCOST0, QCOST1, QNRG0,
QNRG1 and the three energies of QNRG2. -/
structure CostTable where
  hbm : BitVec 16
  ll : BitVec 16
  l1 : BitVec 16
  stash : BitVec 16
  mstart : BitVec 16
  mstep : BitVec 16
  trans : BitVec 16
  alu : BitVec 16
  e3 : BitVec 16
  e2 : BitVec 16
  e1 : BitVec 16
  e0 : BitVec 16
  e6 : BitVec 16
  e5 : BitVec 16
  e4 : BitVec 16
  mmae : BitVec 16
  tsae : BitVec 16
  stat : BitVec 16
  deriving DecidableEq, Repr

/-- The unit in which an error was detected (R394, field UNIT). -/
inductive ErrUnit where
  | pipe | matrix | ternary | regCache | coreStore | slice | hbm | link | frontCore
  deriving DecidableEq, Repr

/-- What the detection of an error reports (R393): the unit, its number, the address concerned, and what the retry
or the ECC found. -/
structure ErrorReport where
  unit : ErrUnit
  location : BitVec 8
  addr : BitVec 48
  /-- The retry passed, the bit was corrected, or the data could be fetched again. -/
  soft : Bool
  /-- Register cache and core store: the team whose dirty data was lost, if any. -/
  owner : Option Nat
  /-- Last-level slice: the tile whose line is concerned, by tensor, row and column; none for a line of linear memory. -/
  tile : Option (Nat × Nat × Nat) := none
  deriving DecidableEq, Repr

/-- One constructor per row of spec/opcode_table.json. -/
inductive Instr where
  /-- SADD (R109). Adds two scalars modulo 2^64 and sets Z, N, C and V. -/
  | sadd (sw : Bool) (d a b : SReg)
  /-- SSUB (R109). Subtracts two scalars modulo 2^64 and sets the flags. -/
  | ssub (sw : Bool) (d a b : SReg)
  /-- SMUL (R109). Writes the low 64 bits of a scalar product. -/
  | smul (sw : Bool) (d a b : SReg)
  /-- SMULH (R109). Writes the high 64 bits of the signed 128-bit product. -/
  | smulh (sw : Bool) (d a b : SReg)
  /-- SMULH_U (R109). Writes the high 64 bits of the unsigned 128-bit product. -/
  | smulhU (sw : Bool) (d a b : SReg)
  /-- SCMP (R109). Sets the flags from a - b and writes no register. -/
  | scmp (sw : Bool) (a b : SReg)
  /-- SADD_IMM (R109). Adds a sign-extended immediate or literal to a scalar. -/
  | saddImm (sw : Bool) (d a : SReg) (i : Imm 12)
  /-- SDIV (R110). Divides signed scalars, truncating, and raises ARITH on a zero divisor. -/
  | sdiv (sw : Bool) (d a b : SReg)
  /-- SDIV_U (R110). Divides unsigned scalars and raises ARITH on a zero divisor. -/
  | sdivU (sw : Bool) (d a b : SReg)
  /-- SREM (R110). Writes the signed remainder, raising ARITH on a zero divisor. -/
  | srem (sw : Bool) (d a b : SReg)
  /-- SREM_U (R110). Writes the unsigned remainder, raising ARITH on a zero divisor. -/
  | sremU (sw : Bool) (d a b : SReg)
  /-- SAND (R109). Bitwise AND of two scalars, setting Z and N. -/
  | sand (sw : Bool) (d a b : SReg)
  /-- SOR (R109). Bitwise OR of two scalars, setting Z and N. -/
  | sor (sw : Bool) (d a b : SReg)
  /-- SXOR (R109). Bitwise XOR of two scalars, setting Z and N. -/
  | sxor (sw : Bool) (d a b : SReg)
  /-- SSHL (R109). Shifts a scalar left by b[5:0]. -/
  | sshl (sw : Bool) (d a b : SReg)
  /-- SSHR (R109). Shifts a scalar right logically by b[5:0]. -/
  | sshr (sw : Bool) (d a b : SReg)
  /-- SSAR (R109). Shifts a scalar right arithmetically by b[5:0]. -/
  | ssar (sw : Bool) (d a b : SReg)
  /-- SAND_IMM (R109). ANDs a scalar with a zero-extended immediate or literal. -/
  | sandImm (sw : Bool) (d a : SReg) (i : Imm 12)
  /-- SOR_IMM (R109). ORs a scalar with a zero-extended immediate or literal. -/
  | sorImm (sw : Bool) (d a : SReg) (i : Imm 12)
  /-- SSHL_IMM (R109). Shifts a scalar left by an immediate count. -/
  | sshlImm (sw : Bool) (d a : SReg) (c : BitVec 6)
  /-- SSHR_IMM (R109). Shifts a scalar right logically by an immediate count. -/
  | sshrImm (sw : Bool) (d a : SReg) (c : BitVec 6)
  /-- SSAR_IMM (R109). Shifts a scalar right arithmetically by an immediate count. -/
  | ssarImm (sw : Bool) (d a : SReg) (c : BitVec 6)
  /-- SMIN (R109). Writes the signed minimum of two scalars. -/
  | smin (sw : Bool) (d a b : SReg)
  /-- SMAX (R109). Writes the signed maximum of two scalars. -/
  | smax (sw : Bool) (d a b : SReg)
  /-- SMIN_U (R109). Writes the unsigned minimum of two scalars. -/
  | sminU (sw : Bool) (d a b : SReg)
  /-- SMAX_U (R109). Writes the unsigned maximum of two scalars. -/
  | smaxU (sw : Bool) (d a b : SReg)
  /-- SSEL (R109). Selects a or b by a condition on cc. -/
  | ssel (sw : Bool) (d a b : SReg) (c : BitVec 4)
  /-- SBFX (R111). Extracts a zero-extended bit field from a scalar. -/
  | sbfx (sw : Bool) (d a : SReg) (p w : BitVec 6)
  /-- SBFI (R111). Inserts the low bits of a scalar into a field of the destination. -/
  | sbfi (sw : Bool) (d a : SReg) (p w : BitVec 6)
  /-- SPOPC (R109). Counts the one bits of a scalar. -/
  | spopc (sw : Bool) (d a : SReg)
  /-- SCLZ (R109). Counts the leading zeros of a scalar. -/
  | sclz (sw : Bool) (d a : SReg)
  /-- SMOV (R109). Copies one scalar to another. -/
  | smov (sw : Bool) (d a : SReg)
  /-- SMOVI (R112). Writes a sign-extended immediate or literal to a scalar. -/
  | smovi (sw : Bool) (d : SReg) (i : Imm 18)
  /-- SLUI (R112). Writes an immediate or literal into the upper 32 bits of a scalar. -/
  | slui (sw : Bool) (d : SReg) (i : Imm 18)
  /-- SMOV_SPECIAL (R112). Reads a special register 1-14 into a scalar. -/
  | smovSpecial (sw : Bool) (d : SReg) (n : BitVec 12)
  /-- VADD (R113). Adds vector lanes modulo 2^32. -/
  | vadd (sw : Bool) (d a b : VReg) (k : KReg)
  /-- VSUB (R113). Subtracts vector lanes modulo 2^32. -/
  | vsub (sw : Bool) (d a b : VReg) (k : KReg)
  /-- VADDS (R113). Adds signed lanes with saturation. -/
  | vadds (sw : Bool) (d a b : VReg) (k : KReg)
  /-- VSUBS (R113). Subtracts signed lanes with saturation. -/
  | vsubs (sw : Bool) (d a b : VReg) (k : KReg)
  /-- VADDS_U (R113). Adds unsigned lanes with saturation. -/
  | vaddsU (sw : Bool) (d a b : VReg) (k : KReg)
  /-- VSUBS_U (R113). Subtracts unsigned lanes with saturation. -/
  | vsubsU (sw : Bool) (d a b : VReg) (k : KReg)
  /-- VMUL (R113). Multiplies lanes modulo 2^32. -/
  | vmul (sw : Bool) (d a b : VReg) (k : KReg)
  /-- VMULH (R113). Writes the high half of the signed lane product. -/
  | vmulh (sw : Bool) (d a b : VReg) (k : KReg)
  /-- VMULH_U (R113). Writes the high half of the unsigned lane product. -/
  | vmulhU (sw : Bool) (d a b : VReg) (k : KReg)
  /-- VAND (R113). Bitwise AND of lanes. -/
  | vand (sw : Bool) (d a b : VReg) (k : KReg)
  /-- VOR (R113). Bitwise OR of lanes. -/
  | vor (sw : Bool) (d a b : VReg) (k : KReg)
  /-- VXOR (R113). Bitwise XOR of lanes. -/
  | vxor (sw : Bool) (d a b : VReg) (k : KReg)
  /-- VSHL (R113). Shifts lanes left by b[4:0]. -/
  | vshl (sw : Bool) (d a b : VReg) (k : KReg)
  /-- VSHR (R113). Shifts lanes right logically. -/
  | vshr (sw : Bool) (d a b : VReg) (k : KReg)
  /-- VSAR (R113). Shifts lanes right arithmetically. -/
  | vsar (sw : Bool) (d a b : VReg) (k : KReg)
  /-- VMIN (R113). Signed minimum of lanes. -/
  | vmin (sw : Bool) (d a b : VReg) (k : KReg)
  /-- VMAX (R113). Signed maximum of lanes. -/
  | vmax (sw : Bool) (d a b : VReg) (k : KReg)
  /-- VMIN_U (R113). Unsigned minimum of lanes. -/
  | vminU (sw : Bool) (d a b : VReg) (k : KReg)
  /-- VMAX_U (R113). Unsigned maximum of lanes. -/
  | vmaxU (sw : Bool) (d a b : VReg) (k : KReg)
  /-- VABS (R113). Signed absolute value of lanes, saturating at 0x7FFF_FFFF. -/
  | vabs (sw : Bool) (d a : VReg) (k : KReg)
  /-- VMAD (R114). Multiply-adds lanes modulo 2^32. -/
  | vmad (sw : Bool) (d a b c : VReg)
  /-- VDOT4 (R114). Adds the signed byte dot product to an INT32 accumulator lane. -/
  | vdot4 (sw : Bool) (d a b c : VReg)
  /-- VDOT4_U (R114). Adds the unsigned byte dot product to an INT32 accumulator lane. -/
  | vdot4U (sw : Bool) (d a b c : VReg)
  /-- VCMP_EQ (R115). Writes a mask of lanes where a equals b. -/
  | vcmpEq (sw : Bool) (d : KReg) (a b : VReg) (k : KReg)
  /-- VCMP_NE (R115). Writes a mask of lanes where a differs from b. -/
  | vcmpNe (sw : Bool) (d : KReg) (a b : VReg) (k : KReg)
  /-- VCMP_LT (R115). Writes a mask of lanes where a < b signed. -/
  | vcmpLt (sw : Bool) (d : KReg) (a b : VReg) (k : KReg)
  /-- VCMP_LE (R115). Writes a mask of lanes where a <= b signed. -/
  | vcmpLe (sw : Bool) (d : KReg) (a b : VReg) (k : KReg)
  /-- VCMP_LTU (R115). Writes a mask of lanes where a < b unsigned. -/
  | vcmpLtu (sw : Bool) (d : KReg) (a b : VReg) (k : KReg)
  /-- VCMP_LEU (R115). Writes a mask of lanes where a <= b unsigned. -/
  | vcmpLeu (sw : Bool) (d : KReg) (a b : VReg) (k : KReg)
  /-- VSEL (R116). Selects a or b per lane by a mask register. -/
  | vsel (sw : Bool) (d a b : VReg) (k m : KReg)
  /-- VBFX_U (R117). Extracts a zero-extended bit field from lanes. -/
  | vbfxU (sw : Bool) (d a : VReg) (p w : BitVec 5)
  /-- VBFX_S (R117). Extracts a sign-extended bit field from lanes. -/
  | vbfxS (sw : Bool) (d a : VReg) (p w : BitVec 5)
  /-- VBFI (R117). Inserts the low bits of a lane into a field of the destination lane. -/
  | vbfi (sw : Bool) (d a : VReg) (p w : BitVec 5)
  /-- VPOPC (R113). Counts the one bits of each lane. -/
  | vpopc (sw : Bool) (d a : VReg) (k : KReg)
  /-- VCLZ (R113). Counts the leading zeros of each lane. -/
  | vclz (sw : Bool) (d a : VReg) (k : KReg)
  /-- VMOV (R113). Copies one vector register to another. -/
  | vmov (sw : Bool) (d a : VReg) (k : KReg)
  /-- VMOVI (R113). Writes a sign-extended immediate or literal to every active lane. -/
  | vmovi (sw : Bool) (d : VReg) (i : Imm 18)
  /-- VMOV_LANE (R113). Writes each lane's index into a vector register. -/
  | vmovLane (sw : Bool) (d : VReg)
  /-- VADD_IMM (R113). Adds a sign-extended immediate or literal to each active lane. -/
  | vaddImm (sw : Bool) (d a : VReg) (i : Imm 12)
  /-- FADD (R118). Adds FP32 lanes with one rounding. -/
  | fadd (sw : Bool) (d a b : VReg) (k : KReg) (m : BitVec 3)
  /-- FSUB (R118). Subtracts FP32 lanes with one rounding. -/
  | fsub (sw : Bool) (d a b : VReg) (k : KReg) (m : BitVec 3)
  /-- FMUL (R118). Multiplies FP32 lanes with one rounding. -/
  | fmul (sw : Bool) (d a b : VReg) (k : KReg) (m : BitVec 3)
  /-- FMA (R118). Fused multiply-add of FP32 lanes with one rounding. -/
  | fma (sw : Bool) (d a b c : VReg)
  /-- FMIN (R119). FP32 minimum of lanes with the NaN and signed-zero rules. -/
  | fmin (sw : Bool) (d a b : VReg) (k : KReg) (m : BitVec 3)
  /-- FMAX (R119). FP32 maximum of lanes with the NaN and signed-zero rules. -/
  | fmax (sw : Bool) (d a b : VReg) (k : KReg) (m : BitVec 3)
  /-- FCMP_EQ (R120). Writes a mask of lanes whose FP32 values are equal. -/
  | fcmpEq (sw : Bool) (d : KReg) (a b : VReg) (k : KReg)
  /-- FCMP_NE (R120). Writes a mask of lanes whose FP32 values differ or are unordered. -/
  | fcmpNe (sw : Bool) (d : KReg) (a b : VReg) (k : KReg)
  /-- FCMP_LT (R120). Writes a mask of lanes where a < b, neither NaN. -/
  | fcmpLt (sw : Bool) (d : KReg) (a b : VReg) (k : KReg)
  /-- FCMP_LE (R120). Writes a mask of lanes where a <= b, neither NaN. -/
  | fcmpLe (sw : Bool) (d : KReg) (a b : VReg) (k : KReg)
  /-- FCMP_UN (R120). Writes a mask of lanes where either value is NaN. -/
  | fcmpUn (sw : Bool) (d : KReg) (a b : VReg) (k : KReg)
  /-- FCMP_ORD (R120). Writes a mask of lanes where neither value is NaN. -/
  | fcmpOrd (sw : Bool) (d : KReg) (a b : VReg) (k : KReg)
  /-- FCLASS (R121). Writes a one-hot class word for each FP32 lane pattern. -/
  | fclass (sw : Bool) (d a : VReg) (k : KReg)
  /-- FRCP (R124). Faithful FP32 reciprocal, variable latency. -/
  | frcp (sw : Bool) (d a : VReg) (k : KReg) (m : BitVec 2)
  /-- FRSQ (R124). Faithful FP32 reciprocal square root. -/
  | frsq (sw : Bool) (d a : VReg) (k : KReg) (m : BitVec 2)
  /-- FSQRT (R124). Correctly rounded FP32 square root. -/
  | fsqrt (sw : Bool) (d a : VReg) (k : KReg) (m : BitVec 2)
  /-- FEXP2 (R124). FP32 base-2 exponential within 2 ulp. -/
  | fexp2 (sw : Bool) (d a : VReg) (k : KReg) (m : BitVec 2)
  /-- FLOG2 (R124). FP32 base-2 logarithm. -/
  | flog2 (sw : Bool) (d a : VReg) (k : KReg) (m : BitVec 2)
  /-- FSIN (R124). Sine of pi times x in FP32. -/
  | fsin (sw : Bool) (d a : VReg) (k : KReg) (m : BitVec 2)
  /-- FCOS (R124). Cosine of pi times x in FP32. -/
  | fcos (sw : Bool) (d a : VReg) (k : KReg) (m : BitVec 2)
  /-- FTANH (R124). Hyperbolic tangent in FP32. -/
  | ftanh (sw : Bool) (d a : VReg) (k : KReg) (m : BitVec 2)
  /-- FDIV (R123). Correctly rounded FP32 division, variable latency. -/
  | fdiv (sw : Bool) (d a b : VReg) (k : KReg) (m : BitVec 3)
  /-- FROUND_RN (R122). Rounds lanes to integral FP32, to nearest even. -/
  | froundRn (sw : Bool) (d a : VReg)
  /-- FROUND_RZ (R122). Rounds lanes to integral FP32 toward zero. -/
  | froundRz (sw : Bool) (d a : VReg)
  /-- FROUND_RU (R122). Rounds lanes to integral FP32 toward +infinity. -/
  | froundRu (sw : Bool) (d a : VReg)
  /-- FROUND_RD (R122). Rounds lanes to integral FP32 toward -infinity. -/
  | froundRd (sw : Bool) (d a : VReg)
  /-- FROUND (R122). Rounds lanes to integral FP32 in the mode of fm.rm. -/
  | fround (sw : Bool) (d a : VReg)
  /-- CVT (R125). Converts one element per lane between format codes. -/
  | cvt (sw : Bool) (d a : VReg) (f g : BitVec 4)
  /-- PACK2 (R126). Narrows two lanes into two 16-bit elements of fm.cfmt. -/
  | pack2 (sw : Bool) (d a b : VReg) (k : KReg)
  /-- PACK4 (R126). Narrows three lanes into bytes 0-2 of the destination, keeping byte 3. -/
  | pack4 (sw : Bool) (d a b c : VReg)
  /-- UNPACK (R127). Widens one element of a lane to FP32 or INT32. -/
  | unpack (sw : Bool) (d a : VReg) (f : BitVec 4) (i : BitVec 3)
  /-- BSCALE (R128). Multiplies FP32 lanes by a UE8M0 scale. -/
  | bscale (sw : Bool) (d a b : VReg) (k : KReg)
  /-- BAPPLY (R128). Divides lanes by a UE8M0 scale and narrows to fm.cfmt. -/
  | bapply (sw : Bool) (d a b : VReg) (k : KReg)
  /-- FMSET_IMM (R129). Writes fm[17:0] from an immediate. -/
  | fmsetImm (sw : Bool) (i : BitVec 18)
  /-- FMSET (R129). Writes fm from a scalar, raising FMT on nonzero high bits. -/
  | fmset (sw : Bool) (a : SReg)
  /-- FMGET (R129). Reads fm into a scalar. -/
  | fmget (sw : Bool) (d : SReg)
  /-- SHFL_IDX (R130). Each lane takes a from the lane a vector index names. -/
  | shflIdx (sw : Bool) (d a b : VReg) (k : KReg)
  /-- SHFL_XOR (R130). Each lane takes a from lane l xor s[b]. -/
  | shflXor (sw : Bool) (d a : VReg) (b : SReg) (k : KReg)
  /-- SHFL_UP (R130). Each lane takes a from lane l - s[b]. -/
  | shflUp (sw : Bool) (d a : VReg) (b : SReg) (k : KReg)
  /-- SHFL_DN (R130). Each lane takes a from lane l + s[b]. -/
  | shflDn (sw : Bool) (d a : VReg) (b : SReg) (k : KReg)
  /-- BCAST (R130). Every lane takes a from lane s[b]. -/
  | bcast (sw : Bool) (d a : VReg) (b : SReg) (k : KReg)
  /-- RDC_ADD (R131). Reduces lanes by integer add over the fixed tree into a scalar. -/
  | rdcAdd (sw : Bool) (d : SReg) (a : VReg) (k : KReg)
  /-- RDC_MIN (R131). Reduces lanes by signed minimum into a scalar. -/
  | rdcMin (sw : Bool) (d : SReg) (a : VReg) (k : KReg)
  /-- RDC_MAX (R131). Reduces lanes by signed maximum into a scalar. -/
  | rdcMax (sw : Bool) (d : SReg) (a : VReg) (k : KReg)
  /-- RDC_MIN_U (R131). Reduces lanes by unsigned minimum into a scalar. -/
  | rdcMinU (sw : Bool) (d : SReg) (a : VReg) (k : KReg)
  /-- RDC_MAX_U (R131). Reduces lanes by unsigned maximum into a scalar. -/
  | rdcMaxU (sw : Bool) (d : SReg) (a : VReg) (k : KReg)
  /-- RDC_FADD (R131). Reduces FP32 lanes by add over the fixed tree. -/
  | rdcFadd (sw : Bool) (d : SReg) (a : VReg) (k : KReg)
  /-- RDC_FMIN (R131). Reduces FP32 lanes by minimum. -/
  | rdcFmin (sw : Bool) (d : SReg) (a : VReg) (k : KReg)
  /-- RDC_FMAX (R131). Reduces FP32 lanes by maximum. -/
  | rdcFmax (sw : Bool) (d : SReg) (a : VReg) (k : KReg)
  /-- SCAN_ADD (R131). Inclusive integer-add scan of lanes. -/
  | scanAdd (sw : Bool) (d a : VReg) (k : KReg)
  /-- SCAN_MIN (R131). Inclusive signed-minimum scan of lanes. -/
  | scanMin (sw : Bool) (d a : VReg) (k : KReg)
  /-- SCAN_MAX (R131). Inclusive signed-maximum scan of lanes. -/
  | scanMax (sw : Bool) (d a : VReg) (k : KReg)
  /-- SCAN_MIN_U (R131). Inclusive unsigned-minimum scan of lanes. -/
  | scanMinU (sw : Bool) (d a : VReg) (k : KReg)
  /-- SCAN_MAX_U (R131). Inclusive unsigned-maximum scan of lanes. -/
  | scanMaxU (sw : Bool) (d a : VReg) (k : KReg)
  /-- SCAN_FADD (R131). Inclusive FP32 add scan of lanes. -/
  | scanFadd (sw : Bool) (d a : VReg) (k : KReg)
  /-- SCAN_FMIN (R131). Inclusive FP32 minimum scan of lanes. -/
  | scanFmin (sw : Bool) (d a : VReg) (k : KReg)
  /-- SCAN_FMAX (R131). Inclusive FP32 maximum scan of lanes. -/
  | scanFmax (sw : Bool) (d a : VReg) (k : KReg)
  /-- VOTE_ANY (R132). Writes 1 when some lane's value is nonzero. -/
  | voteAny (sw : Bool) (d : SReg) (a : VReg) (k : KReg)
  /-- VOTE_ALL (R132). Writes 1 when every lane's value is nonzero. -/
  | voteAll (sw : Bool) (d : SReg) (a : VReg) (k : KReg)
  /-- VOTE_UNI (R132). Writes 1 when every lane holds the same pattern. -/
  | voteUni (sw : Bool) (d : SReg) (a : VReg) (k : KReg)
  /-- BALLOT (R132). Writes a mask of lanes whose value is nonzero. -/
  | ballot (sw : Bool) (d : KReg) (a : VReg) (k : KReg)
  /-- KAND (R133). ANDs two mask registers. -/
  | kand (sw : Bool) (d a b : KReg)
  /-- KOR (R133). ORs two mask registers. -/
  | kor (sw : Bool) (d a b : KReg)
  /-- KXOR (R133). XORs two mask registers. -/
  | kxor (sw : Bool) (d a b : KReg)
  /-- KANDN (R133). Computes a AND NOT b on masks. -/
  | kandn (sw : Bool) (d a b : KReg)
  /-- KNOT (R133). Complements a mask within k0. -/
  | knot (sw : Bool) (d a : KReg)
  /-- KMOV (R133). Copies a mask within k0. -/
  | kmov (sw : Bool) (d a : KReg)
  /-- KPOP (R134). Counts the set bits of a mask. -/
  | kpop (sw : Bool) (d : SReg) (a : KReg)
  /-- KFIRST (R134). Writes the index of the lowest set bit of a mask. -/
  | kfirst (sw : Bool) (d : SReg) (a : KReg)
  /-- KSET (R134). Sets the first n bits of a mask. -/
  | kset (sw : Bool) (d : KReg) (i : BitVec 18)
  /-- LD (R205). Loads linear memory per active lane; the result is pending. -/
  | ld (sw : Bool) (t : VReg) (b : SReg) (x : VReg) (w h : BitVec 2) (acq : Bool)
  /-- ST (R205). Stores per active lane to linear memory. -/
  | st (sw : Bool) (t : VReg) (b : SReg) (x : VReg) (w h : BitVec 2) (rel : Bool)
  /-- SLD (R206). Loads from the block's stash per lane. -/
  | sld (sw : Bool) (t : VReg) (b : SReg) (x : VReg) (w : BitVec 2) (acq : Bool)
  /-- SST (R206). Stores to the block's stash per lane. -/
  | sst (sw : Bool) (t : VReg) (b : SReg) (x : VReg) (w : BitVec 2) (rel : Bool)
  /-- PLD (R207). Loads from the lane's private area. -/
  | pld (sw : Bool) (t : VReg) (b : SReg) (x : VReg) (w : BitVec 2)
  /-- PST (R207). Stores to the lane's private area. -/
  | pst (sw : Bool) (t : VReg) (b : SReg) (x : VReg) (w : BitVec 2)
  /-- TLD (R208). Reads one tensor tile line into four registers. -/
  | tld (sw : Bool) (d : VReg) (a b c : SReg)
  /-- TST (R208). Writes four registers to one tensor tile line. -/
  | tst (sw : Bool) (d : VReg) (a b c : SReg)
  /-- SMAP (R211). Maps a stash range onto linear addresses. -/
  | smap (sw : Bool) (a b c : SReg)
  /-- SUNMAP (R212). Removes a mapped stash range, holding until dirty units are written back. -/
  | sunmap (sw : Bool) (a b : SReg)
  /-- PREF (R210). Starts a fill of each active lane's line without faulting. -/
  | pref (sw : Bool) (b : SReg) (x : VReg) (h : BitVec 2)
  /-- DISCARD (R209). Discards a tensor tile at its home slice. -/
  | discard (sw : Bool) (a b c : SReg)
  /-- LASTUSE (R209). Makes a tile's line the first eviction candidate. -/
  | lastuse (sw : Bool) (a b c : SReg)
  /-- CWB (R213). Writes back dirty linear lines of a range to HBM4E. -/
  | cwb (sw : Bool) (a b : SReg)
  /-- AMO_ADD (R224). Atomic add at the home slice, returning the old value. -/
  | amoAdd (sw : Bool) (t : VReg) (b : SReg) (x : VReg) (w : Bool) (o : BitVec 2)
  /-- AMO_MIN (R224). Atomic signed minimum, returning the old value. -/
  | amoMin (sw : Bool) (t : VReg) (b : SReg) (x : VReg) (w : Bool) (o : BitVec 2)
  /-- AMO_MAX (R224). Atomic signed maximum, returning the old value. -/
  | amoMax (sw : Bool) (t : VReg) (b : SReg) (x : VReg) (w : Bool) (o : BitVec 2)
  /-- AMO_AND (R224). Atomic AND, returning the old value. -/
  | amoAnd (sw : Bool) (t : VReg) (b : SReg) (x : VReg) (w : Bool) (o : BitVec 2)
  /-- AMO_OR (R224). Atomic OR, returning the old value. -/
  | amoOr (sw : Bool) (t : VReg) (b : SReg) (x : VReg) (w : Bool) (o : BitVec 2)
  /-- AMO_XOR (R224). Atomic XOR, returning the old value. -/
  | amoXor (sw : Bool) (t : VReg) (b : SReg) (x : VReg) (w : Bool) (o : BitVec 2)
  /-- AMO_XCHG (R224). Atomic exchange, returning the old value. -/
  | amoXchg (sw : Bool) (t : VReg) (b : SReg) (x : VReg) (w : Bool) (o : BitVec 2)
  /-- AMO_FADD (R226). Atomic FP32 add rounded to nearest, returning the old value. -/
  | amoFadd (sw : Bool) (t : VReg) (b : SReg) (x : VReg) (o : BitVec 2)
  /-- AMOCAS (R225). Atomic compare and swap per lane in ascending order. -/
  | amocas (sw : Bool) (t : VReg) (b : SReg) (x : VReg) (w : Bool) (o : BitVec 2)
  /-- RED_ADD (R227). Reduction add at the home slice with no result. -/
  | redAdd (sw : Bool) (t : VReg) (b : SReg) (x : VReg) (w : Bool) (rel : Bool)
  /-- RED_MIN (R227). Reduction signed minimum at the home slice. -/
  | redMin (sw : Bool) (t : VReg) (b : SReg) (x : VReg) (w : Bool) (rel : Bool)
  /-- RED_MAX (R227). Reduction signed maximum at the home slice. -/
  | redMax (sw : Bool) (t : VReg) (b : SReg) (x : VReg) (w : Bool) (rel : Bool)
  /-- RED_AND (R227). Reduction AND at the home slice. -/
  | redAnd (sw : Bool) (t : VReg) (b : SReg) (x : VReg) (w : Bool) (rel : Bool)
  /-- RED_OR (R227). Reduction OR at the home slice. -/
  | redOr (sw : Bool) (t : VReg) (b : SReg) (x : VReg) (w : Bool) (rel : Bool)
  /-- RED_XOR (R227). Reduction XOR at the home slice. -/
  | redXor (sw : Bool) (t : VReg) (b : SReg) (x : VReg) (w : Bool) (rel : Bool)
  /-- RED_FADD (R227). Reduction FP32 add at the home slice. -/
  | redFadd (sw : Bool) (t : VReg) (b : SReg) (x : VReg) (rel : Bool)
  /-- FEN (R230). Cumulative acquire, release or both fence at a scope. -/
  | fen (sw : Bool) (p : BitVec 3) (o : BitVec 2)
  /-- IFEN (R231). Invalidates the context's L1 instruction lines on the core. -/
  | ifen (sw : Bool)
  /-- CPY (R215). Hands a copy between global memory and stash to the copy engine. -/
  | cpy (sw : Bool) (y x : Bool) (a b c : SReg)
  /-- CPYM (R216). Copies global bytes into the stash of each masked block of the cluster group. -/
  | cpym (sw : Bool) (m : BitVec 4) (a b c : SReg)
  /-- CPYT_TS (R217). Copies a tensor tile into 512 stash bytes. -/
  | cpytTs (sw : Bool) (a b c : SReg)
  /-- CPYT_ST (R217). Copies 512 stash bytes into a tensor tile. -/
  | cpytSt (sw : Bool) (a b c : SReg)
  /-- BCL_C (R220). Closes the team's open copies into a numbered copy batch. -/
  | bclC (sw : Bool) (d : SReg)
  /-- BCL_M (R154). Closes the team's open matrix work into a numbered matrix batch. -/
  | bclM (sw : Bool) (d : SReg)
  /-- BWT_C (R221). Holds the team until a copy batch and all earlier ones complete, with a timeout literal. -/
  | bwtC (sw : Bool) (a : SReg) (timeout : BitVec 32)
  /-- BWT_M (R155). Holds the team until a matrix batch and all earlier ones complete, with a timeout literal. -/
  | bwtM (sw : Bool) (a : SReg) (timeout : BitVec 32)
  /-- BQRY_C (R222). Writes the state of the team's copy batches. -/
  | bqryC (sw : Bool) (d : SReg)
  /-- BQRY_M (R222). Writes the state of the team's matrix batches. -/
  | bqryM (sw : Bool) (d : SReg)
  /-- MMA_BF16 (R143). Issues one 32x32x16 BF16 matrix step into a tile. -/
  | mmaBf16 (sw : Bool) (z : ZReg) (a : VReg) (b : SReg) (r : Bool)
  /-- MMA_F16 (R143). Issues one 32x32x16 FP16 matrix step. -/
  | mmaF16 (sw : Bool) (z : ZReg) (a : VReg) (b : SReg) (r : Bool)
  /-- MMA_F8 (R143). Issues one scaled 32x32x32 FP8 matrix step. -/
  | mmaF8 (sw : Bool) (z : ZReg) (a : VReg) (b : SReg) (r : Bool)
  /-- MMA_F4 (R143). Issues one scaled 32x32x64 E2M1 matrix step. -/
  | mmaF4 (sw : Bool) (z : ZReg) (a : VReg) (b : SReg) (r : Bool)
  /-- MMA_I8 (R143). Issues one 32x32x32 INT8 matrix step. -/
  | mmaI8 (sw : Bool) (z : ZReg) (a : VReg) (b : SReg) (r : Bool)
  /-- MMA_H16 (R143). Issues one 16x16x16 BF16 matrix step. -/
  | mmaH16 (sw : Bool) (z : ZReg) (a : VReg) (b : SReg) (r : Bool)
  /-- TSA (R143). Issues one 32x32x64 ternary sign-select step. -/
  | tsa (sw : Bool) (z : ZReg) (a : VReg) (b : SReg) (r : Bool)
  /-- MML_BF16 (R146). Issues n BF16 steps with register and stash increments from a literal. -/
  | mmlBf16 (sw : Bool) (z : ZReg) (a : VReg) (b : SReg) (r : Bool) (n : BitVec 8) (ainc : BitVec 6) (binc : BitVec 12)
  /-- MML_F16 (R146). Issues n FP16 steps. -/
  | mmlF16 (sw : Bool) (z : ZReg) (a : VReg) (b : SReg) (r : Bool) (n : BitVec 8) (ainc : BitVec 6) (binc : BitVec 12)
  /-- MML_F8 (R146). Issues n scaled FP8 steps. -/
  | mmlF8 (sw : Bool) (z : ZReg) (a : VReg) (b : SReg) (r : Bool) (n : BitVec 8) (ainc : BitVec 6) (binc : BitVec 12)
  /-- MML_F4 (R146). Issues n scaled E2M1 steps. -/
  | mmlF4 (sw : Bool) (z : ZReg) (a : VReg) (b : SReg) (r : Bool) (n : BitVec 8) (ainc : BitVec 6) (binc : BitVec 12)
  /-- MML_I8 (R146). Issues n INT8 steps. -/
  | mmlI8 (sw : Bool) (z : ZReg) (a : VReg) (b : SReg) (r : Bool) (n : BitVec 8) (ainc : BitVec 6) (binc : BitVec 12)
  /-- MML_H16 (R146). Issues n 16x16x16 BF16 steps. -/
  | mmlH16 (sw : Bool) (z : ZReg) (a : VReg) (b : SReg) (r : Bool) (n : BitVec 8) (ainc : BitVec 6) (binc : BitVec 12)
  /-- TSL (R146). Issues n ternary steps. -/
  | tsl (sw : Bool) (z : ZReg) (a : VReg) (b : SReg) (r : Bool) (n : BitVec 8) (ainc : BitVec 6) (binc : BitVec 12)
  /-- ZCLR (R151). Queues the clearing of a tile. -/
  | zclr (sw : Bool) (z : ZReg)
  /-- ZLD (R151). Queues a load of a tile from 4096 stash bytes. -/
  | zld (sw : Bool) (z : ZReg) (b : SReg)
  /-- ZST (R153). Queues a store of a tile to 4096 stash bytes. -/
  | zst (sw : Bool) (z : ZReg) (b : SReg)
  /-- ZCVT (R152). Queues a conversion of a tile into registers in the row layout. -/
  | zcvt (sw : Bool) (z : ZReg) (a : VReg)
  /-- BR (R289). Transfers the whole team to a clause header. -/
  | br (sw : Bool) (o : BitVec 20)
  /-- BCC (R289). Transfers the team when a condition on cc holds. -/
  | bcc (sw : Bool) (c : BitVec 4) (o : BitVec 20)
  /-- BMZ (R289). Branches when a mask ANDed with exec is empty. -/
  | bmz (sw : Bool) (k : KReg) (o : BitVec 20)
  /-- BMNZ (R289). Branches when a mask ANDed with exec is not empty. -/
  | bmnz (sw : Bool) (k : KReg) (o : BitVec 20)
  /-- CALL (R289). Pushes a CALL entry, writes lk and transfers. -/
  | call (sw : Bool) (o : BitVec 20)
  /-- MIF (R291). Pushes an IF entry and narrows exec to a mask. -/
  | mif (sw : Bool) (k : KReg) (o : BitVec 20)
  /-- MELSE (R291). Turns the IF entry to ELSE and runs the else lanes. -/
  | melse (sw : Bool) (o : BitVec 20)
  /-- LPB (R292). Opens a counted loop with a bound and step literal. -/
  | lpb (sw : Bool) (d : SReg) (o : BitVec 15) (bound steps : BitVec 32)
  /-- LPB_W (R292). Opens a loop that runs while any lane stays, with a bound. -/
  | lpbW (sw : Bool) (o : BitVec 15) (bound steps : BitVec 32)
  /-- LPE (R293). Ends a loop trip, continuing, exiting or raising TRIP. -/
  | lpe (sw : Bool) (o : BitVec 20)
  /-- MEND (R291). Pops an IF or ELSE entry and restores exec and fm. -/
  | mend (sw : Bool)
  /-- MBRK (R294). Removes masked lanes from the innermost loop until it exits. -/
  | mbrk (sw : Bool) (k : KReg)
  /-- MCONT (R294). Parks masked lanes until the next loop trip. -/
  | mcont (sw : Bool) (k : KReg)
  /-- EXIT (R290). Removes exec's lanes from k0; the team retires when k0 empties. -/
  | exit (sw : Bool)
  /-- NOP (R289). Does nothing for one issue cycle. -/
  | nop (sw : Bool)
  /-- JMP (R289). Transfers to a forward header held in a scalar. -/
  | jmp (sw : Bool) (a : SReg)
  /-- CALLI (R289). Calls the header held in a scalar. -/
  | calli (sw : Bool) (a : SReg)
  /-- RET (R289). Pops a CALL entry and returns. -/
  | ret (sw : Bool)
  /-- BAR_ARR (R297). Arrives at a block, cluster or grid barrier as a release. -/
  | barArr (sw : Bool) (l : BitVec 2) (n : BitVec 3)
  /-- BAR_WT (R297). Waits for the barrier's phase flip with a timeout literal. -/
  | barWt (sw : Bool) (l : BitVec 2) (n : BitVec 3) (timeout : BitVec 32)
  /-- BAR_SYNC (R297). Arrives and waits on a barrier as one instruction. -/
  | barSync (sw : Bool) (l : BitVec 2) (n : BitVec 3) (timeout : BitVec 32)
  /-- SPAWN (R298). Starts a new 64-lane team of the block at a header. -/
  | spawn (sw : Bool) (o : BitVec 20)
  /-- LAUNCH (R299). Quotes and starts a child grid from a launch record. -/
  | launch (sw : Bool) (d a : SReg)
  /-- CWAIT (R300). Waits for a child's completion word with a timeout literal. -/
  | cwait (sw : Bool) (d a : SReg) (timeout : BitVec 32)
  /-- RACQ (R301). Acquires a register block, zeroed. -/
  | racq (sw : Bool) (n : BitVec 3)
  /-- RREL (R301). Releases a register block, discarding its values. -/
  | rrel (sw : Bool) (n : BitVec 3)
  /-- TSET (R302). Arms or disarms the team's timer. -/
  | tset (sw : Bool) (a : SReg)
  /-- RPUT (R348). Ends a slice, installing its line at the home slice and waking waiters. -/
  | rput (sw : Bool) (d : VReg)
  /-- RMAT (R349). Materialises a recomputable tile and sets its map bit. -/
  | rmat (sw : Bool) (a b c : SReg)
  /-- RDROP (R349). Drops a recomputable tile and clears its map bit. -/
  | rdrop (sw : Bool) (a b c : SReg)
  /-- TRAP (R387). Raises SYSCALL with a code. -/
  | trap (sw : Bool) (c : BitVec 8)
  /-- BRK (R387). Raises BKPT with a code. -/
  | brk (sw : Bool) (c : BitVec 8)
  /-- TRET (R388). Ends a user-handler run, resuming or ending the grid. -/
  | tret (sw : Bool)
  /-- FQRY (R373). Reads a feature of the launch record. -/
  | fqry (sw : Bool) (d : SReg) (n : BitVec 12)
  /-- SYSR (R364). Privileged read of a system register. -/
  | sysr (sw : Bool) (d : SReg) (n : BitVec 12)
  /-- SYSW (R364). Privileged write of a system register. -/
  | sysw (sw : Bool) (a : SReg) (n : BitVec 12)
  /-- TLBI (R368). Drops the running context's translations device-wide. -/
  | tlbi (sw : Bool)
  /-- TLBI_ID (R368). Drops the translations of one identifier. -/
  | tlbiId (sw : Bool) (a : SReg)
  /-- TLBI_VA (R368). Drops the translation of one page of one identifier. -/
  | tlbiVa (sw : Bool) (a b : SReg)
  /-- REP (R47). Issues the next ALU form up to 64 times with stepped register fields. -/
  | rep (n : BitVec 6) (d a b c : BitVec 2)
  /-- INV (R162). Inverts a monotone routine per lane by ordered bisection, raising MONO on violations. -/
  | inv (t lo hi : VReg) (tol : BitVec 5) (dir : Bool) (x y : VReg) (len : BitVec 4)
  /-- REG (R57). Front core checks, measures and registers a Lanber image and writes the result record. -/
  | reg (ring : Ring) (addr res : BitVec 64)
  /-- QUOTE (R313). Cupping unit prices a kernel at a geometry and writes a quote record holding a tentative reservation. -/
  | quote (ring : Ring) (q : QuoteFields)
  /-- ACCEPT (R321). Commits, declines or refuses an open quote. -/
  | accept (ring : Ring) (qid : BitVec 64) (flags : BitVec 32)
  /-- REVOKE (R371). Declines an open quote or ends a live launch. -/
  | revoke (ring : Ring) (lid : BitVec 64)
  /-- PRED (R371). Reads a word and handles one of two packet arms. -/
  | pred (ring : Ring) (addr mask value : BitVec 64) (ctrl : BitVec 32)
  /-- FENCE (R371). Holds the ring until named completion words are written. -/
  | fence (ring : Ring) (lid : BitVec 64)
  /-- FENCE_SATISFIED (R371). The completion words a FENCE waits for have been written and the ring resumes. -/
  | fenceSatisfied (ring : Ring)
  /-- SIGNAL (R371). Writes a value as a sys-scope release after earlier packets. -/
  | signal (ring : Ring) (addr value : BitVec 64) (ctrl : BitVec 32)
  /-- STREAM_TAIL_WRITE (R369). An endpoint writes HTAIL or NTAIL, making packets readable. -/
  | streamTailWrite (ep : BitVec 64) (ring : Ring) (val : BitVec 32)
  /-- STREAM_ERR_CLEAR (R370). Writing 0 to ERR restarts a stopped ring with zero delta state. -/
  | streamErrClear (ep : BitVec 64) (stream : Nat) (val : BitVec 8)
  /-- HOST_FABRIC_WRITE (R372). A fabric write from a stream endpoint is translated, performed and acknowledged, or dropped. -/
  | hostFabricWrite (ep : BitVec 64) (tgt : FabricTarget) (data : List (BitVec 8))
  /-- MANAGEMENT_CLAIM (R361). A 16-byte claim write names the management endpoint. -/
  | managementClaim (ep newEp devid : BitVec 64)
  /-- SYSTEM_REGISTER_WRITE (R363). A write to a window register or table entry with no behaviour of its own. -/
  | systemRegisterWrite (ep : BitVec 64) (off : BitVec 24) (val : BitVec 64)
  /-- BUDGET_WRITE (R322). Sets the device power budget for later quotes. -/
  | budgetWrite (ep : BitVec 64) (val : BitVec 64)
  /-- OPP_WRITE (R325). Requests an operating point; raising applies at once, lowering is pending. -/
  | oppWrite (ep : BitVec 64) (val : BitVec 64)
  /-- OPP_LOWERING_APPLY (R325). A pending lower operating point takes effect once no higher-quoted launch is live. -/
  | oppLoweringApply
  /-- STASHCFG_WRITE (R181). Requests a new stash and L1 split for every core. -/
  | stashcfgWrite (ep : BitVec 64) (val : BitVec 64)
  /-- STASHCFG_APPLY (R181). A core takes the new split once it holds no block and no reservation forbids it. -/
  | stashcfgApply (core : Nat)
  /-- TLBINV_IDENTIFIER (R368). Management write invalidating every translation of an identifier. -/
  | tlbinvIdentifier (ep : BitVec 64) (val : BitVec 64)
  /-- TLBINV_PAGE (R368). Management write invalidating one page of an identifier. -/
  | tlbinvPage (ep : BitVec 64) (val : BitVec 64)
  /-- TLBI_DONE (R368). An invalidation's hold ends once no TLB holds a dropped translation and its users have performed. -/
  | tlbiDone (team : Nat)
  /-- AREPORT_WRITE (R374). Starts a signed attestation report, or refuses it. -/
  | areportWrite (ep : BitVec 64) (val : BitVec 64)
  /-- ATTEST_REPORT_DONE (R374). The signing engine writes the report and ASTAT becomes done. -/
  | attestReportDone
  /-- PREEMPT_SAVE (R392). Management endpoint pre-empts every block of a launch. -/
  | preemptSave (ep lid : BitVec 64)
  /-- PREEMPT_RESTORE (R392). Returns a launch's saved blocks to placement. -/
  | preemptRestore (ep lid : BitVec 64)
  /-- PREEMPT_EXPORT (R392). Saves a launch, writes its launch record and releases its reservation. -/
  | preemptExport (ep lid : BitVec 64)
  /-- PREEMPT_IMPORT (R392). Reads a launch record on the target and quotes it at its remaining bounds. -/
  | preemptImport (ep lid : BitVec 64)
  /-- QUOTE_LAPSE (R320). An open quote passes its expiry, releases its hold and is rewritten STALE. -/
  | quoteLapse (id : Nat)
  /-- PLACE_BLOCK (R264). The scheduler places a block on a core with its reserved resources and pushes code lines. -/
  | placeBlock (id : Nat)
  /-- RESULT_WRITE (R43). A variable-latency result is written to its register. -/
  | resultWrite (team n : Nat)
  /-- STORE_PERFORM (R236). A home slice orders a write into its word's coherence order. -/
  | storePerform (n : Nat)
  /-- ATOMIC_APPLY (R224). The home slice's atomic ALU applies an atomic or reduction. -/
  | atomicApply (team n : Nat)
  /-- LINE_FILL (R197). A miss fills a tile line at its home slice, expanding press blocks. -/
  | lineFill (team : Nat)
  /-- REBREW_SLOT_START (R344). A rebrew slot starts a slice run for a queued request. -/
  | rebrewSlotStart (core : Nat)
  /-- SLICE_CYC_OVERRUN (R346). A slice's resident cycles reach CYC before rput and it raises RDEPTH. -/
  | sliceCycOverrun (team : Nat)
  /-- SLICE_NJ_OVERRUN (R346). A slice's attributed energy exceeds NJ and it raises RDEPTH. -/
  | sliceNjOverrun (team : Nat)
  /-- COPY_LINE (R218). A copy engine writes one destination line, completing the copy with its last. -/
  | copyLine (team n : Nat)
  /-- MATRIX_STEP (R146). The matrix unit or ternary array runs one queued step into a tile. -/
  | matrixStep (team : Nat)
  /-- FLUSH_MARKER_REPORT (R242). A base die gathers flush markers and reports, letting a dev release perform. -/
  | flushMarkerReport (team die : Nat)
  /-- PEER_REPORT (R243). A peer's gathered report arrives for a sys-scope release. -/
  | peerReport (team peer : Nat)
  /-- PEERLATE (R243). A peer's report passes the system-scope allowance. -/
  | peerlate (team peer : Nat)
  /-- PEERFAIL (R331). A peer fails to report within 1 s and the launch ends. -/
  | peerfail (team peer : Nat)
  /-- BARRIER_TIMEOUT (R273). A waiting team's barrier timeout expires and it raises WAIT. -/
  | barrierTimeout (team : Nat)
  /-- BATCH_WAIT_TIMEOUT (R221). A bwt timeout expires and WAIT is raised and blamed. -/
  | batchWaitTimeout (team : Nat)
  /-- CWAIT_TIMEOUT (R300). A cwait timeout expires and WAIT is raised. -/
  | cwaitTimeout (team : Nat)
  /-- CHILD_LAUNCH_DONE (R299). A child is reserved and accepted and its identifier is written. -/
  | childLaunchDone (team : Nat)
  /-- TIMER_DUE (R302). The team's timer reaches its setting and falls due. -/
  | timerDue (team : Nat)
  /-- TIMER (R302). A due timer is taken as a TIMER trap at an instruction boundary. -/
  | timer (team : Nat)
  /-- USER_HANDLER_LIMIT (R383). A user-handler run reaches 256 instructions, raising TRIP or ending the grid. -/
  | userHandlerLimit (team : Nat)
  /-- PRIV_HANDLER_RETURN (R386). The ROM privileged handler resolves PAGE, PROT or RSTACK and resumes or forwards. -/
  | privHandlerReturn (team : Nat)
  /-- EMERGENCY_BLOCK_GRANT (R271). A returned emergency register block is lent to a waiting claimant. -/
  | emergencyBlockGrant (core : Nat)
  /-- MACHINE_PREEMPT (R389). The machine pre-empts a YIELD launch's blocks and saves their images. -/
  | machinePreempt (id : Nat)
  /-- RESTORE_BLOCK (R391). The scheduler restores a saved block on a core that offers its needs. -/
  | restoreBlock (blk core : Nat)
  /-- TEAM_RETIRE (R280). A team whose lanes exited and work completed retires and frees its resources. -/
  | teamRetire (team : Nat)
  /-- LAUNCH_COMPLETE (R281). All blocks and descendants done, the launch drains, writes its completion word and releases its reservation. -/
  | launchComplete (id : Nat)
  /-- COST_REPLAN (R311). The device raises cost-table entries between quotes. -/
  | costReplan (t : CostTable)
  /-- THERMAL_EMERGENCY (R323). A thermal emergency raises the throttle level beyond reservations. -/
  | thermalEmergency (level : BitVec 4)
  /-- THERMAL_END (R398). The throttle level falls back within its limit and the YIELD deficit is reset. -/
  | thermalEnd (level : BitVec 4)
  /-- ERROR_DETECTED (R393). Parity or ECC detects an error, retried, corrected or escalated. -/
  | errorDetected (e : ErrorReport)
  /-- QUOTING_RESUME (R394). Front cores resume reading QUOTE and ACCEPT packets after a fence. -/
  | quotingResume
  /-- DEVICE_RESET (R395). The device resets, ending every launch and answering awaiting flush markers FAILED. -/
  | deviceReset
  /-- ILLEGAL_WORD (R58). A team reaches a clause header or instruction word that decodes to no assigned form, and ILLEGAL is raised precisely at it. -/
  | illegalWord (team : Nat)
  /-- INSTRUCTION_FETCH (R401). A code word that is missing from the loop buffer and the L1 instruction cache arrives through the shared instruction level, and the team becomes ready again. -/
  | instructionFetch (team : Nat)
  deriving DecidableEq, Repr

end Sys2Proof
end

