-- ==== Sys2Proof/WellFormed.lean ====
section
/-! DEFINITION. The instructions that the encoding tables admit: the field limits of R34, R38, R59 (steps 4 and 5) and
R62 to R74 that the types of the operands do not already say. A step of another agent has no encoding and is always
well formed. -/
namespace Sys2Proof

/-- A 64-bit form names an even register (R200). -/
def pairOk (t : VReg) (w : BitVec 2) : Bool := w != 3 || t.toNat % 2 == 0
/-- amocas names a pair, or four registers (R68). -/
def casOk (t : VReg) (w : Bool) : Bool := t.toNat % (if w then 4 else 2) == 0
/-- The A group of a matrix form is aligned (R139, R141). -/
def groupOk (a : VReg) (g : Nat) : Bool := a.toNat % g == 0
/-- AINC keeps the alignment, and every step's group starts in v0 to v63 (R146). -/
def groupStepsOk (a : VReg) (n : BitVec 8) (g : Nat) (ainc : BitVec 6) : Bool :=
  ainc.toInt % (g : Int) == 0 && decide (0 ≤ (a.toNat : Int) + (n.toNat - 1 : Int) * ainc.toInt) &&
    decide ((a.toNat : Int) + (n.toNat - 1 : Int) * ainc.toInt ≤ 63)
/-- The width of a format code in bits (R81); 0 for a code that no format has. -/
def codeWidth (f : BitVec 4) : Nat :=
  match f.toNat with
  | 0 => 32 | 1 => 16 | 2 => 16 | 3 => 8 | 4 => 8 | 5 => 4 | 6 => 8 | 7 => 8 | 8 => 4 | 9 => 2 | 10 => 32 | 11 => 8
  | _ => 0
/-- The element index of unpack lies within the word (R65); a code of 12 to 15 is left to step 10. -/
def unpackIndexOk (f : BitVec 4) (i : BitVec 3) : Bool := codeWidth f == 0 || decide (i.toNat < 32 / codeWidth f)
/-- A barrier number within its level (R73). -/
def barrierOk (l : BitVec 2) (n : BitVec 3) : Bool :=
  l == 0 || (l == 1 && decide (n.toNat < 4)) || (l == 2 && decide (n.toNat < 2))
/-- A forward offset (R71). -/
def forward (o : BitVec 20) : Bool := decide (0 < o.toInt)
/-- A backward offset (R71). -/
def backward (o : BitVec 20) : Bool := decide (o.toInt < 0)

/-- The instruction satisfies every limit of the encoding tables. -/
def WellFormed : Instr → Bool
  | .ssel _ _ _ _ c => c != 15
  | .sbfx _ _ _ p w | .sbfi _ _ _ p w => decide (p.toNat + w.toNat + 1 ≤ 64)
  | .smovSpecial _ _ n => decide (1 ≤ n.toNat ∧ n.toNat ≤ 14)
  | .vbfxU _ _ _ p w | .vbfxS _ _ _ p w | .vbfi _ _ _ p w => decide (p.toNat + w.toNat + 1 ≤ 32)
  | .vcmpEq _ d _ _ _ | .vcmpNe _ d _ _ _ | .vcmpLt _ d _ _ _ | .vcmpLe _ d _ _ _ | .vcmpLtu _ d _ _ _
  | .vcmpLeu _ d _ _ _ | .fcmpEq _ d _ _ _ | .fcmpNe _ d _ _ _ | .fcmpLt _ d _ _ _ | .fcmpLe _ d _ _ _
  | .fcmpUn _ d _ _ _ | .fcmpOrd _ d _ _ _ | .ballot _ d _ _ | .kand _ d _ _ | .kor _ d _ _ | .kxor _ d _ _
  | .kandn _ d _ _ | .knot _ d _ | .kmov _ d _ => d != 0
  | .kset _ d i => d != 0 && decide (i.toNat ≤ 1024)
  | .unpack _ _ _ f i => unpackIndexOk f i
  | .ld _ t _ _ w _ _ | .st _ t _ _ w _ _ | .sld _ t _ _ w _ | .sst _ t _ _ w _ => pairOk t w
  | .pld _ t _ _ w | .pst _ t _ _ w => pairOk t w && decide (2 ≤ w.toNat)
  | .tld _ d _ _ _ | .tst _ d _ _ _ | .rput _ d => d.toNat % 4 == 0
  | .pref _ _ _ h => h != 3
  | .amoAdd _ t _ _ w _ | .amoMin _ t _ _ w _ | .amoMax _ t _ _ w _ | .amoAnd _ t _ _ w _ | .amoOr _ t _ _ w _
  | .amoXor _ t _ _ w _ | .amoXchg _ t _ _ w _ | .redAdd _ t _ _ w _ | .redMin _ t _ _ w _ | .redMax _ t _ _ w _
  | .redAnd _ t _ _ w _ | .redOr _ t _ _ w _ | .redXor _ t _ _ w _ => !w || t.toNat % 2 == 0
  | .amocas _ t _ _ w _ => casOk t w
  | .fen _ p o => decide (p.toNat ≤ 5) && o != 0
  | .cpym _ m _ _ _ => m != 0
  | .bwtC _ _ t | .bwtM _ _ t | .cwait _ _ _ t => t != 0
  | .mmaBf16 _ _ a _ _ | .mmaF16 _ _ a _ _ | .mmaI8 _ _ a _ _ | .mmaH16 _ _ a _ _ => groupOk a 4
  | .mmaF8 _ _ a _ _ | .mmaF4 _ _ a _ _ => groupOk a 8
  | .tsa _ _ a _ _ => groupOk a 2
  | .mmlBf16 _ _ a _ _ n i _ | .mmlF16 _ _ a _ _ n i _ | .mmlI8 _ _ a _ _ n i _ | .mmlH16 _ _ a _ _ n i _ =>
    groupOk a 4 && n != 0 && groupStepsOk a n 4 i
  | .mmlF8 _ _ a _ _ n i _ | .mmlF4 _ _ a _ _ n i _ => groupOk a 8 && n != 0 && groupStepsOk a n 8 i
  | .tsl _ _ a _ _ n i _ => groupOk a 2 && n != 0 && groupStepsOk a n 2 i
  | .br _ o | .bmz _ _ o | .bmnz _ _ o | .call _ o | .spawn _ o => o != 0
  | .bcc _ c o => c != 0 && c != 15 && o != 0
  | .mif _ _ o | .melse _ o => forward o
  | .lpb _ _ o bound _ | .lpbW _ o bound _ => o != 0 && bound != 0
  | .lpe _ o => backward o
  | .barArr _ l n => barrierOk l n
  | .barWt _ l n t | .barSync _ l n t => barrierOk l n && t != 0
  | .racq _ n | .rrel _ n => n != 0
  | .inv t lo hi _ _ x y _ => decide [t, lo, hi, x, y].Nodup
  | _ => true

/-- Whether a constructor is a step of an agent or a packet, which has no word in the instruction stream (the rows from 245 of
the opcode table on). -/
def isStep : Instr → Bool
  | .reg .. | .quote .. | .accept .. | .revoke .. | .pred .. | .fence .. | .fenceSatisfied .. | .signal ..
  | .streamTailWrite .. | .streamErrClear .. | .hostFabricWrite .. | .managementClaim .. | .systemRegisterWrite ..
  | .budgetWrite .. | .oppWrite .. | .oppLoweringApply | .stashcfgWrite .. | .stashcfgApply .. | .tlbinvIdentifier ..
  | .tlbinvPage .. | .tlbiDone .. | .areportWrite .. | .attestReportDone | .preemptSave .. | .preemptRestore ..
  | .preemptExport .. | .preemptImport .. | .quoteLapse .. | .placeBlock .. | .resultWrite .. | .storePerform ..
  | .atomicApply .. | .lineFill .. | .rebrewSlotStart .. | .sliceCycOverrun .. | .sliceNjOverrun .. | .copyLine ..
  | .matrixStep .. | .flushMarkerReport .. | .peerReport .. | .peerlate .. | .peerfail .. | .barrierTimeout ..
  | .batchWaitTimeout .. | .cwaitTimeout .. | .childLaunchDone .. | .timerDue .. | .timer .. | .userHandlerLimit ..
  | .privHandlerReturn .. | .emergencyBlockGrant .. | .machinePreempt .. | .restoreBlock .. | .teamRetire ..
  | .launchComplete .. | .costReplan .. | .thermalEmergency .. | .thermalEnd .. | .errorDetected .. | .quotingResume
  | .deviceReset | .illegalWord .. | .instructionFetch .. => true
  | _ => false

end Sys2Proof
end

