-- ==== Sys2Proof/Decode.lean ====
section
/-! DEFINITION. Words to instructions and back: the formats of R33, the opcode map of R62 to R74, the literal checks
of R77, clause headers (R26, R27), the class test (R28), and an encoder written from the same tables. -/
namespace Sys2Proof
open Sys2Proof.Machine (bits)

/-- Why a word is no instruction (R58, R59): its opcode is unassigned, its function value is, a field holds a value
that the tables refuse, or its literals are missing or malformed. -/
inductive Reject where
  | opcode | function | field | literal
  deriving DecidableEq, Repr

/-- What a word decodes to. The prefix inv stands apart, because a compiled value of `Instr` can hold only the first 244
constructors; `Decoded.names` says which instruction a result is. -/
inductive Decoded where
  | instr (i : Instr)
  | inv (t lo hi : VReg) (tol : BitVec 5) (dir : Bool) (x y : VReg) (len : BitVec 4)
  deriving DecidableEq, Repr

/-- The result of the decoder is this instruction. -/
def Decoded.names : Decoded → Instr → Bool
  | .instr i, j => i == j
  | .inv t lo hi tol dir x y len, .inv t' lo' hi' tol' dir' x' y' len' =>
    t == t' && lo == lo' && hi == hi' && tol == tol' && dir == dir' && x == x' && y == y' && len == len'
  | .inv .., _ => false

/-- S, the switch marker. -/
def swOf (w : Word) : Bool := w.getLsbD 31
/-- OP. -/
def opOf (w : Word) : BitVec 7 := BitVec.extractLsb' 24 7 w
/-- d of formats A to D, t of format M: bits [23:18]. -/
def dOf (w : Word) : BitVec 6 := BitVec.extractLsb' 18 6 w
/-- a of formats A to C, base of format M: bits [17:12]. -/
def aOf (w : Word) : BitVec 6 := BitVec.extractLsb' 12 6 w
/-- b of formats A and B, idx of format M: bits [11:6]. -/
def bOf (w : Word) : BitVec 6 := BitVec.extractLsb' 6 6 w
/-- c of format B: bits [5:0]. -/
def cOf (w : Word) : BitVec 6 := BitVec.extractLsb' 0 6 w
/-- k of format A: bits [5:3]. -/
def kOf (w : Word) : BitVec 3 := BitVec.extractLsb' 3 3 w
/-- m of format A: bits [2:0]. -/
def mOf (w : Word) : BitVec 3 := BitVec.extractLsb' 0 3 w
/-- imm12 of format C. -/
def imm12Of (w : Word) : BitVec 12 := BitVec.extractLsb' 0 12 w
/-- imm18 of format D. -/
def imm18Of (w : Word) : BitVec 18 := BitVec.extractLsb' 0 18 w
/-- cond of format E. -/
def condOf (w : Word) : BitVec 4 := BitVec.extractLsb' 20 4 w
/-- The mask name in cond[22:20]. -/
def condMask (w : Word) : BitVec 3 := BitVec.extractLsb' 20 3 w
/-- off20 of format E. -/
def offOf (w : Word) : BitVec 20 := BitVec.extractLsb' 0 20 w
/-- w of format M. -/
def wOf (w : Word) : BitVec 2 := BitVec.extractLsb' 4 2 w
/-- hint of format M. -/
def hintOf (w : Word) : BitVec 2 := BitVec.extractLsb' 2 2 w
/-- ord of format M, and the ordering of fen. -/
def ordOf (w : Word) : BitVec 2 := BitVec.extractLsb' 0 2 w
/-- The scope of fen. -/
def scopeOf (w : Word) : BitVec 3 := BitVec.extractLsb' 2 3 w
/-- z of format X. -/
def zOf (w : Word) : BitVec 3 := BitVec.extractLsb' 21 3 w
/-- a of format X. -/
def xaOf (w : Word) : BitVec 6 := BitVec.extractLsb' 15 6 w
/-- sb of format X. -/
def xbOf (w : Word) : BitVec 6 := BitVec.extractLsb' 9 6 w
/-- R of format X. -/
def xrOf (w : Word) : Bool := w.getLsbD 8
/-- n of format X, and the code of trap and brk. -/
def xnOf (w : Word) : BitVec 8 := BitVec.extractLsb' 0 8 w
/-- The position of vbfx and vbfi, imm12[9:5]. -/
def posOf (w : Word) : BitVec 5 := BitVec.extractLsb' 5 5 w
/-- The width less one of vbfx and vbfi, imm12[4:0]. -/
def widOf (w : Word) : BitVec 5 := BitVec.extractLsb' 0 5 w
/-- A format code in imm12[11:8]. -/
def codeOf (w : Word) : BitVec 4 := BitVec.extractLsb' 8 4 w
/-- The level of a barrier form, imm12[9:8]. -/
def levelOf (w : Word) : BitVec 2 := BitVec.extractLsb' 8 2 w
/-- The forward offset of lpb, imm18[14:0]. -/
def loopOff (w : Word) : BitVec 15 := BitVec.extractLsb' 0 15 w

/-- A mask register or tile in a 6-bit field. -/
def wide (k : BitVec 3) : BitVec 6 := 0#3 ++ k
/-- The mask register that a 6-bit field names; 8 to 63 name none (R34). -/
def maskSrc (f : BitVec 6) : Except Reject KReg :=
  if f < 8 then .ok (BitVec.setWidth 3 f) else .error .field
/-- The mask register that a 6-bit field names for writing; k0 is refused (R38). -/
def maskDst (f : BitVec 6) : Except Reject KReg :=
  if f < 8 ∧ f ≠ 0 then .ok (BitVec.setWidth 3 f) else .error .field
/-- An immediate field, or the optional literal beside a zero field (R30, R77). -/
def immOf {w : Nat} (f : BitVec w) : List Word → Except Reject (Imm w)
  | [] => .ok (.field f)
  | l :: _ => if f = 0 then .ok (.lit l) else .error .literal
/-- A timeout literal (R297): required, and not zero. -/
def timeoutOf : List Word → Except Reject (BitVec 32)
  | [] => .error .literal
  | l :: _ => if l = 0 then .error .literal else .ok l
/-- The two literals of lpb: the bound, not zero, and the step word (R72). -/
def loopLits : List Word → Except Reject (BitVec 32 × BitVec 32)
  | bound :: steps :: _ => if bound = 0 then .error .literal else .ok (bound, steps)
  | _ => .error .literal
/-- The literal of mml and tsl: AINC and BINC (R145, R146). -/
def stepsOf (a : VReg) (n : BitVec 8) (g : Nat) : List Word → Except Reject (BitVec 6 × BitVec 12)
  | [] => .error .literal
  | l :: _ =>
    if bits l.toNat 13 0 = 0 ∧ groupStepsOk a n g (BitVec.extractLsb' 26 6 l) then
      .ok (BitVec.extractLsb' 26 6 l, BitVec.extractLsb' 14 12 l)
    else .error .literal

/-- A word of format A. -/
def encA (sw : Bool) (op : BitVec 7) (d a b : BitVec 6) (k m : BitVec 3) : Word :=
  BitVec.ofBool sw ++ op ++ d ++ a ++ b ++ k ++ m
/-- A word of format B. -/
def encB (sw : Bool) (op : BitVec 7) (d a b c : BitVec 6) : Word := BitVec.ofBool sw ++ op ++ d ++ a ++ b ++ c
/-- A word of format C. -/
def encC (sw : Bool) (op : BitVec 7) (d a : BitVec 6) (i : BitVec 12) : Word := BitVec.ofBool sw ++ op ++ d ++ a ++ i
/-- A word of format D. -/
def encD (sw : Bool) (op : BitVec 7) (d : BitVec 6) (i : BitVec 18) : Word := BitVec.ofBool sw ++ op ++ d ++ i
/-- A word of format E. -/
def encE (sw : Bool) (op : BitVec 7) (c : BitVec 4) (o : BitVec 20) : Word := BitVec.ofBool sw ++ op ++ c ++ o
/-- A word of format M. -/
def encM (sw : Bool) (op : BitVec 7) (t b x : BitVec 6) (w h o : BitVec 2) : Word :=
  BitVec.ofBool sw ++ op ++ t ++ b ++ x ++ w ++ h ++ o
/-- A word of format X. -/
def encX (sw : Bool) (op : BitVec 7) (z : BitVec 3) (a b : BitVec 6) (r : Bool) (n : BitVec 8) : Word :=
  BitVec.ofBool sw ++ op ++ z ++ a ++ b ++ BitVec.ofBool r ++ n
/-- Format C with an immediate or the literal that replaces it. -/
def encImmC (sw : Bool) (op : BitVec 7) (d a : BitVec 6) : Imm 12 → List Word
  | .field f => [encC sw op d a f]
  | .lit l => [encC sw op d a 0, l]
/-- Format D with an immediate or the literal that replaces it. -/
def encImmD (sw : Bool) (op : BitVec 7) (d : BitVec 6) : Imm 18 → List Word
  | .field f => [encD sw op d f]
  | .lit l => [encD sw op d 0, l]
/-- The width field of an atomic: 2 for 32 bits, 3 for 64 (R68). -/
def atomW (w : Bool) : BitVec 2 := if w then 3 else 2

/-- The instruction of an opcode's word, with the literals that its clause marks directly after it (R62 to R74). Steps
3 to 5 of R59: the opcode, the function and zero fields, the field ranges, and the literals. A literal that the form
does not take is left to the literal word itself (R77). -/
def decodeOp (op : Nat) (w : Word) (ls : List Word) : Except Reject Decoded :=
  match op with
  | 0x00 => match (mOf w).toNat with
    | 0 => if kOf w = 0 then .ok (.instr (.sadd (swOf w) (dOf w) (aOf w) (bOf w))) else .error .field
    | 1 => if kOf w = 0 then .ok (.instr (.ssub (swOf w) (dOf w) (aOf w) (bOf w))) else .error .field
    | 2 => if kOf w = 0 then .ok (.instr (.smul (swOf w) (dOf w) (aOf w) (bOf w))) else .error .field
    | 3 => if kOf w = 0 then .ok (.instr (.smulh (swOf w) (dOf w) (aOf w) (bOf w))) else .error .field
    | 4 => if kOf w = 0 then .ok (.instr (.smulhU (swOf w) (dOf w) (aOf w) (bOf w))) else .error .field
    | 5 => if kOf w = 0 ∧ dOf w = 0 then .ok (.instr (.scmp (swOf w) (aOf w) (bOf w))) else .error .field
    | _ => .error .function
  | 0x01 => (immOf (imm12Of w) ls).bind fun i => .ok (.instr (.saddImm (swOf w) (dOf w) (aOf w) i))
  | 0x02 => match (mOf w).toNat with
    | 0 => if kOf w = 0 then .ok (.instr (.sdiv (swOf w) (dOf w) (aOf w) (bOf w))) else .error .field
    | 1 => if kOf w = 0 then .ok (.instr (.sdivU (swOf w) (dOf w) (aOf w) (bOf w))) else .error .field
    | 2 => if kOf w = 0 then .ok (.instr (.srem (swOf w) (dOf w) (aOf w) (bOf w))) else .error .field
    | 3 => if kOf w = 0 then .ok (.instr (.sremU (swOf w) (dOf w) (aOf w) (bOf w))) else .error .field
    | _ => .error .function
  | 0x03 => match (mOf w).toNat with
    | 0 => if kOf w = 0 then .ok (.instr (.sand (swOf w) (dOf w) (aOf w) (bOf w))) else .error .field
    | 1 => if kOf w = 0 then .ok (.instr (.sor (swOf w) (dOf w) (aOf w) (bOf w))) else .error .field
    | 2 => if kOf w = 0 then .ok (.instr (.sxor (swOf w) (dOf w) (aOf w) (bOf w))) else .error .field
    | 3 => if kOf w = 0 then .ok (.instr (.sshl (swOf w) (dOf w) (aOf w) (bOf w))) else .error .field
    | 4 => if kOf w = 0 then .ok (.instr (.sshr (swOf w) (dOf w) (aOf w) (bOf w))) else .error .field
    | 5 => if kOf w = 0 then .ok (.instr (.ssar (swOf w) (dOf w) (aOf w) (bOf w))) else .error .field
    | _ => .error .function
  | 0x04 => (immOf (imm12Of w) ls).bind fun i => .ok (.instr (.sandImm (swOf w) (dOf w) (aOf w) i))
  | 0x05 => (immOf (imm12Of w) ls).bind fun i => .ok (.instr (.sorImm (swOf w) (dOf w) (aOf w) i))
  | 0x06 => if bits (imm12Of w).toNat 11 8 ≠ 0 then .error .field else
    match bits (imm12Of w).toNat 7 6 with
    | 0 => .ok (.instr (.sshlImm (swOf w) (dOf w) (aOf w) (cOf w)))
    | 1 => .ok (.instr (.sshrImm (swOf w) (dOf w) (aOf w) (cOf w)))
    | 2 => .ok (.instr (.ssarImm (swOf w) (dOf w) (aOf w) (cOf w)))
    | _ => .error .function
  | 0x07 => match (mOf w).toNat with
    | 0 => if kOf w = 0 then .ok (.instr (.smin (swOf w) (dOf w) (aOf w) (bOf w))) else .error .field
    | 1 => if kOf w = 0 then .ok (.instr (.smax (swOf w) (dOf w) (aOf w) (bOf w))) else .error .field
    | 2 => if kOf w = 0 then .ok (.instr (.sminU (swOf w) (dOf w) (aOf w) (bOf w))) else .error .field
    | 3 => if kOf w = 0 then .ok (.instr (.smaxU (swOf w) (dOf w) (aOf w) (bOf w))) else .error .field
    | _ => .error .function
  | 0x08 => if cOf w < 15 then .ok (.instr (.ssel (swOf w) (dOf w) (aOf w) (bOf w) (BitVec.setWidth 4 (cOf w)))) else .error .field
  | 0x09 => if (bOf w).toNat + (cOf w).toNat + 1 ≤ 64 then .ok (.instr (.sbfx (swOf w) (dOf w) (aOf w) (bOf w) (cOf w)))
    else .error .field
  | 0x0A => if (bOf w).toNat + (cOf w).toNat + 1 ≤ 64 then .ok (.instr (.sbfi (swOf w) (dOf w) (aOf w) (bOf w) (cOf w)))
    else .error .field
  | 0x0B => match (mOf w).toNat with
    | 0 => if kOf w = 0 ∧ bOf w = 0 then .ok (.instr (.spopc (swOf w) (dOf w) (aOf w))) else .error .field
    | 1 => if kOf w = 0 ∧ bOf w = 0 then .ok (.instr (.sclz (swOf w) (dOf w) (aOf w))) else .error .field
    | 2 => if kOf w = 0 ∧ bOf w = 0 then .ok (.instr (.smov (swOf w) (dOf w) (aOf w))) else .error .field
    | _ => .error .function
  | 0x0C => (immOf (imm18Of w) ls).bind fun i => .ok (.instr (.smovi (swOf w) (dOf w) i))
  | 0x0D => (immOf (imm18Of w) ls).bind fun i => .ok (.instr (.slui (swOf w) (dOf w) i))
  | 0x0E => if aOf w = 0 ∧ 1 ≤ imm12Of w ∧ imm12Of w ≤ 14 then .ok (.instr (.smovSpecial (swOf w) (dOf w) (imm12Of w)))
    else .error .field
  | 0x10 => match (mOf w).toNat with
    | 0 => .ok (.instr (.vadd (swOf w) (dOf w) (aOf w) (bOf w) (kOf w)))
    | 1 => .ok (.instr (.vsub (swOf w) (dOf w) (aOf w) (bOf w) (kOf w)))
    | 2 => .ok (.instr (.vadds (swOf w) (dOf w) (aOf w) (bOf w) (kOf w)))
    | 3 => .ok (.instr (.vsubs (swOf w) (dOf w) (aOf w) (bOf w) (kOf w)))
    | 4 => .ok (.instr (.vaddsU (swOf w) (dOf w) (aOf w) (bOf w) (kOf w)))
    | 5 => .ok (.instr (.vsubsU (swOf w) (dOf w) (aOf w) (bOf w) (kOf w)))
    | _ => .error .function
  | 0x11 => match (mOf w).toNat with
    | 0 => .ok (.instr (.vmul (swOf w) (dOf w) (aOf w) (bOf w) (kOf w)))
    | 1 => .ok (.instr (.vmulh (swOf w) (dOf w) (aOf w) (bOf w) (kOf w)))
    | 2 => .ok (.instr (.vmulhU (swOf w) (dOf w) (aOf w) (bOf w) (kOf w)))
    | _ => .error .function
  | 0x12 => match (mOf w).toNat with
    | 0 => .ok (.instr (.vand (swOf w) (dOf w) (aOf w) (bOf w) (kOf w)))
    | 1 => .ok (.instr (.vor (swOf w) (dOf w) (aOf w) (bOf w) (kOf w)))
    | 2 => .ok (.instr (.vxor (swOf w) (dOf w) (aOf w) (bOf w) (kOf w)))
    | 3 => .ok (.instr (.vshl (swOf w) (dOf w) (aOf w) (bOf w) (kOf w)))
    | 4 => .ok (.instr (.vshr (swOf w) (dOf w) (aOf w) (bOf w) (kOf w)))
    | 5 => .ok (.instr (.vsar (swOf w) (dOf w) (aOf w) (bOf w) (kOf w)))
    | _ => .error .function
  | 0x13 => match (mOf w).toNat with
    | 0 => .ok (.instr (.vmin (swOf w) (dOf w) (aOf w) (bOf w) (kOf w)))
    | 1 => .ok (.instr (.vmax (swOf w) (dOf w) (aOf w) (bOf w) (kOf w)))
    | 2 => .ok (.instr (.vminU (swOf w) (dOf w) (aOf w) (bOf w) (kOf w)))
    | 3 => .ok (.instr (.vmaxU (swOf w) (dOf w) (aOf w) (bOf w) (kOf w)))
    | 4 => if bOf w = 0 then .ok (.instr (.vabs (swOf w) (dOf w) (aOf w) (kOf w))) else .error .field
    | _ => .error .function
  | 0x14 => .ok (.instr (.vmad (swOf w) (dOf w) (aOf w) (bOf w) (cOf w)))
  | 0x15 => .ok (.instr (.vdot4 (swOf w) (dOf w) (aOf w) (bOf w) (cOf w)))
  | 0x16 => .ok (.instr (.vdot4U (swOf w) (dOf w) (aOf w) (bOf w) (cOf w)))
  | 0x17 => (maskDst (dOf w)).bind fun d => match (mOf w).toNat with
    | 0 => .ok (.instr (.vcmpEq (swOf w) d (aOf w) (bOf w) (kOf w)))
    | 1 => .ok (.instr (.vcmpNe (swOf w) d (aOf w) (bOf w) (kOf w)))
    | 2 => .ok (.instr (.vcmpLt (swOf w) d (aOf w) (bOf w) (kOf w)))
    | 3 => .ok (.instr (.vcmpLe (swOf w) d (aOf w) (bOf w) (kOf w)))
    | 4 => .ok (.instr (.vcmpLtu (swOf w) d (aOf w) (bOf w) (kOf w)))
    | 5 => .ok (.instr (.vcmpLeu (swOf w) d (aOf w) (bOf w) (kOf w)))
    | _ => .error .function
  | 0x18 => .ok (.instr (.vsel (swOf w) (dOf w) (aOf w) (bOf w) (kOf w) (mOf w)))
  | 0x19 => if (posOf w).toNat + (widOf w).toNat + 1 > 32 then .error .field else
    match bits (imm12Of w).toNat 11 10 with
    | 0 => .ok (.instr (.vbfxU (swOf w) (dOf w) (aOf w) (posOf w) (widOf w)))
    | 1 => .ok (.instr (.vbfxS (swOf w) (dOf w) (aOf w) (posOf w) (widOf w)))
    | _ => .error .function
  | 0x1A => if (posOf w).toNat + (widOf w).toNat + 1 > 32 ∨ bits (imm12Of w).toNat 11 10 ≠ 0 then .error .field
    else .ok (.instr (.vbfi (swOf w) (dOf w) (aOf w) (posOf w) (widOf w)))
  | 0x1B => match (mOf w).toNat with
    | 0 => if bOf w = 0 then .ok (.instr (.vpopc (swOf w) (dOf w) (aOf w) (kOf w))) else .error .field
    | 1 => if bOf w = 0 then .ok (.instr (.vclz (swOf w) (dOf w) (aOf w) (kOf w))) else .error .field
    | 2 => if bOf w = 0 then .ok (.instr (.vmov (swOf w) (dOf w) (aOf w) (kOf w))) else .error .field
    | _ => .error .function
  | 0x1C => (immOf (imm18Of w) ls).bind fun i => .ok (.instr (.vmovi (swOf w) (dOf w) i))
  | 0x1D => if aOf w = 0 ∧ imm12Of w = 0 then .ok (.instr (.vmovLane (swOf w) (dOf w))) else .error .field
  | 0x1E => (immOf (imm12Of w) ls).bind fun i => .ok (.instr (.vaddImm (swOf w) (dOf w) (aOf w) i))
  | 0x20 => .ok (.instr (.fadd (swOf w) (dOf w) (aOf w) (bOf w) (kOf w) (mOf w)))
  | 0x21 => .ok (.instr (.fsub (swOf w) (dOf w) (aOf w) (bOf w) (kOf w) (mOf w)))
  | 0x22 => .ok (.instr (.fmul (swOf w) (dOf w) (aOf w) (bOf w) (kOf w) (mOf w)))
  | 0x23 => .ok (.instr (.fma (swOf w) (dOf w) (aOf w) (bOf w) (cOf w)))
  | 0x24 => .ok (.instr (.fmin (swOf w) (dOf w) (aOf w) (bOf w) (kOf w) (mOf w)))
  | 0x25 => .ok (.instr (.fmax (swOf w) (dOf w) (aOf w) (bOf w) (kOf w) (mOf w)))
  | 0x26 => (maskDst (dOf w)).bind fun d => match (mOf w).toNat with
    | 0 => .ok (.instr (.fcmpEq (swOf w) d (aOf w) (bOf w) (kOf w)))
    | 1 => .ok (.instr (.fcmpNe (swOf w) d (aOf w) (bOf w) (kOf w)))
    | 2 => .ok (.instr (.fcmpLt (swOf w) d (aOf w) (bOf w) (kOf w)))
    | 3 => .ok (.instr (.fcmpLe (swOf w) d (aOf w) (bOf w) (kOf w)))
    | 4 => .ok (.instr (.fcmpUn (swOf w) d (aOf w) (bOf w) (kOf w)))
    | 5 => .ok (.instr (.fcmpOrd (swOf w) d (aOf w) (bOf w) (kOf w)))
    | _ => .error .function
  | 0x27 => if bOf w = 0 ∧ mOf w = 0 then .ok (.instr (.fclass (swOf w) (dOf w) (aOf w) (kOf w))) else .error .field
  | 0x28 => if mOf w ≥ 4 then .error .field else match (bOf w).toNat with
    | 0 => .ok (.instr (.frcp (swOf w) (dOf w) (aOf w) (kOf w) (BitVec.setWidth 2 (mOf w))))
    | 1 => .ok (.instr (.frsq (swOf w) (dOf w) (aOf w) (kOf w) (BitVec.setWidth 2 (mOf w))))
    | 2 => .ok (.instr (.fsqrt (swOf w) (dOf w) (aOf w) (kOf w) (BitVec.setWidth 2 (mOf w))))
    | 3 => .ok (.instr (.fexp2 (swOf w) (dOf w) (aOf w) (kOf w) (BitVec.setWidth 2 (mOf w))))
    | 4 => .ok (.instr (.flog2 (swOf w) (dOf w) (aOf w) (kOf w) (BitVec.setWidth 2 (mOf w))))
    | 5 => .ok (.instr (.fsin (swOf w) (dOf w) (aOf w) (kOf w) (BitVec.setWidth 2 (mOf w))))
    | 6 => .ok (.instr (.fcos (swOf w) (dOf w) (aOf w) (kOf w) (BitVec.setWidth 2 (mOf w))))
    | 7 => .ok (.instr (.ftanh (swOf w) (dOf w) (aOf w) (kOf w) (BitVec.setWidth 2 (mOf w))))
    | _ => .error .function
  | 0x29 => .ok (.instr (.fdiv (swOf w) (dOf w) (aOf w) (bOf w) (kOf w) (mOf w)))
  | 0x2A => match (imm12Of w).toNat with
    | 0 => .ok (.instr (.froundRn (swOf w) (dOf w) (aOf w)))
    | 1 => .ok (.instr (.froundRz (swOf w) (dOf w) (aOf w)))
    | 2 => .ok (.instr (.froundRu (swOf w) (dOf w) (aOf w)))
    | 3 => .ok (.instr (.froundRd (swOf w) (dOf w) (aOf w)))
    | 4 => .ok (.instr (.fround (swOf w) (dOf w) (aOf w)))
    | _ => .error .function
  | 0x30 => if ordOf w = 0 ∧ hintOf w = 0 then .ok (.instr (.cvt (swOf w) (dOf w) (aOf w) (codeOf w) (BitVec.extractLsb' 4 4 w))) else .error .field
  | 0x31 => if mOf w = 0 then .ok (.instr (.pack2 (swOf w) (dOf w) (aOf w) (bOf w) (kOf w))) else .error .field
  | 0x32 => .ok (.instr (.pack4 (swOf w) (dOf w) (aOf w) (bOf w) (cOf w)))
  | 0x33 => if bits (imm12Of w).toNat 7 3 = 0 ∧ unpackIndexOk (codeOf w) (mOf w) then
      .ok (.instr (.unpack (swOf w) (dOf w) (aOf w) (codeOf w) (mOf w)))
    else .error .field
  | 0x34 => if mOf w = 0 then .ok (.instr (.bscale (swOf w) (dOf w) (aOf w) (bOf w) (kOf w))) else .error .field
  | 0x35 => if mOf w = 0 then .ok (.instr (.bapply (swOf w) (dOf w) (aOf w) (bOf w) (kOf w))) else .error .field
  | 0x36 => if dOf w = 0 then .ok (.instr (.fmsetImm (swOf w) (imm18Of w))) else .error .field
  | 0x37 => match (imm12Of w).toNat with
    | 0 => if dOf w = 0 then .ok (.instr (.fmset (swOf w) (aOf w))) else .error .field
    | 1 => if aOf w = 0 then .ok (.instr (.fmget (swOf w) (dOf w))) else .error .field
    | _ => .error .function
  | 0x38 => match (mOf w).toNat with
    | 0 => .ok (.instr (.shflIdx (swOf w) (dOf w) (aOf w) (bOf w) (kOf w)))
    | 1 => .ok (.instr (.shflXor (swOf w) (dOf w) (aOf w) (bOf w) (kOf w)))
    | 2 => .ok (.instr (.shflUp (swOf w) (dOf w) (aOf w) (bOf w) (kOf w)))
    | 3 => .ok (.instr (.shflDn (swOf w) (dOf w) (aOf w) (bOf w) (kOf w)))
    | _ => .error .function
  | 0x39 => if mOf w = 0 then .ok (.instr (.bcast (swOf w) (dOf w) (aOf w) (bOf w) (kOf w))) else .error .field
  | 0x3A => match (mOf w).toNat with
    | 0 => if bOf w = 0 then .ok (.instr (.rdcAdd (swOf w) (dOf w) (aOf w) (kOf w))) else .error .field
    | 1 => if bOf w = 0 then .ok (.instr (.rdcMin (swOf w) (dOf w) (aOf w) (kOf w))) else .error .field
    | 2 => if bOf w = 0 then .ok (.instr (.rdcMax (swOf w) (dOf w) (aOf w) (kOf w))) else .error .field
    | 3 => if bOf w = 0 then .ok (.instr (.rdcMinU (swOf w) (dOf w) (aOf w) (kOf w))) else .error .field
    | 4 => if bOf w = 0 then .ok (.instr (.rdcMaxU (swOf w) (dOf w) (aOf w) (kOf w))) else .error .field
    | 5 => if bOf w = 0 then .ok (.instr (.rdcFadd (swOf w) (dOf w) (aOf w) (kOf w))) else .error .field
    | 6 => if bOf w = 0 then .ok (.instr (.rdcFmin (swOf w) (dOf w) (aOf w) (kOf w))) else .error .field
    | 7 => if bOf w = 0 then .ok (.instr (.rdcFmax (swOf w) (dOf w) (aOf w) (kOf w))) else .error .field
    | _ => .error .function
  | 0x3B => match (mOf w).toNat with
    | 0 => if bOf w = 0 then .ok (.instr (.scanAdd (swOf w) (dOf w) (aOf w) (kOf w))) else .error .field
    | 1 => if bOf w = 0 then .ok (.instr (.scanMin (swOf w) (dOf w) (aOf w) (kOf w))) else .error .field
    | 2 => if bOf w = 0 then .ok (.instr (.scanMax (swOf w) (dOf w) (aOf w) (kOf w))) else .error .field
    | 3 => if bOf w = 0 then .ok (.instr (.scanMinU (swOf w) (dOf w) (aOf w) (kOf w))) else .error .field
    | 4 => if bOf w = 0 then .ok (.instr (.scanMaxU (swOf w) (dOf w) (aOf w) (kOf w))) else .error .field
    | 5 => if bOf w = 0 then .ok (.instr (.scanFadd (swOf w) (dOf w) (aOf w) (kOf w))) else .error .field
    | 6 => if bOf w = 0 then .ok (.instr (.scanFmin (swOf w) (dOf w) (aOf w) (kOf w))) else .error .field
    | 7 => if bOf w = 0 then .ok (.instr (.scanFmax (swOf w) (dOf w) (aOf w) (kOf w))) else .error .field
    | _ => .error .function
  | 0x3C => if bOf w ≠ 0 then .error .field else match (mOf w).toNat with
    | 0 => .ok (.instr (.voteAny (swOf w) (dOf w) (aOf w) (kOf w)))
    | 1 => .ok (.instr (.voteAll (swOf w) (dOf w) (aOf w) (kOf w)))
    | 2 => .ok (.instr (.voteUni (swOf w) (dOf w) (aOf w) (kOf w)))
    | 3 => (maskDst (dOf w)).bind fun d => .ok (.instr (.ballot (swOf w) d (aOf w) (kOf w)))
    | _ => .error .function
  | 0x3D => if kOf w ≠ 0 then .error .field else
    (maskDst (dOf w)).bind fun d => (maskSrc (aOf w)).bind fun a => (maskSrc (bOf w)).bind fun b =>
    match (mOf w).toNat with
    | 0 => .ok (.instr (.kand (swOf w) d a b))
    | 1 => .ok (.instr (.kor (swOf w) d a b))
    | 2 => .ok (.instr (.kxor (swOf w) d a b))
    | 3 => .ok (.instr (.kandn (swOf w) d a b))
    | 4 => if b = 0 then .ok (.instr (.knot (swOf w) d a)) else .error .field
    | 5 => if b = 0 then .ok (.instr (.kmov (swOf w) d a)) else .error .field
    | _ => .error .function
  | 0x3E => if kOf w ≠ 0 ∨ bOf w ≠ 0 then .error .field else
    (maskSrc (aOf w)).bind fun a => match (mOf w).toNat with
    | 0 => .ok (.instr (.kpop (swOf w) (dOf w) a))
    | 1 => .ok (.instr (.kfirst (swOf w) (dOf w) a))
    | _ => .error .function
  | 0x3F => (maskDst (dOf w)).bind fun d => if imm18Of w ≤ 1024 then .ok (.instr (.kset (swOf w) d (imm18Of w))) else .error .field
  | 0x40 => if pairOk (dOf w) (wOf w) ∧ (ordOf w = 0 ∨ ordOf w = 1) then
      .ok (.instr (.ld (swOf w) (dOf w) (aOf w) (bOf w) (wOf w) (hintOf w) (ordOf w == 1)))
    else .error .field
  | 0x41 => if pairOk (dOf w) (wOf w) ∧ (ordOf w = 0 ∨ ordOf w = 2) then
      .ok (.instr (.st (swOf w) (dOf w) (aOf w) (bOf w) (wOf w) (hintOf w) (ordOf w == 2)))
    else .error .field
  | 0x42 => if pairOk (dOf w) (wOf w) ∧ hintOf w = 0 ∧ (ordOf w = 0 ∨ ordOf w = 1) then
      .ok (.instr (.sld (swOf w) (dOf w) (aOf w) (bOf w) (wOf w) (ordOf w == 1)))
    else .error .field
  | 0x43 => if pairOk (dOf w) (wOf w) ∧ hintOf w = 0 ∧ (ordOf w = 0 ∨ ordOf w = 2) then
      .ok (.instr (.sst (swOf w) (dOf w) (aOf w) (bOf w) (wOf w) (ordOf w == 2)))
    else .error .field
  | 0x44 => if pairOk (dOf w) (wOf w) ∧ wOf w ≥ 2 ∧ hintOf w = 0 ∧ ordOf w = 0 then
      .ok (.instr (.pld (swOf w) (dOf w) (aOf w) (bOf w) (wOf w)))
    else .error .field
  | 0x45 => if pairOk (dOf w) (wOf w) ∧ wOf w ≥ 2 ∧ hintOf w = 0 ∧ ordOf w = 0 then
      .ok (.instr (.pst (swOf w) (dOf w) (aOf w) (bOf w) (wOf w)))
    else .error .field
  | 0x46 => if (dOf w).toNat % 4 = 0 then .ok (.instr (.tld (swOf w) (dOf w) (aOf w) (bOf w) (cOf w))) else .error .field
  | 0x47 => if (dOf w).toNat % 4 = 0 then .ok (.instr (.tst (swOf w) (dOf w) (aOf w) (bOf w) (cOf w))) else .error .field
  | 0x48 => if dOf w = 0 then .ok (.instr (.smap (swOf w) (aOf w) (bOf w) (cOf w))) else .error .field
  | 0x49 => if dOf w = 0 ∧ cOf w = 0 then .ok (.instr (.sunmap (swOf w) (aOf w) (bOf w))) else .error .field
  | 0x4A => if dOf w = 0 ∧ wOf w = 0 ∧ hintOf w ≠ 3 ∧ ordOf w = 0 then .ok (.instr (.pref (swOf w) (aOf w) (bOf w) (hintOf w)))
    else .error .field
  | 0x4B => if dOf w = 0 then .ok (.instr (.discard (swOf w) (aOf w) (bOf w) (cOf w))) else .error .field
  | 0x4C => if dOf w = 0 then .ok (.instr (.lastuse (swOf w) (aOf w) (bOf w) (cOf w))) else .error .field
  | 0x4D => if dOf w = 0 ∧ cOf w = 0 then .ok (.instr (.cwb (swOf w) (aOf w) (bOf w))) else .error .field
  | 0x50 => if wOf w < 2 then .error .function else if ¬ pairOk (dOf w) (wOf w) then .error .field else
    match (hintOf w).toNat with
    | 0 => .ok (.instr (.amoAdd (swOf w) (dOf w) (aOf w) (bOf w) (wOf w == 3) (ordOf w)))
    | 1 => .ok (.instr (.amoMin (swOf w) (dOf w) (aOf w) (bOf w) (wOf w == 3) (ordOf w)))
    | 2 => .ok (.instr (.amoMax (swOf w) (dOf w) (aOf w) (bOf w) (wOf w == 3) (ordOf w)))
    | 3 => .ok (.instr (.amoAnd (swOf w) (dOf w) (aOf w) (bOf w) (wOf w == 3) (ordOf w)))
    | _ => .error .function
  | 0x51 => if wOf w < 2 then .error .function else if ¬ pairOk (dOf w) (wOf w) then .error .field else
    match (hintOf w).toNat with
    | 0 => .ok (.instr (.amoOr (swOf w) (dOf w) (aOf w) (bOf w) (wOf w == 3) (ordOf w)))
    | 1 => .ok (.instr (.amoXor (swOf w) (dOf w) (aOf w) (bOf w) (wOf w == 3) (ordOf w)))
    | 2 => .ok (.instr (.amoXchg (swOf w) (dOf w) (aOf w) (bOf w) (wOf w == 3) (ordOf w)))
    | 3 => if wOf w = 2 then .ok (.instr (.amoFadd (swOf w) (dOf w) (aOf w) (bOf w) (ordOf w))) else .error .function
    | _ => .error .function
  | 0x52 => if wOf w < 2 ∨ hintOf w ≠ 0 then .error .function
    else if casOk (dOf w) (wOf w == 3) then .ok (.instr (.amocas (swOf w) (dOf w) (aOf w) (bOf w) (wOf w == 3) (ordOf w))) else .error .field
  | 0x53 => if wOf w < 2 then .error .function
    else if ¬ pairOk (dOf w) (wOf w) ∨ ¬ (ordOf w = 0 ∨ ordOf w = 2) then .error .field else
    match (hintOf w).toNat with
    | 0 => .ok (.instr (.redAdd (swOf w) (dOf w) (aOf w) (bOf w) (wOf w == 3) (ordOf w == 2)))
    | 1 => .ok (.instr (.redMin (swOf w) (dOf w) (aOf w) (bOf w) (wOf w == 3) (ordOf w == 2)))
    | 2 => .ok (.instr (.redMax (swOf w) (dOf w) (aOf w) (bOf w) (wOf w == 3) (ordOf w == 2)))
    | 3 => .ok (.instr (.redAnd (swOf w) (dOf w) (aOf w) (bOf w) (wOf w == 3) (ordOf w == 2)))
    | _ => .error .function
  | 0x54 => if wOf w < 2 then .error .function
    else if ¬ pairOk (dOf w) (wOf w) ∨ ¬ (ordOf w = 0 ∨ ordOf w = 2) then .error .field else
    match (hintOf w).toNat with
    | 0 => .ok (.instr (.redOr (swOf w) (dOf w) (aOf w) (bOf w) (wOf w == 3) (ordOf w == 2)))
    | 1 => .ok (.instr (.redXor (swOf w) (dOf w) (aOf w) (bOf w) (wOf w == 3) (ordOf w == 2)))
    | 2 => if wOf w = 2 then .ok (.instr (.redFadd (swOf w) (dOf w) (aOf w) (bOf w) (ordOf w == 2))) else .error .function
    | _ => .error .function
  | 0x55 => if dOf w = 0 ∧ bits (imm18Of w).toNat 17 5 = 0 ∧ ordOf w ≠ 0 ∧ scopeOf w ≤ 5 then
      .ok (.instr (.fen (swOf w) (scopeOf w) (ordOf w)))
    else .error .field
  | 0x56 => if dOf w = 0 ∧ imm18Of w = 0 then .ok (.instr (.ifen (swOf w))) else .error .field
  | 0x58 => if dOf w < 4 then .ok (.instr (.cpy (swOf w) ((dOf w).getLsbD 1) ((dOf w).getLsbD 0) (aOf w) (bOf w) (cOf w))) else .error .field
  | 0x59 => if dOf w < 16 ∧ dOf w ≠ 0 then .ok (.instr (.cpym (swOf w) (BitVec.setWidth 4 (dOf w)) (aOf w) (bOf w) (cOf w))) else .error .field
  | 0x5A => match (dOf w).toNat with
    | 0 => .ok (.instr (.cpytTs (swOf w) (aOf w) (bOf w) (cOf w)))
    | 1 => .ok (.instr (.cpytSt (swOf w) (aOf w) (bOf w) (cOf w)))
    | _ => .error .function
  | 0x5B => match (imm18Of w).toNat with
    | 0 => .ok (.instr (.bclC (swOf w) (dOf w)))
    | 1 => .ok (.instr (.bclM (swOf w) (dOf w)))
    | _ => .error .field
  | 0x5C => if dOf w ≠ 0 then .error .field else (timeoutOf ls).bind fun t => match (imm12Of w).toNat with
    | 0 => .ok (.instr (.bwtC (swOf w) (aOf w) t))
    | 1 => .ok (.instr (.bwtM (swOf w) (aOf w) t))
    | _ => .error .field
  | 0x5D => if aOf w ≠ 0 then .error .field else match (imm12Of w).toNat with
    | 0 => .ok (.instr (.bqryC (swOf w) (dOf w)))
    | 1 => .ok (.instr (.bqryM (swOf w) (dOf w)))
    | _ => .error .field
  | 0x60 => if ¬ groupOk (xaOf w) 4 then .error .field
    else if xnOf w = 0 then .ok (.instr (.mmaBf16 (swOf w) (zOf w) (xaOf w) (xbOf w) (xrOf w)))
    else (stepsOf (xaOf w) (xnOf w) 4 ls).bind fun p => .ok (.instr (.mmlBf16 (swOf w) (zOf w) (xaOf w) (xbOf w) (xrOf w) (xnOf w) p.1 p.2))
  | 0x61 => if ¬ groupOk (xaOf w) 4 then .error .field
    else if xnOf w = 0 then .ok (.instr (.mmaF16 (swOf w) (zOf w) (xaOf w) (xbOf w) (xrOf w)))
    else (stepsOf (xaOf w) (xnOf w) 4 ls).bind fun p => .ok (.instr (.mmlF16 (swOf w) (zOf w) (xaOf w) (xbOf w) (xrOf w) (xnOf w) p.1 p.2))
  | 0x62 => if ¬ groupOk (xaOf w) 8 then .error .field
    else if xnOf w = 0 then .ok (.instr (.mmaF8 (swOf w) (zOf w) (xaOf w) (xbOf w) (xrOf w)))
    else (stepsOf (xaOf w) (xnOf w) 8 ls).bind fun p => .ok (.instr (.mmlF8 (swOf w) (zOf w) (xaOf w) (xbOf w) (xrOf w) (xnOf w) p.1 p.2))
  | 0x63 => if ¬ groupOk (xaOf w) 8 then .error .field
    else if xnOf w = 0 then .ok (.instr (.mmaF4 (swOf w) (zOf w) (xaOf w) (xbOf w) (xrOf w)))
    else (stepsOf (xaOf w) (xnOf w) 8 ls).bind fun p => .ok (.instr (.mmlF4 (swOf w) (zOf w) (xaOf w) (xbOf w) (xrOf w) (xnOf w) p.1 p.2))
  | 0x64 => if ¬ groupOk (xaOf w) 4 then .error .field
    else if xnOf w = 0 then .ok (.instr (.mmaI8 (swOf w) (zOf w) (xaOf w) (xbOf w) (xrOf w)))
    else (stepsOf (xaOf w) (xnOf w) 4 ls).bind fun p => .ok (.instr (.mmlI8 (swOf w) (zOf w) (xaOf w) (xbOf w) (xrOf w) (xnOf w) p.1 p.2))
  | 0x65 => if ¬ groupOk (xaOf w) 4 then .error .field
    else if xnOf w = 0 then .ok (.instr (.mmaH16 (swOf w) (zOf w) (xaOf w) (xbOf w) (xrOf w)))
    else (stepsOf (xaOf w) (xnOf w) 4 ls).bind fun p => .ok (.instr (.mmlH16 (swOf w) (zOf w) (xaOf w) (xbOf w) (xrOf w) (xnOf w) p.1 p.2))
  | 0x66 => if ¬ groupOk (xaOf w) 2 then .error .field
    else if xnOf w = 0 then .ok (.instr (.tsa (swOf w) (zOf w) (xaOf w) (xbOf w) (xrOf w)))
    else (stepsOf (xaOf w) (xnOf w) 2 ls).bind fun p => .ok (.instr (.tsl (swOf w) (zOf w) (xaOf w) (xbOf w) (xrOf w) (xnOf w) p.1 p.2))
  | 0x67 => if xrOf w then .error .field else match (xnOf w).toNat with
    | 0 => if xaOf w = 0 ∧ xbOf w = 0 then .ok (.instr (.zclr (swOf w) (zOf w))) else .error .field
    | 1 => if xaOf w = 0 then .ok (.instr (.zld (swOf w) (zOf w) (xbOf w))) else .error .field
    | 2 => if xaOf w = 0 then .ok (.instr (.zst (swOf w) (zOf w) (xbOf w))) else .error .field
    | 3 => if xbOf w = 0 then .ok (.instr (.zcvt (swOf w) (zOf w) (xaOf w))) else .error .field
    | _ => .error .function
  | 0x68 => if condOf w = 15 then .error .function else if offOf w = 0 then .error .field
    else if condOf w = 0 then .ok (.instr (.br (swOf w) (offOf w))) else .ok (.instr (.bcc (swOf w) (condOf w) (offOf w)))
  | 0x69 => if offOf w = 0 then .error .field else if (condOf w).getLsbD 3 then .ok (.instr (.bmnz (swOf w) (condMask w) (offOf w)))
    else .ok (.instr (.bmz (swOf w) (condMask w) (offOf w)))
  | 0x6A => if condOf w = 0 ∧ offOf w ≠ 0 then .ok (.instr (.call (swOf w) (offOf w))) else .error .field
  | 0x6B => if ¬ forward (offOf w) then .error .field else if (condOf w).getLsbD 3 then
      (if condMask w = 0 then .ok (.instr (.melse (swOf w) (offOf w))) else .error .field)
    else .ok (.instr (.mif (swOf w) (condMask w) (offOf w)))
  | 0x6C => if bits (imm18Of w).toNat 16 15 ≠ 0 ∨ loopOff w = 0 then .error .field else (loopLits ls).bind fun p =>
    if (imm18Of w).getLsbD 17 then
      (if dOf w = 0 then .ok (.instr (.lpbW (swOf w) (loopOff w) p.1 p.2)) else .error .field)
    else .ok (.instr (.lpb (swOf w) (dOf w) (loopOff w) p.1 p.2))
  | 0x6D => if condOf w = 0 ∧ backward (offOf w) then .ok (.instr (.lpe (swOf w) (offOf w))) else .error .field
  | 0x6E => if dOf w ≠ 0 ∨ aOf w ≠ 0 ∨ bOf w ≠ 0 then .error .field else match (mOf w).toNat with
    | 0 => if kOf w = 0 then .ok (.instr (.mend (swOf w))) else .error .field
    | 1 => .ok (.instr (.mbrk (swOf w) (kOf w)))
    | 2 => .ok (.instr (.mcont (swOf w) (kOf w)))
    | _ => .error .function
  | 0x6F => if dOf w ≠ 0 ∨ bOf w ≠ 0 ∨ kOf w ≠ 0 then .error .field else match (mOf w).toNat with
    | 0 => if aOf w = 0 then .ok (.instr (.exit (swOf w))) else .error .field
    | 1 => if aOf w = 0 then .ok (.instr (.nop (swOf w))) else .error .field
    | 2 => .ok (.instr (.jmp (swOf w) (aOf w)))
    | 3 => .ok (.instr (.calli (swOf w) (aOf w)))
    | 4 => if aOf w = 0 then .ok (.instr (.ret (swOf w))) else .error .field
    | _ => .error .function
  | 0x70 => if dOf w ≠ 0 ∨ aOf w ≠ 0 ∨ bits (imm12Of w).toNat 7 3 ≠ 0 ∨ ¬ barrierOk (levelOf w) (mOf w) then .error .field else
    match bits (imm12Of w).toNat 11 10 with
    | 0 => .ok (.instr (.barArr (swOf w) (levelOf w) (mOf w)))
    | 1 => (timeoutOf ls).bind fun t => .ok (.instr (.barWt (swOf w) (levelOf w) (mOf w) t))
    | 2 => (timeoutOf ls).bind fun t => .ok (.instr (.barSync (swOf w) (levelOf w) (mOf w) t))
    | _ => .error .function
  | 0x71 => if condOf w = 0 ∧ offOf w ≠ 0 then .ok (.instr (.spawn (swOf w) (offOf w))) else .error .field
  | 0x72 => if imm12Of w = 0 then .ok (.instr (.launch (swOf w) (dOf w) (aOf w))) else .error .field
  | 0x73 => if imm12Of w = 0 then (timeoutOf ls).bind fun t => .ok (.instr (.cwait (swOf w) (dOf w) (aOf w) t)) else .error .field
  | 0x74 => if dOf w ≠ 0 ∨ bits (imm18Of w).toNat 16 3 ≠ 0 ∨ mOf w = 0 then .error .field
    else if (imm18Of w).getLsbD 17 then .ok (.instr (.rrel (swOf w) (mOf w))) else .ok (.instr (.racq (swOf w) (mOf w)))
  | 0x75 => if dOf w = 0 ∧ imm12Of w = 0 then .ok (.instr (.tset (swOf w) (aOf w))) else .error .field
  | 0x76 => if aOf w = 0 ∧ bOf w = 0 ∧ cOf w = 0 ∧ (dOf w).toNat % 4 = 0 then .ok (.instr (.rput (swOf w) (dOf w))) else .error .field
  | 0x77 => match (dOf w).toNat with
    | 0 => .ok (.instr (.rmat (swOf w) (aOf w) (bOf w) (cOf w)))
    | 1 => .ok (.instr (.rdrop (swOf w) (aOf w) (bOf w) (cOf w)))
    | _ => .error .function
  | 0x78 => if dOf w ≠ 0 ∨ bits (imm18Of w).toNat 15 8 ≠ 0 then .error .field else match bits (imm18Of w).toNat 17 16 with
    | 0 => .ok (.instr (.trap (swOf w) (xnOf w)))
    | 1 => .ok (.instr (.brk (swOf w) (xnOf w)))
    | 2 => if xnOf w = 0 then .ok (.instr (.tret (swOf w))) else .error .field
    | _ => .error .function
  | 0x79 => if aOf w = 0 then .ok (.instr (.fqry (swOf w) (dOf w) (imm12Of w))) else .error .field
  | 0x7A => if aOf w = 0 then .ok (.instr (.sysr (swOf w) (dOf w) (imm12Of w))) else .error .field
  | 0x7B => if dOf w = 0 then .ok (.instr (.sysw (swOf w) (aOf w) (imm12Of w))) else .error .field
  | 0x7C => if dOf w ≠ 0 ∨ kOf w ≠ 0 then .error .field else match (mOf w).toNat with
    | 0 => if aOf w = 0 ∧ bOf w = 0 then .ok (.instr (.tlbi (swOf w))) else .error .field
    | 1 => if bOf w = 0 then .ok (.instr (.tlbiId (swOf w) (aOf w))) else .error .field
    | 2 => .ok (.instr (.tlbiVa (swOf w) (aOf w) (bOf w)))
    | _ => .error .function
  | 0x7E => if swOf w then .error .field else match ls with
    | [] => if bits w.toNat 9 0 = 0 then .ok (.instr (.rep (dOf w) (BitVec.extractLsb' 16 2 w) (BitVec.extractLsb' 14 2 w)
        (BitVec.extractLsb' 12 2 w) (BitVec.extractLsb' 10 2 w))) else .error .field
    | l :: _ =>
      if bits l.toNat 15 0 ≠ 0 then .error .literal
      else if ¬ [dOf w, aOf w, bOf w, BitVec.extractLsb' 26 6 l, BitVec.extractLsb' 20 6 l].Nodup then .error .field
      else .ok (.inv (dOf w) (aOf w) (bOf w) (BitVec.extractLsb' 1 5 w) (w.getLsbD 0) (BitVec.extractLsb' 26 6 l)
        (BitVec.extractLsb' 20 6 l) (BitVec.extractLsb' 16 4 l))
  | _ => .error .opcode

/-- The instruction of a word, with the literals that its clause marks directly after it. -/
def decode (w : Word) (ls : List Word) : Except Reject Decoded := decodeOp (opOf w).toNat w ls

/-- A clause header (R26). -/
structure Header where
  n : Nat
  cls : Nat
  wait : BitVec 5
  lmap : BitVec 15
  deriving DecidableEq, Repr

/-- A clause header from its word; none where R27 raises ILLEGAL. -/
def decodeHeader (w : Word) : Option Header :=
  let n := bits w.toNat 31 28
  let cls := bits w.toNat 27 25
  let lmap := BitVec.extractLsb' 5 15 w
  if n = 0 ∨ cls = 7 ∨ lmap.getLsbD 0 ∨ lmap.toNat / 2 ^ n ≠ 0 ∨ bits w.toNat 4 0 ≠ 0 then none
  else some { n := n, cls := cls, wait := BitVec.extractLsb' 20 5 w, lmap := lmap }

/-- The word of a clause header. -/
def encodeHeader (h : Header) : Word :=
  BitVec.ofNat 4 h.n ++ BitVec.ofNat 3 h.cls ++ h.wait ++ h.lmap ++ 0#5

/-- Opcodes that the tables of chapter 3 leave unassigned (R28). -/
def unassigned (op : Nat) : Bool :=
  op == 0x0F || op == 0x1F || (0x2B ≤ op && op ≤ 0x2F) || op == 0x4E || op == 0x4F || op == 0x57 || op == 0x5E
    || op == 0x5F || op == 0x7D || op == 0x7F

/-- The class of an opcode (R28): 0 ALU, 1 MEM, 2 MTX, 3 CTL, 4 ENG, 5 SYS; the ternary forms are of class ENG. -/
def opClass (op : Nat) : Nat :=
  if op ≤ 0x3F then 0 else if op ≤ 0x57 then 1 else if op ≤ 0x5F then 4 else if op = 0x66 then 4
  else if op ≤ 0x67 then 2 else if op ≤ 0x77 then 3 else 5

/-- Step 2 of R59: the class of a clause admits an opcode. A prefix passes in every class, and an unassigned opcode
is left to step 3. -/
def admits (cls op : Nat) : Bool := cls == 6 || op == 0x7E || unassigned op || opClass op == cls

/-- The instructions of R31, which must stand last in their clause. -/
def transfers : Instr → Bool
  | .br .. | .bcc .. | .bmz .. | .bmnz .. | .jmp .. | .call .. | .calli .. | .ret .. | .lpb .. | .lpbW .. | .lpe ..
  | .mif .. | .melse .. | .mend .. | .mbrk .. | .mcont .. | .exit .. | .trap .. | .tret .. => true
  | _ => false

/-- The literals that a form requires, from its first word alone (R60): the prefix inv is told apart by its literal. -/
def requiredLits (w : Word) : Nat :=
  match (opOf w).toNat with
  | 0x5C => 1
  | 0x60 | 0x61 | 0x62 | 0x63 | 0x64 | 0x65 | 0x66 => if xnOf w = 0 then 0 else 1
  | 0x6C => 2
  | 0x70 => if bits (imm12Of w).toNat 11 10 = 0 then 0 else 1
  | 0x73 => 1
  | _ => 0

/-- The words of an instruction: its own word and its literals (R33, R62 to R74). A step of another agent has none. -/
def encode : Instr → List Word
  | .sadd sw d a b => [encA sw 0x00 d a b 0 0]
  | .ssub sw d a b => [encA sw 0x00 d a b 0 1]
  | .smul sw d a b => [encA sw 0x00 d a b 0 2]
  | .smulh sw d a b => [encA sw 0x00 d a b 0 3]
  | .smulhU sw d a b => [encA sw 0x00 d a b 0 4]
  | .scmp sw a b => [encA sw 0x00 0 a b 0 5]
  | .saddImm sw d a i => encImmC sw 0x01 d a i
  | .sdiv sw d a b => [encA sw 0x02 d a b 0 0]
  | .sdivU sw d a b => [encA sw 0x02 d a b 0 1]
  | .srem sw d a b => [encA sw 0x02 d a b 0 2]
  | .sremU sw d a b => [encA sw 0x02 d a b 0 3]
  | .sand sw d a b => [encA sw 0x03 d a b 0 0]
  | .sor sw d a b => [encA sw 0x03 d a b 0 1]
  | .sxor sw d a b => [encA sw 0x03 d a b 0 2]
  | .sshl sw d a b => [encA sw 0x03 d a b 0 3]
  | .sshr sw d a b => [encA sw 0x03 d a b 0 4]
  | .ssar sw d a b => [encA sw 0x03 d a b 0 5]
  | .sandImm sw d a i => encImmC sw 0x04 d a i
  | .sorImm sw d a i => encImmC sw 0x05 d a i
  | .sshlImm sw d a c => [encB sw 0x06 d a 0 c]
  | .sshrImm sw d a c => [encB sw 0x06 d a 1 c]
  | .ssarImm sw d a c => [encB sw 0x06 d a 2 c]
  | .smin sw d a b => [encA sw 0x07 d a b 0 0]
  | .smax sw d a b => [encA sw 0x07 d a b 0 1]
  | .sminU sw d a b => [encA sw 0x07 d a b 0 2]
  | .smaxU sw d a b => [encA sw 0x07 d a b 0 3]
  | .ssel sw d a b c => [encB sw 0x08 d a b (BitVec.setWidth 6 c)]
  | .sbfx sw d a p w => [encB sw 0x09 d a p w]
  | .sbfi sw d a p w => [encB sw 0x0A d a p w]
  | .spopc sw d a => [encA sw 0x0B d a 0 0 0]
  | .sclz sw d a => [encA sw 0x0B d a 0 0 1]
  | .smov sw d a => [encA sw 0x0B d a 0 0 2]
  | .smovi sw d i => encImmD sw 0x0C d i
  | .slui sw d i => encImmD sw 0x0D d i
  | .smovSpecial sw d n => [encC sw 0x0E d 0 n]
  | .vadd sw d a b k => [encA sw 0x10 d a b k 0]
  | .vsub sw d a b k => [encA sw 0x10 d a b k 1]
  | .vadds sw d a b k => [encA sw 0x10 d a b k 2]
  | .vsubs sw d a b k => [encA sw 0x10 d a b k 3]
  | .vaddsU sw d a b k => [encA sw 0x10 d a b k 4]
  | .vsubsU sw d a b k => [encA sw 0x10 d a b k 5]
  | .vmul sw d a b k => [encA sw 0x11 d a b k 0]
  | .vmulh sw d a b k => [encA sw 0x11 d a b k 1]
  | .vmulhU sw d a b k => [encA sw 0x11 d a b k 2]
  | .vand sw d a b k => [encA sw 0x12 d a b k 0]
  | .vor sw d a b k => [encA sw 0x12 d a b k 1]
  | .vxor sw d a b k => [encA sw 0x12 d a b k 2]
  | .vshl sw d a b k => [encA sw 0x12 d a b k 3]
  | .vshr sw d a b k => [encA sw 0x12 d a b k 4]
  | .vsar sw d a b k => [encA sw 0x12 d a b k 5]
  | .vmin sw d a b k => [encA sw 0x13 d a b k 0]
  | .vmax sw d a b k => [encA sw 0x13 d a b k 1]
  | .vminU sw d a b k => [encA sw 0x13 d a b k 2]
  | .vmaxU sw d a b k => [encA sw 0x13 d a b k 3]
  | .vabs sw d a k => [encA sw 0x13 d a 0 k 4]
  | .vmad sw d a b c => [encB sw 0x14 d a b c]
  | .vdot4 sw d a b c => [encB sw 0x15 d a b c]
  | .vdot4U sw d a b c => [encB sw 0x16 d a b c]
  | .vcmpEq sw d a b k => [encA sw 0x17 (wide d) a b k 0]
  | .vcmpNe sw d a b k => [encA sw 0x17 (wide d) a b k 1]
  | .vcmpLt sw d a b k => [encA sw 0x17 (wide d) a b k 2]
  | .vcmpLe sw d a b k => [encA sw 0x17 (wide d) a b k 3]
  | .vcmpLtu sw d a b k => [encA sw 0x17 (wide d) a b k 4]
  | .vcmpLeu sw d a b k => [encA sw 0x17 (wide d) a b k 5]
  | .vsel sw d a b k m => [encA sw 0x18 d a b k m]
  | .vbfxU sw d a p w => [encC sw 0x19 d a (0#2 ++ p ++ w)]
  | .vbfxS sw d a p w => [encC sw 0x19 d a (1#2 ++ p ++ w)]
  | .vbfi sw d a p w => [encC sw 0x1A d a (0#2 ++ p ++ w)]
  | .vpopc sw d a k => [encA sw 0x1B d a 0 k 0]
  | .vclz sw d a k => [encA sw 0x1B d a 0 k 1]
  | .vmov sw d a k => [encA sw 0x1B d a 0 k 2]
  | .vmovi sw d i => encImmD sw 0x1C d i
  | .vmovLane sw d => [encC sw 0x1D d 0 0]
  | .vaddImm sw d a i => encImmC sw 0x1E d a i
  | .fadd sw d a b k m => [encA sw 0x20 d a b k m]
  | .fsub sw d a b k m => [encA sw 0x21 d a b k m]
  | .fmul sw d a b k m => [encA sw 0x22 d a b k m]
  | .fma sw d a b c => [encB sw 0x23 d a b c]
  | .fmin sw d a b k m => [encA sw 0x24 d a b k m]
  | .fmax sw d a b k m => [encA sw 0x25 d a b k m]
  | .fcmpEq sw d a b k => [encA sw 0x26 (wide d) a b k 0]
  | .fcmpNe sw d a b k => [encA sw 0x26 (wide d) a b k 1]
  | .fcmpLt sw d a b k => [encA sw 0x26 (wide d) a b k 2]
  | .fcmpLe sw d a b k => [encA sw 0x26 (wide d) a b k 3]
  | .fcmpUn sw d a b k => [encA sw 0x26 (wide d) a b k 4]
  | .fcmpOrd sw d a b k => [encA sw 0x26 (wide d) a b k 5]
  | .fclass sw d a k => [encA sw 0x27 d a 0 k 0]
  | .frcp sw d a k m => [encA sw 0x28 d a 0 k (BitVec.setWidth 3 m)]
  | .frsq sw d a k m => [encA sw 0x28 d a 1 k (BitVec.setWidth 3 m)]
  | .fsqrt sw d a k m => [encA sw 0x28 d a 2 k (BitVec.setWidth 3 m)]
  | .fexp2 sw d a k m => [encA sw 0x28 d a 3 k (BitVec.setWidth 3 m)]
  | .flog2 sw d a k m => [encA sw 0x28 d a 4 k (BitVec.setWidth 3 m)]
  | .fsin sw d a k m => [encA sw 0x28 d a 5 k (BitVec.setWidth 3 m)]
  | .fcos sw d a k m => [encA sw 0x28 d a 6 k (BitVec.setWidth 3 m)]
  | .ftanh sw d a k m => [encA sw 0x28 d a 7 k (BitVec.setWidth 3 m)]
  | .fdiv sw d a b k m => [encA sw 0x29 d a b k m]
  | .froundRn sw d a => [encC sw 0x2A d a 0]
  | .froundRz sw d a => [encC sw 0x2A d a 1]
  | .froundRu sw d a => [encC sw 0x2A d a 2]
  | .froundRd sw d a => [encC sw 0x2A d a 3]
  | .fround sw d a => [encC sw 0x2A d a 4]
  | .cvt sw d a f g => [encC sw 0x30 d a (f ++ g ++ 0#4)]
  | .pack2 sw d a b k => [encA sw 0x31 d a b k 0]
  | .pack4 sw d a b c => [encB sw 0x32 d a b c]
  | .unpack sw d a f i => [encC sw 0x33 d a (f ++ 0#5 ++ i)]
  | .bscale sw d a b k => [encA sw 0x34 d a b k 0]
  | .bapply sw d a b k => [encA sw 0x35 d a b k 0]
  | .fmsetImm sw i => [encD sw 0x36 0 i]
  | .fmset sw a => [encC sw 0x37 0 a 0]
  | .fmget sw d => [encC sw 0x37 d 0 1]
  | .shflIdx sw d a b k => [encA sw 0x38 d a b k 0]
  | .shflXor sw d a b k => [encA sw 0x38 d a b k 1]
  | .shflUp sw d a b k => [encA sw 0x38 d a b k 2]
  | .shflDn sw d a b k => [encA sw 0x38 d a b k 3]
  | .bcast sw d a b k => [encA sw 0x39 d a b k 0]
  | .rdcAdd sw d a k => [encA sw 0x3A d a 0 k 0]
  | .rdcMin sw d a k => [encA sw 0x3A d a 0 k 1]
  | .rdcMax sw d a k => [encA sw 0x3A d a 0 k 2]
  | .rdcMinU sw d a k => [encA sw 0x3A d a 0 k 3]
  | .rdcMaxU sw d a k => [encA sw 0x3A d a 0 k 4]
  | .rdcFadd sw d a k => [encA sw 0x3A d a 0 k 5]
  | .rdcFmin sw d a k => [encA sw 0x3A d a 0 k 6]
  | .rdcFmax sw d a k => [encA sw 0x3A d a 0 k 7]
  | .scanAdd sw d a k => [encA sw 0x3B d a 0 k 0]
  | .scanMin sw d a k => [encA sw 0x3B d a 0 k 1]
  | .scanMax sw d a k => [encA sw 0x3B d a 0 k 2]
  | .scanMinU sw d a k => [encA sw 0x3B d a 0 k 3]
  | .scanMaxU sw d a k => [encA sw 0x3B d a 0 k 4]
  | .scanFadd sw d a k => [encA sw 0x3B d a 0 k 5]
  | .scanFmin sw d a k => [encA sw 0x3B d a 0 k 6]
  | .scanFmax sw d a k => [encA sw 0x3B d a 0 k 7]
  | .voteAny sw d a k => [encA sw 0x3C d a 0 k 0]
  | .voteAll sw d a k => [encA sw 0x3C d a 0 k 1]
  | .voteUni sw d a k => [encA sw 0x3C d a 0 k 2]
  | .ballot sw d a k => [encA sw 0x3C (wide d) a 0 k 3]
  | .kand sw d a b => [encA sw 0x3D (wide d) (wide a) (wide b) 0 0]
  | .kor sw d a b => [encA sw 0x3D (wide d) (wide a) (wide b) 0 1]
  | .kxor sw d a b => [encA sw 0x3D (wide d) (wide a) (wide b) 0 2]
  | .kandn sw d a b => [encA sw 0x3D (wide d) (wide a) (wide b) 0 3]
  | .knot sw d a => [encA sw 0x3D (wide d) (wide a) 0 0 4]
  | .kmov sw d a => [encA sw 0x3D (wide d) (wide a) 0 0 5]
  | .kpop sw d a => [encA sw 0x3E d (wide a) 0 0 0]
  | .kfirst sw d a => [encA sw 0x3E d (wide a) 0 0 1]
  | .kset sw d i => [encD sw 0x3F (wide d) i]
  | .ld sw t b x w h acq => [encM sw 0x40 t b x w h (if acq then 1 else 0)]
  | .st sw t b x w h rel => [encM sw 0x41 t b x w h (if rel then 2 else 0)]
  | .sld sw t b x w acq => [encM sw 0x42 t b x w 0 (if acq then 1 else 0)]
  | .sst sw t b x w rel => [encM sw 0x43 t b x w 0 (if rel then 2 else 0)]
  | .pld sw t b x w => [encM sw 0x44 t b x w 0 0]
  | .pst sw t b x w => [encM sw 0x45 t b x w 0 0]
  | .tld sw d a b c => [encB sw 0x46 d a b c]
  | .tst sw d a b c => [encB sw 0x47 d a b c]
  | .smap sw a b c => [encB sw 0x48 0 a b c]
  | .sunmap sw a b => [encB sw 0x49 0 a b 0]
  | .pref sw b x h => [encM sw 0x4A 0 b x 0 h 0]
  | .discard sw a b c => [encB sw 0x4B 0 a b c]
  | .lastuse sw a b c => [encB sw 0x4C 0 a b c]
  | .cwb sw a b => [encB sw 0x4D 0 a b 0]
  | .amoAdd sw t b x w o => [encM sw 0x50 t b x (atomW w) 0 o]
  | .amoMin sw t b x w o => [encM sw 0x50 t b x (atomW w) 1 o]
  | .amoMax sw t b x w o => [encM sw 0x50 t b x (atomW w) 2 o]
  | .amoAnd sw t b x w o => [encM sw 0x50 t b x (atomW w) 3 o]
  | .amoOr sw t b x w o => [encM sw 0x51 t b x (atomW w) 0 o]
  | .amoXor sw t b x w o => [encM sw 0x51 t b x (atomW w) 1 o]
  | .amoXchg sw t b x w o => [encM sw 0x51 t b x (atomW w) 2 o]
  | .amoFadd sw t b x o => [encM sw 0x51 t b x 2 3 o]
  | .amocas sw t b x w o => [encM sw 0x52 t b x (atomW w) 0 o]
  | .redAdd sw t b x w rel => [encM sw 0x53 t b x (atomW w) 0 (if rel then 2 else 0)]
  | .redMin sw t b x w rel => [encM sw 0x53 t b x (atomW w) 1 (if rel then 2 else 0)]
  | .redMax sw t b x w rel => [encM sw 0x53 t b x (atomW w) 2 (if rel then 2 else 0)]
  | .redAnd sw t b x w rel => [encM sw 0x53 t b x (atomW w) 3 (if rel then 2 else 0)]
  | .redOr sw t b x w rel => [encM sw 0x54 t b x (atomW w) 0 (if rel then 2 else 0)]
  | .redXor sw t b x w rel => [encM sw 0x54 t b x (atomW w) 1 (if rel then 2 else 0)]
  | .redFadd sw t b x rel => [encM sw 0x54 t b x 2 2 (if rel then 2 else 0)]
  | .fen sw p o => [encD sw 0x55 0 (0#13 ++ p ++ o)]
  | .ifen sw => [encD sw 0x56 0 0]
  | .cpy sw y x a b c => [encB sw 0x58 (0#4 ++ BitVec.ofBool y ++ BitVec.ofBool x) a b c]
  | .cpym sw m a b c => [encB sw 0x59 (BitVec.setWidth 6 m) a b c]
  | .cpytTs sw a b c => [encB sw 0x5A 0 a b c]
  | .cpytSt sw a b c => [encB sw 0x5A 1 a b c]
  | .bclC sw d => [encD sw 0x5B d 0]
  | .bclM sw d => [encD sw 0x5B d 1]
  | .bwtC sw a timeout => [encC sw 0x5C 0 a 0, timeout]
  | .bwtM sw a timeout => [encC sw 0x5C 0 a 1, timeout]
  | .bqryC sw d => [encC sw 0x5D d 0 0]
  | .bqryM sw d => [encC sw 0x5D d 0 1]
  | .mmaBf16 sw z a b r => [encX sw 0x60 z a b r 0]
  | .mmaF16 sw z a b r => [encX sw 0x61 z a b r 0]
  | .mmaF8 sw z a b r => [encX sw 0x62 z a b r 0]
  | .mmaF4 sw z a b r => [encX sw 0x63 z a b r 0]
  | .mmaI8 sw z a b r => [encX sw 0x64 z a b r 0]
  | .mmaH16 sw z a b r => [encX sw 0x65 z a b r 0]
  | .tsa sw z a b r => [encX sw 0x66 z a b r 0]
  | .mmlBf16 sw z a b r n ainc binc => [encX sw 0x60 z a b r n, ainc ++ binc ++ 0#14]
  | .mmlF16 sw z a b r n ainc binc => [encX sw 0x61 z a b r n, ainc ++ binc ++ 0#14]
  | .mmlF8 sw z a b r n ainc binc => [encX sw 0x62 z a b r n, ainc ++ binc ++ 0#14]
  | .mmlF4 sw z a b r n ainc binc => [encX sw 0x63 z a b r n, ainc ++ binc ++ 0#14]
  | .mmlI8 sw z a b r n ainc binc => [encX sw 0x64 z a b r n, ainc ++ binc ++ 0#14]
  | .mmlH16 sw z a b r n ainc binc => [encX sw 0x65 z a b r n, ainc ++ binc ++ 0#14]
  | .tsl sw z a b r n ainc binc => [encX sw 0x66 z a b r n, ainc ++ binc ++ 0#14]
  | .zclr sw z => [encX sw 0x67 z 0 0 false 0]
  | .zld sw z b => [encX sw 0x67 z 0 b false 1]
  | .zst sw z b => [encX sw 0x67 z 0 b false 2]
  | .zcvt sw z a => [encX sw 0x67 z a 0 false 3]
  | .br sw o => [encE sw 0x68 0 o]
  | .bcc sw c o => [encE sw 0x68 c o]
  | .bmz sw k o => [encE sw 0x69 (0#1 ++ k) o]
  | .bmnz sw k o => [encE sw 0x69 (1#1 ++ k) o]
  | .call sw o => [encE sw 0x6A 0 o]
  | .mif sw k o => [encE sw 0x6B (0#1 ++ k) o]
  | .melse sw o => [encE sw 0x6B 8 o]
  | .lpb sw d o bound steps => [encD sw 0x6C d (0#3 ++ o), bound, steps]
  | .lpbW sw o bound steps => [encD sw 0x6C 0 (4#3 ++ o), bound, steps]
  | .lpe sw o => [encE sw 0x6D 0 o]
  | .mend sw => [encA sw 0x6E 0 0 0 0 0]
  | .mbrk sw k => [encA sw 0x6E 0 0 0 k 1]
  | .mcont sw k => [encA sw 0x6E 0 0 0 k 2]
  | .exit sw => [encA sw 0x6F 0 0 0 0 0]
  | .nop sw => [encA sw 0x6F 0 0 0 0 1]
  | .jmp sw a => [encA sw 0x6F 0 a 0 0 2]
  | .calli sw a => [encA sw 0x6F 0 a 0 0 3]
  | .ret sw => [encA sw 0x6F 0 0 0 0 4]
  | .barArr sw l n => [encC sw 0x70 0 0 (0#2 ++ l ++ 0#5 ++ n)]
  | .barWt sw l n timeout => [encC sw 0x70 0 0 (1#2 ++ l ++ 0#5 ++ n), timeout]
  | .barSync sw l n timeout => [encC sw 0x70 0 0 (2#2 ++ l ++ 0#5 ++ n), timeout]
  | .spawn sw o => [encE sw 0x71 0 o]
  | .launch sw d a => [encC sw 0x72 d a 0]
  | .cwait sw d a timeout => [encC sw 0x73 d a 0, timeout]
  | .racq sw n => [encD sw 0x74 0 (0#15 ++ n)]
  | .rrel sw n => [encD sw 0x74 0 (0x4000#15 ++ n)]
  | .tset sw a => [encC sw 0x75 0 a 0]
  | .rput sw d => [encB sw 0x76 d 0 0 0]
  | .rmat sw a b c => [encB sw 0x77 0 a b c]
  | .rdrop sw a b c => [encB sw 0x77 1 a b c]
  | .trap sw c => [encD sw 0x78 0 (0#10 ++ c)]
  | .brk sw c => [encD sw 0x78 0 (0x100#10 ++ c)]
  | .tret sw => [encD sw 0x78 0 0x20000]
  | .fqry sw d n => [encC sw 0x79 d 0 n]
  | .sysr sw d n => [encC sw 0x7A d 0 n]
  | .sysw sw a n => [encC sw 0x7B 0 a n]
  | .tlbi sw => [encA sw 0x7C 0 0 0 0 0]
  | .tlbiId sw a => [encA sw 0x7C 0 a 0 0 1]
  | .tlbiVa sw a b => [encA sw 0x7C 0 a b 0 2]
  | .rep n d a b c => [0#1 ++ 0x7E#7 ++ n ++ d ++ a ++ b ++ c ++ 0#10]
  | .inv t lo hi tol dir x y len => [0#1 ++ 0x7E#7 ++ t ++ lo ++ hi ++ tol ++ BitVec.ofBool dir, x ++ y ++ len ++ 0#16]
  | .reg _ _ _ => []
  | .quote _ _ => []
  | .accept _ _ _ => []
  | .revoke _ _ => []
  | .pred _ _ _ _ _ => []
  | .fence _ _ => []
  | .fenceSatisfied _ => []
  | .signal _ _ _ _ => []
  | .streamTailWrite _ _ _ => []
  | .streamErrClear _ _ _ => []
  | .hostFabricWrite _ _ _ => []
  | .managementClaim _ _ _ => []
  | .systemRegisterWrite _ _ _ => []
  | .budgetWrite _ _ => []
  | .oppWrite _ _ => []
  | .oppLoweringApply => []
  | .stashcfgWrite _ _ => []
  | .stashcfgApply _ => []
  | .tlbinvIdentifier _ _ => []
  | .tlbinvPage _ _ => []
  | .tlbiDone _ => []
  | .areportWrite _ _ => []
  | .attestReportDone => []
  | .preemptSave _ _ => []
  | .preemptRestore _ _ => []
  | .preemptExport _ _ => []
  | .preemptImport _ _ => []
  | .quoteLapse _ => []
  | .placeBlock _ => []
  | .resultWrite _ _ => []
  | .storePerform _ => []
  | .atomicApply _ _ => []
  | .lineFill _ => []
  | .rebrewSlotStart _ => []
  | .sliceCycOverrun _ => []
  | .sliceNjOverrun _ => []
  | .copyLine _ _ => []
  | .matrixStep _ => []
  | .flushMarkerReport _ _ => []
  | .peerReport _ _ => []
  | .peerlate _ _ => []
  | .peerfail _ _ => []
  | .barrierTimeout _ => []
  | .batchWaitTimeout _ => []
  | .cwaitTimeout _ => []
  | .childLaunchDone _ => []
  | .timerDue _ => []
  | .timer _ => []
  | .userHandlerLimit _ => []
  | .privHandlerReturn _ => []
  | .emergencyBlockGrant _ => []
  | .machinePreempt _ => []
  | .restoreBlock _ _ => []
  | .teamRetire _ => []
  | .launchComplete _ => []
  | .costReplan _ => []
  | .thermalEmergency _ => []
  | .thermalEnd _ => []
  | .errorDetected _ => []
  | .quotingResume => []
  | .deviceReset => []
  | .illegalWord _ => []
  | .instructionFetch _ => []

/-- The number of words of an instruction, its literals included. -/
def wordsOf : Instr → Nat
  | .saddImm _ _ _ i | .sandImm _ _ _ i | .sorImm _ _ _ i | .vaddImm _ _ _ i =>
    match i with | .field _ => 1 | .lit _ => 2
  | .smovi _ _ i | .slui _ _ i | .vmovi _ _ i => match i with | .field _ => 1 | .lit _ => 2
  | .mmlBf16 .. | .mmlF16 .. | .mmlF8 .. | .mmlF4 .. | .mmlI8 .. | .mmlH16 .. | .tsl .. => 2
  | .bwtC .. | .bwtM .. | .barWt .. | .barSync .. | .cwait .. | .inv .. => 2
  | .lpb .. | .lpbW .. => 3
  | _ => 1

/-- The instruction that the decoder reads from an instruction whose bits are w, the first word in the low 32 bits.
The words beyond the first are its literals, as many as its form requires; an optional literal, and the literal that
makes a prefix inv, are known only from a clause header, which the bits do not hold. -/
def decodeTableWord (_nbits w : Nat) : Option Instr :=
  let word (i : Nat) : Word := BitVec.ofNat 32 (bits w (32 * i + 31) (32 * i))
  match decode (word 0) ((List.range (requiredLits (word 0))).map fun i => word (i + 1)) with
  | .ok (.instr i) => some i
  | _ => none

end Sys2Proof
end

