-- ==== Sys2Proof/Machine/State.lean ====
section
/-! DEFINITION. The state of the SZ9 as plain data: teams, blocks, launches, images, memory, caches, engines, front
cores and system registers, and the machine right after reset. The rules that name each field stand beside it; the
list with reset values is INVENTORY.md's. -/
namespace Sys2Proof.Machine

/-- What stops a step with a fault. Every stop that the manual describes is a state of the machine (a trap, an ended
launch), so the machine's meanings raise none of these. -/
inductive Fault where
  /-- Raised by nobody in this model; it stands for an access outside the physical address space. Safe. -/
  | absentAddress (a : Nat)
  deriving DecidableEq, Repr

/-- What a step refuses. -/
inductive Refusal where
  /-- Raised by an arm of `exec` whose instruction has no meaning yet. Safe: nothing is claimed of it. -/
  | notModelled (mnemonic : String)
  deriving DecidableEq, Repr

/-- The causes of traps (R382) and the causes that only breach records use (R331). -/
inductive Cause where
  | illegal | priv | hazard | regblk | fmt | align | trip | depth | wait | spawn | launch | rstack | stacklim
  | page | prot | wblk | rpin | rdepth | detx | mono | arith | timer | bkpt | syscall | mchk
  | late | overnrg | thermal | margin | englate | overpre | revoke | unmap | forcepre | migrate | peerlate | peerfail
  deriving DecidableEq, Repr

/-- The parties of a breach record (R329). -/
inductive Party where
  | caller | machine | host | peer
  deriving DecidableEq, Repr

/-- A tile of a tensor: the tensor identifier, the tile row and the tile column (R173). -/
structure TileName where
  tensor : Nat
  row : Nat
  col : Nat
  deriving DecidableEq, Repr

/-- A valid descriptor (R175). -/
structure Desc where
  base : Nat
  rows : Nat
  cols : Nat
  pitch : Nat
  fmt : Nat
  /-- Element width in bits, and columns of a tile. -/
  w : Nat
  tw : Nat
  compressed : Bool
  recomputable : Bool
  resident : Bool
  readonly : Bool
  index : Nat
  cbase : Nat
  recipe : Nat
  deriving DecidableEq, Repr

/-- What a trap tells beside its cause (R381, R329). -/
structure Detail where
  /-- The code of trap or brk, or the WBLK reason. -/
  sub : BitVec 8 := 0
  /-- The rebrew level at which the cause arose. -/
  level : BitVec 4 := 0
  /-- The faulting address of the lowest named lane. -/
  addr : DWord := 0
  /-- The tile concerned. -/
  tile : Option TileName := none
  costOver : Bool := false
  energyOver : Bool := false
  unpriced : Bool := false
  /-- The PAGE or PROT comes from the translation of this address, for these of R, W and X (R386). -/
  walk : Option (Nat × BitVec 3) := none
  /-- The trap is the fault of the copy with this number, raised at a wait (R219). -/
  copy : Option Nat := none
  /-- The party of the record when the cause ends the launch (R333). -/
  party : Party := .caller
  /-- The cause that the record names, when it is another than the trap's (R221). -/
  record : Option Cause := none
  deriving DecidableEq, Repr

/-- The kinds of a reconvergence-stack entry (R285). -/
inductive EntryKind where
  | ifArm | elseArm | loop | call | trap
  deriving DecidableEq, Repr

/-- One entry of the reconvergence stack (R285, R379). -/
structure Entry where
  kind : EntryKind
  /-- D: pushed by a spin demotion. -/
  demoted : Bool := false
  /-- W: a LOOP entry of lpb.w. -/
  whileLoop : Bool := false
  cause : Option Cause := none
  rpc : BitVec 48 := 0
  at_ : BitVec 48 := 0
  fm : Word := 0
  dfm : Word := 0
  /-- TRIPS of a LOOP entry; SPAN of a D entry. -/
  trips : Word := 0
  count : Word := 0
  steps : Word := 0
  mask : Mask := 0
  aux : Mask := 0
  sv59 : DWord := 0
  sv60 : DWord := 0
  sv61 : DWord := 0
  cc : BitVec 5 := 0
  repj : BitVec 8 := 0
  term : Bool := false
  fwd : Bool := false
  copy : Bool := false
  detail : Detail := {}
  /-- TRAP: instructions issued in the handler run that this one interrupts (R383). -/
  outer : Nat := 0
  /-- LOOP: what has this number or a later one belongs to the present trip (R276). -/
  mark : Nat := 0
  /-- LOOP: the present trip is not the first (R296). -/
  again : Bool := false
  deriving DecidableEq, Repr

/-- The one privileged entry of a team (R284): the trap that the privileged handler works on. -/
structure PrivEntry where
  cause : Cause
  /-- Under RSTACK, the cause that a trap would have raised (R284). -/
  kept : Option Cause
  mask : Mask
  lanes : Mask
  at_ : BitVec 48
  rpc : BitVec 48
  repj : BitVec 8
  fm : Word
  detail : Detail
  /-- The handler waits for the emergency register block (R271). -/
  needsBlock : Bool
  /-- Under RSTACK, the kept cause was a forwarded one (R386). -/
  fwd : Bool := false
  deriving DecidableEq, Repr

/-- Where one access of a lane goes. -/
inductive Place where
  /-- A physical byte address of linear memory. -/
  | lin (pa : Nat)
  /-- A byte offset in the block's stash. -/
  | stash (off : Nat)
  /-- A byte of the team's private area, at its virtual address. -/
  | priv (va : Nat)
  deriving DecidableEq, Repr

/-- The destination of a pending result (R43). -/
inductive PendDst where
  /-- n vector registers from the first. -/
  | v (first n : Nat)
  | s (r : SReg)
  | k (r : KReg)
  deriving DecidableEq, Repr

/-- The operations of the home slice's atomic ALU (R224 to R227). -/
inductive AtomOp where
  | add | min | max | and | or | xor | xchg | fadd | cas
  deriving DecidableEq, Repr

/-- One lane of an atomic or reduction that its home slice has not applied yet. -/
structure AtomLane where
  lane : Nat
  pa : Nat
  /-- The operand; for amocas the new value. -/
  operand : DWord
  /-- amocas: the value compared with. -/
  compare : DWord
  deriving DecidableEq, Repr

/-- Where a pending result comes from. -/
inductive PendSrc where
  /-- Values fixed when the instruction issued: register, lane, value. -/
  | lanes (vals : List (Nat × Nat × Word))
  | scalar (x : DWord)
  | mask (m : Mask)
  /-- A load: its width code, and for each lane its place and its value once that is fixed (R236). -/
  | load (w : Nat) (items : List (Nat × Place × Option DWord))
  /-- A tile line read: its name, the descriptor that it uses (R177), and its 128 words once they are fixed (R236). -/
  | tile (name : TileName) (desc : Desc) (words : Option (List Word))
  /-- The result of the atomic with this number. -/
  | atomic (id : Nat)
  /-- The registers that the queued zcvt with this number writes. -/
  | matrix (id : Nat)
  deriving DecidableEq, Repr

/-- The kinds of result that clause waits tell apart (R45, R152). -/
inductive PendKind where
  | other | atomic | matrix
  deriving DecidableEq, Repr

/-- A pending result (R43): an issued instruction whose register has not been written. -/
structure Pend where
  id : Nat
  dst : PendDst
  src : PendSrc
  kind : PendKind := .other
  /-- The register has been written; the result stays pending until a park or a clause wait (R43). -/
  landed : Bool
  /-- The write gave the register another value than it held (R276). -/
  changed : Bool := false
  deriving DecidableEq, Repr

/-- An outstanding atomic or reduction (R223, R224): the lanes applied so far are in `results`. -/
structure Atom where
  id : Nat
  op : AtomOp
  wide : Bool
  /-- The first register of the result; none for a reduction. -/
  dst : Option Nat
  todo : List AtomLane
  results : List (Nat × DWord)
  deriving DecidableEq, Repr

/-- A release in progress (R241 to R243). -/
structure Release where
  id : Nat
  /-- The scope, 0 team to 5 sys. -/
  scope : Nat
  /-- The base dies whose flush-marker report is still due. -/
  dies : List Nat
  /-- The peers whose gathered report is still due (R243). -/
  peers : List Nat
  /-- Device ns since the release issued. -/
  age : Nat
  /-- The barrier, by level and number, at which the team arrives once the release has performed (R246). -/
  arrive : Option (Nat × Nat) := none
  deriving DecidableEq, Repr

/-- An acquire of a team that is not over (R230, R241): later accesses wait until the value of the access with this number is
fixed, or for a fence until those of all the earlier ones are. -/
structure Acquire where
  id : Nat
  fence : Bool
  deriving DecidableEq, Repr

/-- The kinds of copy (R215 to R217). -/
inductive CopyKind where
  /-- cpy: whether the destination and the source lie in stash. -/
  | bytes (dstStash srcStash : Bool)
  | multicast | tileToStash | stashToTile
  deriving DecidableEq, Repr

/-- An outstanding copy (R215 to R219). -/
structure Copy where
  id : Nat
  kind : CopyKind
  /-- The word that issued it. -/
  at_ : BitVec 48
  dst : Nat
  src : Nat
  count : Nat
  /-- Bytes of the copy done so far. -/
  done : Nat
  /-- cpym: the target block; one copy for each target bears the number of its cpym. -/
  targets : List Nat
  tile : Option TileName
  /-- The descriptor that a copy of a tile uses, as it issued (R177). -/
  desc : Option Desc := none
  /-- The batch that closed it, if any. -/
  batch : Option Nat
  /-- It stopped with this fault. -/
  fault : Option (Cause × Detail)
  /-- It waits for the rebrew of its tile. -/
  brewing : Bool := false
  /-- The bytes of its destination, from the first, whose lines the engine has taken (R187). -/
  owned : Nat := 0
  deriving DecidableEq, Repr

/-- A queued item of matrix or ternary work (R146 to R156). -/
structure MItem where
  id : Nat
  instr : Instr
  at_ : BitVec 48
  stepsLeft : Nat
  nextA : Nat
  /-- The next B byte offset in the stash. -/
  nextB : Nat
  /-- fm as the word read it at issue. -/
  fm : Word
  batch : Option Nat
  /-- zst: the bytes of its destination, from the first, whose lines the unit has taken (R187), and those that it has written. -/
  owned : Nat := 0
  done : Nat := 0
  deriving DecidableEq, Repr

/-- The operand latch of the matrix unit for one team (R148). -/
structure Latch where
  first : Nat
  count : Nat
  rows : List (List Word)
  deriving DecidableEq, Repr

/-- An rep prefix in progress (R47): the four steps and the repetition that runs next. -/
structure RepState where
  count : Nat
  d : BitVec 2
  a : BitVec 2
  b : BitVec 2
  c : BitVec 2
  j : Nat
  deriving DecidableEq, Repr

/-- The phase of an inv (R162, R163). -/
inductive InvPhase where
  | low | high | bisect
  deriving DecidableEq, Repr

/-- An inv in progress (R162, R390): its fields, the words of its routine, and the shadow state per lane. -/
structure InvState where
  t : VReg
  lo : VReg
  hi : VReg
  tol : BitVec 5
  dir : Bool
  x : VReg
  y : VReg
  /-- Words of the routine, LEN + 1. -/
  len : Nat
  /-- The prefix's address. -/
  at_ : BitVec 48
  /-- Results of the present run have this number or a later one. -/
  from_ : Nat
  /-- The lanes that the inv runs in. -/
  lanes : Mask
  phase : InvPhase
  /-- The lanes of the current run of the routine. -/
  pass : Mask
  /-- The lanes found not monotone. -/
  bad : Mask
  low : List Word
  high : List Word
  flow : List Word
  fhigh : List Word
  runs : List Nat
  /-- exec at the prefix. -/
  exec : Mask
  /-- The run of this phase has begun: x has taken its points. A pre-emption falls between the runs (R166). -/
  begun : Bool
  /-- Words of the routine that have issued in the present run. -/
  pos : Nat
  deriving DecidableEq, Repr

/-- What a team waits for (R274). -/
inductive Wait where
  /-- The team is ready. -/
  | none
  /-- The park after a switch marker (R44): the results with a smaller number. -/
  | park (upto : Nat)
  /-- A HAZARD waits for the results with a smaller number to be written before it is taken (R46). -/
  | landing (upto : Nat)
  /-- A clause wait (R45). -/
  | clause (mask : BitVec 5)
  /-- A matrix item still has to read or write what the word needs, or the queue is full (R147, R390). -/
  | matrix
  | barrier (level number : Nat)
  /-- A spawned team waits until the release of its spawn, by the spawning team and number, has performed (R266). -/
  | born (spawner rel : Nat)
  /-- bwt.c: the batch, counted from the team's first, and the price of what it awaits, in ns (R221). -/
  | batchC (n : Int) (price : Nat)
  /-- bwt.m. -/
  | batchM (n : Int) (price : Nat)
  /-- A bcl.c that would leave 256 closed and incomplete batches waits for the oldest of them (R220). -/
  | room (oldest : Nat)
  | child (id : Nat) (d : SReg)
  /-- The hold of launch (R299). -/
  | launching (child : Nat) (d : SReg) (rel : Nat)
  /-- The hold of launch before its record can be read: every earlier access of the team has still to perform (R299). -/
  | earlier
  /-- A tile line that is missing (R197, R342). -/
  | tile (name : TileName)
  /-- A read or command that waits for the chain brewing its tile (R342). -/
  | brewing (name : TileName)
  /-- A code line that is missing (R401). -/
  | fetch (va : Nat)
  /-- The hold of smap and sunmap while the team's queued engine work uses the range, and of sunmap until the range has
  written back (R147, R212). -/
  | unmap
  /-- The hold of an invalidation (R368): the accesses with a smaller number may have used a dropped translation. -/
  | tlbi (before : Nat)
  /-- The privileged handler runs in the team's slot (R386). -/
  | handler
  /-- The end of the team's copies, atomics and reductions before exit (R223); with `all`, of its loads and matrix work
  as well, before rput (R348). -/
  | drain (all : Bool)
  deriving DecidableEq, Repr

/-- Whether a team has its slot (R280, R389). -/
inductive TeamStatus where
  | vacant | live | saved | retired | stopped
  deriving DecidableEq, Repr

/-- What a rebrew slot serves (R343, R344). -/
structure RebrewSlot where
  level : Nat
  name : TileName
  /-- The core of the server. -/
  server : Nat
  cyc : Nat
  nj : Nat
  /-- First byte and length of the slice. -/
  entry : Nat
  bytes : Nat
  cdepth : Nat
  blocks : Nat
  /-- Addresses that a direct call of the slice targets (R289). -/
  callees : List Nat
  /-- For each read of a tile that has issued, by its number, or by none for the one that the team waits at, the cycles counted
  since it issued (R404). -/
  opens : List (Option Nat × Nat) := []
  /-- The pending reads and copies that started or joined a deeper level (R404). -/
  nested : List Nat := []
  deriving DecidableEq, Repr

/-- A trap that a team has still to take: its cause, lanes and detail. With `place` it is past the privileged handler, and its delivery
at that word, to resume at the other, waits until the team's older results have been written (R376); `fwd` says that it was
forwarded. -/
structure Due where
  cause : Cause
  lanes : Mask
  detail : Detail
  place : Option (BitVec 48 × BitVec 48) := none
  fwd : Bool := false
  deriving DecidableEq, Repr

/-- The registers of a team (R38). -/
structure Regs where
  /-- v0 to v63, one list of %tsize words each; empty for a register that is not held. -/
  v : Vector (List Word) 64
  s : Vector DWord 64
  /-- k0 to k7. -/
  k : Vector Mask 8
  exec : Mask
  /-- z0 to z7, row-major, 32 words to a row. -/
  z : Vector (List Word) 8
  cc : BitVec 5
  fm : Word
  deriving DecidableEq, Repr

/-- A team (R260): its registers, its control state and its outstanding work. -/
structure Team where
  status : TeamStatus
  launch : Nat
  block : Nat
  core : Nat
  /-- The first slot, 0 to 67. -/
  slot : Nat
  /-- %tsize. -/
  tsize : Nat
  /-- %team. -/
  index : Nat
  spawner : Option Nat
  rebrew : Option RebrewSlot
  /-- Only the model's harness makes a privileged team; the machine runs none on a core's slots (R359). -/
  privileged : Bool
  regs : Regs
  pc : BitVec 48
  stack : List Entry
  /-- Entries spilled under compatibility spilling, oldest first (R287). -/
  spilled : List Entry
  privEntry : Option PrivEntry
  /-- Register blocks held, bit j for block j. -/
  held : BitVec 8
  /-- Accumulator tiles granted. -/
  ntile : Nat
  pend : List Pend
  atoms : List Atom
  rels : List Release
  acqs : List Acquire
  /-- The tile whose chain has ended the team's wait, until its word issues again: the read returns the line that the chain
  installed (R342). -/
  keeps : Option TileName
  rep : Option RepState
  /-- The repetition index that a tret restored (R388). -/
  repj : Nat
  inv : Option InvState
  /-- What the team waits for. -/
  wait : Wait
  /-- ns waited so far under the present timeout, and the timeout. -/
  waited : Nat
  timeout : Nat
  /-- The words of the instruction that waits, and its switch marker, for when its wait ends. -/
  afterWords : Nat
  afterSw : Bool
  timerArmed : Bool
  timerDue : Bool
  tdue : DWord
  tmr : DWord
  /-- Energy attributed to the team, in 0.1 pJ. -/
  energy : Nat
  hcount : Nat
  handlerRuns : Nat
  spawns : Nat
  launches : Nat
  mqueue : List MItem
  /-- Batches closed so far, of each kind; the numbers that bcl gives are these modulo 256 (R154, R220). -/
  mnext : Nat
  mopen : Bool
  copies : List Copy
  cnext : Nat
  copen : Bool
  latch : Option Latch
  /-- When the team became ready, in issue order (R277). -/
  stamp : Nat
  /-- The stamp of its last renewal by the spin detector (R276). -/
  renewed : Nat := 0
  /-- The number of the last instruction that changed a register or a mask or issued work (R276). -/
  changes : Nat
  /-- The virtual address of the team's private area. -/
  privbase : Nat
  /-- Bytes of private memory per lane. -/
  privBytes : Nat
  /-- The virtual addresses of the team's spill area and of its context image (R287, R390). -/
  spillBase : Nat
  imageVa : Nat
  /-- Bytes of private memory that the team has written, by virtual address (R186). -/
  privMem : Tab Byte
  /-- A trap that the team takes when it next runs: a fault found in a fill path or a chain (R196, R351), a HAZARD whose older
  results have been written (R46), an MCHK that fell in an inv (R166). -/
  due : Option Due
  deriving DecidableEq, Repr

/-- A barrier (R271, R273). -/
structure Barrier where
  phase : Bool
  /-- Teams in the waiter bitmap. -/
  waiters : List Nat
  /-- Participants whose last arrival phase is the present phase; the arrival count is their number. -/
  arrived : List Nat
  deriving DecidableEq, Repr

/-- A 64 KiB page of a mapped range, as smap translated it (R211): its number, the number of the physical page, and the
permissions. -/
structure MapPage where
  page : Nat
  frame : Nat
  perm : BitVec 3
  deriving DecidableEq, Repr

/-- A mapped stash range (R183, R211). -/
structure StashMap where
  off : Nat
  len : Nat
  va : Nat
  /-- The pages that it covers. Their translations are pinned. -/
  pages : List MapPage
  deriving DecidableEq, Repr

/-- A block (R263). -/
structure Block where
  launch : Nat
  /-- The linear index in the grid. -/
  index : Nat
  core : Nat
  coord : Nat × Nat × Nat
  teams : List Nat
  stashKiB : Nat
  stash : Memory
  maps : List StashMap
  bars : Vector Barrier 8
  retired : Bool
  saved : Bool
  /-- The virtual address of its share of the launch's pool piece: the block image, then its teams' areas (R362). -/
  imageVa : Nat
  deriving DecidableEq, Repr

/-- Charges at the cycle entries of R310, at figures printed in the pricing tables, and in the energy classes (R309). -/
structure Counts where
  nalu : Nat := 0
  ntrans : Nat := 0
  nstash : Nat := 0
  nl1 : Nat := 0
  nll : Nat := 0
  nhbm : Nat := 0
  nmstart : Nat := 0
  nmstep : Nat := 0
  nfix : Nat := 0
  ne0 : Nat := 0
  ne1 : Nat := 0
  ne2 : Nat := 0
  ne3 : Nat := 0
  ne4 : Nat := 0
  ne5 : Nat := 0
  ne6 : Nat := 0
  deriving DecidableEq, Repr

/-- The counters of a kernel's skeleton (R309). The charges of copies and of matrix-class forms are counted apart from the
others, as the worked quote of chapter 21 does (log 32). -/
structure Skeleton where
  plain : Counts := {}
  copies : Counts := {}
  matrix : Counts := {}
  nmb : Nat := 0
  nts : Nat := 0
  ni8 : Nat := 0
  nh16 : Nat := 0
  ncls : Nat := 0
  nwait : Nat := 0
  twait : Nat := 0
  nsys : Nat := 0
  /-- tld, cpyt.ts and rmat issues, the counter REBREW of R354. -/
  rebrew : Nat := 0
  /-- Of these, the tld, the cpyt.ts and the rmat (R233, R354). -/
  ntld : Nat := 0
  ncts : Nat := 0
  nrmat : Nat := 0
  deriving DecidableEq, Repr

/-- A kernel of a registered image (R56, R309). -/
structure Kernel where
  entry : Nat
  clen : Nat
  tsize : Nat
  tpb : Nat
  regs : Nat
  stashKiB : Nat
  privBytes : Nat
  gridMax : Nat × Nat × Nat
  depth : Nat
  spawn : Nat
  launch : Nat
  flags : BitVec 8
  push : Nat
  childNs : Nat
  childNj : Nat
  yieldNs : Nat
  resident : BitVec 64
  tensors : BitVec 64
  skeleton : Skeleton
  /-- The greatest worst case of a spawned team (R305). -/
  spawnSkeleton : Skeleton
  /-- Tiles granted to each team (R137). -/
  tiles : Nat
  /-- Words that a direct call targets (R289). -/
  callees : List Nat
  gridBarrier : Bool
  clusterNeeds : Bool
  deriving DecidableEq, Repr

/-- A registered image (R57, R371). -/
structure Image where
  /-- Its handle in its context. -/
  handle : Nat
  ctx : Nat
  addr : Nat
  len : Nat
  codeVa : Nat
  codeWords : Nat
  /-- The clause map: bit i stands for code word i (R32). -/
  cmap : Nat
  dataOff : Nat
  dataLen : Nat
  hasData : Bool
  kernels : List Kernel
  sha : List Byte
  deriving DecidableEq, Repr

/-- The states of a quote and its launch (R318, R320, R321, R281). -/
inductive LaunchPhase where
  | refused | open | live | done | declined | lapsed
  deriving DecidableEq, Repr

/-- The figures of a quote record (R318). -/
structure QuoteRec where
  tq : Nat := 0
  eq : Nat := 0
  cores : Nat := 0
  slots : Nat := 0
  tiles : Nat := 0
  rlines : Nat := 0
  stashk : Nat := 0
  llshare : Nat := 0
  power : Nat := 0
  ishare : Nat := 0
  opp : Nat := 0
  status : Nat := 0
  expiry : Nat := 0
  skel : DWord := 0
  reason : Nat := 0
  state : Nat := 0
  plan : Nat := 0
  deriving DecidableEq, Repr

/-- A breach record of a launch (R329), beside where it went. -/
structure Breach where
  party : Party
  cause : Cause
  team : Option Nat
  block : Nat
  core : Nat
  pc : BitVec 48
  tused : Nat
  eused : Nat
  detail : Detail
  noHandler : Bool
  /-- The index in the breach page, 0xFFFFFF when it was not written. -/
  index : Nat
  /-- The page, or its WRITTEN and READ words, could not be reached (R330). -/
  lost : Bool := false
  deriving DecidableEq, Repr

/-- A piece of a context's pool (R362): virtual address and bytes. -/
structure Piece where
  va : Nat
  bytes : Nat
  deriving DecidableEq, Repr

/-- The fields of a context-table entry that a QUOTE takes for the launch that it becomes: a later change to the live entry is for
later QUOTEs (R362). -/
structure CtxEntry where
  /-- UHAND, BRPAGE, RSLIST and POOL, and POOLLEN in bytes. -/
  uhand : Nat := 0
  brPage : Nat := 0
  rsList : Nat := 0
  pool : Nat := 0
  poolLen : Nat := 0
  deriving DecidableEq, Repr

/-- A quote and the launch it becomes (R312 to R328). -/
structure Launch where
  phase : LaunchPhase
  ctx : Nat
  image : Nat
  kernel : Nat
  grid : Nat × Nat × Nat
  /-- The context's entry as its QUOTE found it, or its parent's (R362). -/
  entry : CtxEntry := {}
  args : DWord
  yieldClass : Bool
  lflags : BitVec 8
  peerNs : Nat
  qrec : Nat
  compl : Nat
  ring : Option Ring
  parent : Option Nat
  depth : Nat
  fig : QuoteRec
  /-- STAT of the cost table used, in mW (R316). -/
  stat : Nat
  /-- Bc, the blocks that each reserved core holds at once (R313). -/
  perCore : Nat
  coreList : List Nat
  clusters : Bool
  accepted : Nat
  /-- Energy attributed, in 0.1 pJ, without the static part (R411). -/
  energy : Nat
  /-- H and the handler's dynamic energy (R385). -/
  handlerNs : Nat
  handlerEnergy : Nat
  switchedOut : Nat
  yieldLeft : Nat
  retiredBlocks : Nat
  nextBlock : Nat
  children : List Nat
  dataVa : Nat
  pieces : List Piece
  /-- The tensors that it names: its `.tensor` arguments and its priced set (R336, R354, R403). -/
  named : List Nat
  priced : List Nat
  residents : List Nat
  /-- Bytes of last-level capacity that its resident tensors occupy (R317). -/
  residentBytes : Nat
  /-- Pinned virtual ranges: address and length (R367). -/
  pins : List Piece
  features : List DWord
  breaches : List Breach
  hostDelay : Bool
  /-- A pre-emption has fallen due, and blocks of it are still to be saved (R389). -/
  saving : Bool := false
  /-- The management endpoint has saved it: its blocks wait for a Restore (R392). -/
  withdrawn : Bool := false
  peerLate : Bool
  unpricedAccess : Bool
  /-- A thermal emergency cuts its share, and its record is still to be written (R323). -/
  thermalCut : Bool
  /-- A read of it has waited for a chain of another launch (R343). -/
  joined : Bool
  /-- It is to end with this party and status (R384, R394). -/
  ending : Option Nat
  completion : Option DWord
  bars : Vector Barrier 2
  /-- Cluster barriers by cluster group: four each. -/
  clusterBars : Tab (List Barrier)
  /-- Peers to which the launch has sent accesses since its last sys release (R243). -/
  peers : List Nat
  /-- DET tags: the block that first did an atomic on a line (R228). -/
  detTags : Tab Nat
  deriving DecidableEq, Repr

/-- What a store writes: the bytes of a word of a form of lanes, or what a form does to a tile at its home slice, with the descriptor
that the form used (R177). -/
inductive Write where
  /-- Bytes of linear memory, or of a mapped stash unit, from a physical address up. -/
  | lin (pa : Nat) (data : List Byte)
  /-- Bytes of a block's plain stash. -/
  | stash (block off : Nat) (data : List Byte)
  /-- The line of a tile of a context (R208). -/
  | tile (ctx : Nat) (name : TileName) (words : List Word) (desc : Desc)
  /-- discard and lastuse, which count as stores (R209). -/
  | discard (ctx : Nat) (name : TileName) (desc : Desc)
  | lastUse (ctx : Nat) (name : TileName) (desc : Desc)
  /-- rmat and rdrop, which count as stores as well (R349). -/
  | rmat (ctx : Nat) (name : TileName) (desc : Desc)
  | rdrop (ctx : Nat) (name : TileName) (desc : Desc)
  deriving DecidableEq, Repr

/-- A store that has issued and that has not performed at every scope (R236). A store to plain stash performs everywhere once the
stash has accepted it. -/
structure Store where
  id : Nat
  core : Nat
  launch : Nat
  team : Nat
  what : Write
  /-- It is a streaming store: nobody sees it before its home slice orders it. -/
  stream : Bool
  /-- The L1 or the mapped unit has accepted it: it has performed at blk (R236). The accepted stores of a core stand in the
  order of their acceptance. -/
  accepted : Bool
  /-- A release at clu whose cluster has no other observer has not waited for it (R235, R241). -/
  passed : Bool := false
  deriving DecidableEq, Repr

/-- The states of a recomputable tile (R342). -/
inductive TileState where
  | absent | brewing | present
  deriving DecidableEq, Repr

/-- A tile line at its home slice: an ordinary or expanded line that the last-level cache holds, or the record of a
recomputable tile (R189 to R192, R342). -/
structure TileLine where
  ctx : Nat
  name : TileName
  state : TileState
  /-- M, and whether it has been read from the bitmap in this life. -/
  map : Bool
  mapRead : Bool
  words : List Word
  dirty : Bool
  lastUse : Bool
  recomputable : Bool
  /-- A recomputable line that tst or cpyt.st has installed (R342). -/
  stored : Bool := false
  /-- An error has poisoned the line (R393). -/
  poisoned : Bool := false
  deriving DecidableEq, Repr

/-- A request to a rebrew server (R343). -/
structure BrewReq where
  ctx : Nat
  launch : Nat
  name : TileName
  level : Nat
  /-- L, the DEPTH of the level-1 tensor. -/
  depth : Nat
  /-- The core whose server runs the chain. -/
  core : Nat
  running : Bool
  deriving DecidableEq, Repr

/-- What holds a translation (R366): the TLB of a pipe, by 4 × core + pipe, or of a core, or the front core's pins (R367). -/
inductive TlbPlace where
  | pipe (n : Nat)
  | core (n : Nat)
  | pins
  deriving DecidableEq, Repr

/-- A translation (R365, R366): identifier, virtual page, page size, physical page, permissions. -/
structure Tlb where
  asid : Nat
  va : Nat
  size : Nat
  pa : Nat
  perm : BitVec 3
  deriving DecidableEq, Repr

/-- What the walk of a recipe's slice found, kept for the record's address and the image (R347). -/
structure SliceWalk where
  ctx : Nat
  /-- The virtual address of the recipe record. -/
  record : Nat
  image : Nat
  bounded : Bool
  deriving DecidableEq, Repr

/-- A cached descriptor (R177). -/
structure CachedDesc where
  ctx : Nat
  tensor : Nat
  words : List DWord
  deriving DecidableEq, Repr

/-- A line of a core's L1 instruction cache (R296, R401). -/
structure ICacheLine where
  core : Nat
  asid : Nat
  va : Nat
  words : List Word
  deriving DecidableEq, Repr

/-- A line of a base die's shared instruction level, by its physical address (R14). -/
structure CodeLine where
  die : Nat
  pa : Nat
  words : List Word
  deriving DecidableEq, Repr

/-- The loop buffer of a pipe (R296): the team whose loop body it holds, where the body begins, how many words it spans,
whether trip 1 still fills it, and the words that it holds, by address. -/
structure LoopBuffer where
  team : Nat
  first : Nat
  span : Nat
  filling : Bool
  words : Tab Word
  deriving DecidableEq, Repr

/-- The fields of the last packet of each type in a ring (R370). -/
structure Delta where
  reg : BitVec 64 × BitVec 64
  quote : QuoteFields
  accept : BitVec 64 × BitVec 32
  revoke : BitVec 64
  pred : BitVec 64 × BitVec 64 × BitVec 64 × BitVec 32
  fence : BitVec 64
  signal : BitVec 64 × BitVec 64 × BitVec 32
  deriving DecidableEq, Repr

/-- The position of a ring in the arms of a PRED (R371). -/
structure PredArms where
  /-- Packets left of the first arm, whether they are handled, and those of the second arm. -/
  first : Nat
  taken : Bool
  second : Nat
  /-- The delta state that the PRED left. -/
  left : Delta
  deriving DecidableEq, Repr

/-- One ring, beside what its stream-table entry holds (R370, R371). -/
structure RingState where
  delta : Delta
  arms : Option PredArms
  /-- A FENCE holds the ring until the completion words of these launches are written. -/
  hold : Option (List Nat)
  /-- Launches accepted on this ring. -/
  accepted : List Nat
  /-- An error has stopped the ring (R370). -/
  stopped : Bool := false
  deriving DecidableEq, Repr

/-- The system registers that the machine holds (R363, R392, R394). Read-only ones that are computed from elsewhere
stand with their sources. -/
structure SysRegs where
  mgmtrej : DWord
  mgmtep : DWord
  costs : CostTable
  plan : BitVec 16
  budget : DWord
  /-- The requested operating point and the one in force. -/
  oppAsked : Nat
  opp : Nat
  /-- A request for a lower point is pending (R325). -/
  oppPending : Bool := false
  throt : BitVec 4
  stashcfg : BitVec 3
  anonce : Vector DWord 4
  areport : DWord
  ahandle : DWord
  astat : BitVec 2
  preempt : BitVec 2
  /-- The launch that the operation in progress saves, and whether it exports it (R392). -/
  preemptOp : Option (Nat × Bool)
  preaddr : DWord
  softErrors : BitVec 32
  lastingErrors : BitVec 16
  errrec0 : DWord
  errrec1 : DWord
  deriving DecidableEq, Repr

/-- What the device sends to an endpoint or a peer: the acknowledgement of a write, what a read returns, and the answer to a
peer's flush marker, which is FAILED after a reset (R360, R372, R395). -/
inductive Reply where
  | ack (ep : DWord)
  | data (ep : DWord) (bs : List Byte)
  | report (peer : Nat)
  | failed (peer : Nat)
  deriving DecidableEq, Repr

/-- A participant of a pipe's round (R278). -/
inductive Participant where
  | firm (launch : Nat)
  | yielding
  | throttle
  deriving DecidableEq, Repr

/-- A pipe's round: the participant visited, and the deficits D of the FIRM launches and of the YIELD entry, in issue
cycles (R278). -/
structure PipeRound where
  visiting : Participant
  firm : Tab Int
  yielding : Int
  deriving DecidableEq, Repr

/-- What the agents do next. The manual leaves open which agent moves when; the agenda holds that choice (log 1). -/
inductive Act where
  /-- The team issues, or ends a wait that is over. -/
  | issue (team : Nat)
  /-- The lane of the stream reads and handles the next packet. -/
  | lane (stream : Nat)
  /-- A step of another agent, one of rows 245 to 307 of the opcode table. -/
  | event (i : Instr)
  /-- The value of one lane of a load, or of a tile load, is fixed before its register is written (R236). -/
  | fix (team n lane : Nat)
  /-- A store's L1, unit or stash accepts it (R236). -/
  | accept (n : Nat)
  /-- An engine takes the next destination line of a team's copy or zst (R187), numbered as COPY_LINE numbers copies. -/
  | own (team n : Nat)
  /-- A pipe's round, by 4 × core + pipe, goes on to its next participant (R278). -/
  | visit (pipe : Nat)
  /-- Device time passes: ns, and cycles of the resident teams. -/
  | tick (ns cycles : Nat)
  /-- The last-level cache drops or writes back a tile line. -/
  | evict (ctx : Nat) (name : TileName)
  /-- A core's L1 instruction cache loses a line. -/
  | evictCode (core va : Nat)
  /-- A base die's shared instruction level loses a line. -/
  | evictLevel (die pa : Nat)
  /-- The L1 writes a team's private line back to the private area, and loses it (R186). -/
  | evictPriv (team va : Nat)
  /-- A translation is forgotten where it is held (R366). -/
  | forget (place : TlbPlace) (asid va : Nat)
  /-- A cached descriptor is forgotten (R177). -/
  | forgetDesc (ctx tensor : Nat)
  /-- Teams on several pipes issue in one cycle (R399). -/
  | cycle (teams : List Nat)
  /-- The packets that the lanes of these streams read fall due in one cycle on one front core (R23). -/
  | lanes (streams : List Nat)
  /-- The machine changes its operating point by itself (R325). -/
  | opp (point : Nat)
  /-- An access of a launch goes to a peer device (R243). The manual gives no map of the fabric. -/
  | reach (launch peer : Nat)
  /-- A peer's flush marker reaches the device, and the device answers it (R243, R395). -/
  | marker (peer : Nat)
  | answer (peer : Nat)
  /-- A fabric endpoint reads bytes of the window or of memory (R360, R361, R372). -/
  | read (ep : DWord) (tgt : FabricTarget) (n : Nat)
  deriving DecidableEq, Repr

/-- What a team's trap does to its launch: a breach record, where `record` says so, and the end of the launch, where `ends` does
(R384). -/
structure TrapEnd where
  team : Nat
  launch : Nat
  party : Party
  cause : Cause
  pc : BitVec 48
  detail : Detail
  noHandler : Bool := false
  record : Bool := true
  ends : Bool := true
  deriving DecidableEq, Repr

/-- The state of the machine. -/
structure State where
  /-- %ns (R39). -/
  ns : Nat
  teams : Tab Team
  /-- The team that issues. -/
  cur : Nat
  blocks : Tab Block
  /-- Quotes and launches by QID. -/
  launches : Tab Launch
  nextQid : Nat
  images : List Image
  slices : List SliceWalk
  mem : Memory
  stores : List Store
  tiles : List TileLine
  brews : List BrewReq
  /-- The translations that are held, each with what holds it, the latest first. -/
  tlbs : List (TlbPlace × Tlb)
  descs : List CachedDesc
  icache : List ICacheLine
  codeLevel : List CodeLine
  /-- The context table and the stream table, as their bytes (R362, R369). -/
  ctxTable : Memory
  streamTable : Memory
  rings : Tab RingState
  /-- Messages that SIGNAL wrote to an endpoint (R371): endpoint, address, value. -/
  hostWrites : List (DWord × DWord × DWord)
  /-- What the device has sent beside them, the latest last (R360, R372, R395). -/
  replies : List Reply
  /-- Writes of TLBINV through the window that are still to be acknowledged: the endpoint, and the number that the accesses which
  may use a dropped translation stay below (R363, R368). -/
  tlbinvHolds : List (DWord × Nat)
  /-- Peers whose flush marker awaits the device's report (R243, R395). -/
  markers : List Nat
  sys : SysRegs
  /-- Each core's stash split in force, in 128 KiB units (R181). -/
  stashSplit : Tab Nat
  /-- Cores whose emergency register block is lent, and to which team (R271). -/
  emergency : Tab Nat
  /-- The round of each pipe (R278), by 4 × core + pipe. -/
  rounds : Tab PipeRound
  /-- The loop buffer of each pipe (R296), by 4 × core + pipe. -/
  loopBuffers : Tab LoopBuffer
  fenced : BitVec 192
  haltedFronts : List Nat
  /-- Last lasting error of each array: unit and place, and its time (R393). -/
  lastErrors : List (ErrUnit × Nat × Nat)
  thermal : Bool
  quotingPaused : Bool
  poisoned : List Nat
  /-- While the teams of one cycle act: what their traps do to their launches, which comes at the cycle's end, as the flip tests of
  their barriers do (R273, R399). -/
  cycleTraps : Option (List TrapEnd)
  /-- Numbers for stores, results, copies, releases and teams. -/
  seq : Nat
  /-- The counter of free values (log 5). -/
  fresh : Nat
  agenda : List Act
  deriving DecidableEq, Repr

/-- Registers of a team that holds nothing. -/
def Regs.clear : Regs :=
  { v := Vector.replicate 64 [], s := Vector.replicate 64 0, k := Vector.replicate 8 0, exec := 0,
    z := Vector.replicate 8 [], cc := 0, fm := 0 }

/-- A vacant slot: no team. -/
def Team.vacant : Team :=
  { status := .vacant, launch := 0, block := 0, core := 0, slot := 0, tsize := 64, index := 0, spawner := none,
    rebrew := none, privileged := false, regs := .clear, pc := 0, stack := [], spilled := [], privEntry := none,
    held := 0, ntile := 0, pend := [], atoms := [], rels := [], acqs := [], keeps := none, rep := none,
    repj := 0, inv := none, wait := .none, waited := 0, timeout := 0, afterWords := 1,
    afterSw := false, timerArmed := false, timerDue := false,
    tdue := 0, tmr := 0, energy := 0, hcount := 0, handlerRuns := 0, spawns := 0, launches := 0, mqueue := [],
    mnext := 0, mopen := false, copies := [], cnext := 0, copen := false, latch := none, stamp := 0,
    changes := 0, privbase := 0, privBytes := 0, spillBase := 0, imageVa := 0, privMem := [],
    due := none }

/-- A barrier when its block, group or grid is placed (R272). -/
def Barrier.start : Barrier := { phase := false, waiters := [], arrived := [] }

/-- A block that nothing has placed. -/
def Block.none : Block :=
  { launch := 0, index := 0, core := 0, coord := (0, 0, 0), teams := [], stashKiB := 0, stash := [], maps := [],
    bars := Vector.replicate 8 .start, retired := false, saved := false, imageVa := 0 }

/-- A launch that nothing has quoted. -/
def Launch.none : Launch :=
  { phase := .refused, ctx := 0, image := 0, kernel := 0, grid := (1, 1, 1), args := 0, yieldClass := false,
    lflags := 0, peerNs := 0, qrec := 0, compl := 0, ring := .none, parent := .none, depth := 0, fig := {}, stat := 0,
    perCore := 0, coreList := [], clusters := false, accepted := 0, energy := 0, handlerNs := 0, handlerEnergy := 0,
    switchedOut := 0, yieldLeft := 0, retiredBlocks := 0, nextBlock := 0, children := [], dataVa := 0, pieces := [],
    named := [], priced := [], residents := [], residentBytes := 0, pins := [], features := [], breaches := [], hostDelay := false, peerLate := false,
    unpricedAccess := false, thermalCut := false, joined := false, ending := .none, completion := .none, bars := Vector.replicate 2 .start,
    clusterBars := [], peers := [], detTags := [] }

/-- A kernel that no image holds. -/
def Kernel.none : Kernel :=
  { entry := 0, clen := 0, tsize := 64, tpb := 1, regs := 1, stashKiB := 0, privBytes := 0, gridMax := (1, 1, 1),
    depth := 0, spawn := 0, launch := 0, flags := 0, push := 0, childNs := 0, childNj := 0, yieldNs := 0,
    resident := 0, tensors := 0, skeleton := {}, spawnSkeleton := {}, tiles := 0,
    callees := [], gridBarrier := false, clusterNeeds := false }

/-- Every field zero (R370). -/
def Delta.zero : Delta :=
  { reg := (0, 0), quote := ⟨0, 0, 0, 0, 0, 0, 0, 0⟩, accept := (0, 0), revoke := 0, pred := (0, 0, 0, 0), fence := 0,
    signal := (0, 0, 0) }

/-- A ring at its start (R370). -/
def RingState.start : RingState := { delta := .zero, arms := none, hold := none, accepted := [] }

/-- The cost table at reset (R310). -/
def resetCosts : CostTable :=
  { hbm := 2400, ll := 400, l1 := 40, stash := 24, mstart := 16, mstep := 4, trans := 12, alu := 4,
    e3 := 60, e2 := 30, e1 := 20, e0 := 5, e6 := 6000, e5 := 400, e4 := 80, mmae := 1800, tsae := 900, stat := 800 }

/-- The system registers at reset (R310, R363, R394). Where the manual gives no value the model names zero (log 4). -/
def SysRegs.reset : SysRegs :=
  { mgmtrej := 0, mgmtep := 0, costs := resetCosts, plan := 0, budget := 1900, oppAsked := 0, opp := 0, throt := 0,
    stashcfg := 4, anonce := Vector.replicate 4 0, areport := 0, ahandle := 0, astat := 0, preempt := 0, preemptOp := none, preaddr := 0,
    softErrors := 0, lastingErrors := 0, errrec0 := 0, errrec1 := 0 }

/-- The machine right after reset: no team, no launch, no image; memory with nothing listed; the system registers at
the values R310, R363 and R394 state, and at zero where they state none (log 4). -/
def State.reset : State :=
  { ns := 0, teams := [], cur := 0, blocks := [], launches := [], nextQid := 1, images := [], slices := [], mem := [], stores := [],
    tiles := [], brews := [], tlbs := [], descs := [], icache := [], codeLevel := [], ctxTable := [], streamTable := [], rings := [],
    hostWrites := [], replies := [], tlbinvHolds := [], markers := [], sys := .reset, stashSplit := [], emergency := [], rounds := [], loopBuffers := [],
    fenced := 0, haltedFronts := [], lastErrors := [], thermal := false, quotingPaused := false, poisoned := [],
    cycleTraps := none, seq := 0, fresh := 0, agenda := [] }

end Sys2Proof.Machine
end

