-- ==== Sys2Proof/Machine/Regs.lean ====
section
/-! DEFINITION. The team that issues, and its registers: the one place where vector, scalar, mask and tile registers
are read and written (R38, R261). s0 and k0 are hard-wired here. -/
namespace Sys2Proof.Machine

/-- A team by its number. -/
def State.teamOf (s : State) (id : Nat) : Team := s.teams.get Team.vacant id
/-- The team that issues. -/
def State.team (s : State) : Team := s.teamOf s.cur
/-- The state with a team replaced. -/
def State.setTeamOf (s : State) (id : Nat) (t : Team) : State := { s with teams := s.teams.set id t }
/-- The state with the issuing team replaced. -/
def State.setTeam (s : State) (t : Team) : State := s.setTeamOf s.cur t
/-- The same machine seen from another team. -/
def State.at (s : State) (id : Nat) : State := { s with cur := id }
/-- What one team does, in a step that another agent takes. -/
def State.asTeam (s : State) (id : Nat) (f : State → State) : State := (f (s.at id)).at s.cur
/-- A block by its number. -/
def State.blockOf (s : State) (id : Nat) : Block := s.blocks.get Block.none id
/-- The block of the issuing team. -/
def State.block (s : State) : Block := s.blockOf s.team.block
/-- The state with the issuing team's block replaced. -/
def State.setBlock (s : State) (b : Block) : State := { s with blocks := s.blocks.set s.team.block b }
/-- A quote or launch by its number. -/
def State.launchOf (s : State) (id : Nat) : Launch := s.launches.get Launch.none id
/-- The launch of the issuing team. -/
def State.launch (s : State) : Launch := s.launchOf s.team.launch
/-- The state with a launch replaced. -/
def State.setLaunchOf (s : State) (id : Nat) (l : Launch) : State := { s with launches := s.launches.set id l }
/-- The state with the issuing team's launch replaced. -/
def State.setLaunch (s : State) (l : Launch) : State := s.setLaunchOf s.team.launch l
/-- A number that nothing else has. -/
def State.bump (s : State) : State := { s with seq := s.seq + 1 }

/-- A scalar register: s0 reads zero (R38). -/
def Team.getS (t : Team) (r : SReg) : DWord := if r = 0 then 0 else t.regs.s[r.toNat]'(r.isLt)

/-- Writes a scalar register; a write to s0 is discarded (R38). -/
def Team.setS (t : Team) (r : SReg) (x : DWord) : Team :=
  if r = 0 then t else { t with regs := { t.regs with s := t.regs.s.set r.toNat x r.isLt } }

/-- The words of a vector register; none for a register that is not held. -/
def Team.vreg (t : Team) (r : Nat) : List Word := t.regs.v.toList.getD r []

/-- One lane of a vector register. -/
def Team.getV (t : Team) (r : VReg) (lane : Nat) : Word := (t.regs.v[r.toNat]'(r.isLt)).getD lane 0

/-- One lane of a register by number, as for the later registers of a group. -/
def Team.getVn (t : Team) (r lane : Nat) : Word := (t.vreg r).getD lane 0

/-- Writes a vector register in the lanes of a mask; the other lanes keep their values. -/
def Team.setV (t : Team) (r : VReg) (m : Mask) (f : Nat → Word) : Team :=
  let ws := (List.range t.tsize).map fun l => if m.getLsbD l then f l else t.getV r l
  { t with regs := { t.regs with v := t.regs.v.set r.toNat ws r.isLt } }

/-- Writes a register by number in the lanes of a mask. -/
def Team.setVn (t : Team) (r : Nat) (m : Mask) (f : Nat → Word) : Team := t.setV (BitVec.ofNat 6 r) m f

/-- A mask register. -/
def Team.getK (t : Team) (k : KReg) : Mask := t.regs.k[k.toNat]'(k.isLt)

/-- Writes a mask register. No instruction names k0 for writing (R38); a write to it is discarded here. -/
def Team.setK (t : Team) (k : KReg) (m : Mask) : Team :=
  if k = 0 then t else { t with regs := { t.regs with k := t.regs.k.set k.toNat m k.isLt } }

/-- k0, the lanes that exist and have not exited (R261). -/
def Team.k0 (t : Team) : Mask := t.regs.k[0]

/-- The machine's own write of k0, as lanes exit (R290). -/
def Team.setK0 (t : Team) (m : Mask) : Team := { t with regs := { t.regs with k := t.regs.k.set 0 m } }

/-- exec. -/
def Team.exec (t : Team) : Mask := t.regs.exec
/-- Writes exec. -/
def Team.setExec (t : Team) (m : Mask) : Team := { t with regs := { t.regs with exec := m } }
/-- fm. -/
def Team.fm (t : Team) : Word := t.regs.fm
/-- Writes fm. -/
def Team.setFm (t : Team) (x : Word) : Team := { t with regs := { t.regs with fm := x } }
/-- cc. -/
def Team.cc (t : Team) : BitVec 5 := t.regs.cc
/-- Writes cc. -/
def Team.setCc (t : Team) (x : BitVec 5) : Team := { t with regs := { t.regs with cc := x } }

/-- A tile as its 1024 words, row-major. -/
def Team.getZ (t : Team) (z : ZReg) : List Word := t.regs.z[z.toNat]'(z.isLt)
/-- Writes a tile. -/
def Team.setZ (t : Team) (z : ZReg) (ws : List Word) : Team :=
  { t with regs := { t.regs with z := t.regs.z.set z.toNat ws z.isLt } }
/-- Element (i, j) of a tile. -/
def tileAt (ws : List Word) (i j : Nat) : Word := ws.getD (32 * i + j) 0

/-- All lanes of a team (R261). -/
def allLanes (n : Nat) : Mask := BitVec.ofNat 1024 (2 ^ n - 1)

/-- The lane set of a form with the predicate field k: exec, or exec ∩ k (R99). -/
def Team.lanes (t : Team) (k : KReg) : Mask := if k = 0 then t.exec else t.exec &&& t.getK k

/-- The register block of a vector register. -/
def blockOfV (r : Nat) : Nat := r / 8

/-- A team holds a vector register (R270). -/
def Team.holds (t : Team) (r : Nat) : Bool := t.held.getLsbD (blockOfV r)

end Sys2Proof.Machine
end

