-- ==== Sys2Proof/Machine/Flags.lean ====
section
/-! DEFINITION. cc: its bits (R40), the flags that each group of instructions writes (R107), and the conditions that
test them (R35). -/
namespace Sys2Proof.Machine

/-- Z, bit 0 of cc. -/
def ccZ (cc : BitVec 5) : Bool := cc.getLsbD 0
/-- N, bit 1 of cc. -/
def ccN (cc : BitVec 5) : Bool := cc.getLsbD 1
/-- C, bit 2 of cc. -/
def ccC (cc : BitVec 5) : Bool := cc.getLsbD 2
/-- V, bit 3 of cc. -/
def ccV (cc : BitVec 5) : Bool := cc.getLsbD 3
/-- B, bit 4 of cc. -/
def ccB (cc : BitVec 5) : Bool := cc.getLsbD 4

/-- cc from its flags, B V C N Z. -/
def mkCc (b v c n z : Bool) : BitVec 5 :=
  BitVec.ofBool b ++ BitVec.ofBool v ++ BitVec.ofBool c ++ BitVec.ofBool n ++ BitVec.ofBool z

/-- cc after an addition (R107): Z, N, carry out of bit 63, signed overflow; B stays. -/
def flagsAdd (cc : BitVec 5) (a b : DWord) : BitVec 5 :=
  let r := a + b
  mkCc (ccB cc) (decide (a.toInt + b.toInt ≠ r.toInt)) (decide (2 ^ 64 ≤ a.toNat + b.toNat)) r.msb (r == 0)

/-- cc after a subtraction (R107): C is 1 when a ≥ b unsigned. -/
def flagsSub (cc : BitVec 5) (a b : DWord) : BitVec 5 :=
  let r := a - b
  mkCc (ccB cc) (decide (a.toInt - b.toInt ≠ r.toInt)) (decide (b.toNat ≤ a.toNat)) r.msb (r == 0)

/-- cc after a logic form (R107): Z and N; C, V and B stay. -/
def flagsLogic (cc : BitVec 5) (r : DWord) : BitVec 5 := mkCc (ccB cc) (ccV cc) (ccC cc) r.msb (r == 0)

/-- cc after a mask test (R107): B; the other flags stay. -/
def flagsMask (cc : BitVec 5) (m : Mask) : BitVec 5 := mkCc (m == 0) (ccV cc) (ccC cc) (ccN cc) (ccZ cc)

/-- A condition of R35 holds on cc; 15 is reserved and refused at decoding. -/
def condHolds (c : BitVec 4) (cc : BitVec 5) : Bool :=
  match c.toNat with
  | 0 => true
  | 1 => ccZ cc
  | 2 => !ccZ cc
  | 3 => ccN cc != ccV cc
  | 4 => ccN cc == ccV cc
  | 5 => !ccZ cc && ccN cc == ccV cc
  | 6 => ccZ cc || ccN cc != ccV cc
  | 7 => !ccC cc
  | 8 => ccC cc
  | 9 => ccC cc && !ccZ cc
  | 10 => !ccC cc || ccZ cc
  | 11 => ccV cc
  | 12 => !ccV cc
  | 13 => ccB cc
  | 14 => !ccB cc
  | _ => false

end Sys2Proof.Machine
end

