-- ==== Sys2Proof/Machine/Fp.lean ====
section
/-! DEFINITION. The number formats and the arithmetic promise (04_number_formats): decoding, exact values, rounding,
conversion, block scales and the ordered image. Exact values are dyadic rationals, so sums
and products are formed without any rounding, and RoundTo narrows once (R8, R91). -/
namespace Sys2Proof.Machine

/-- A format of R81. -/
inductive Fmt where
  | fp32 | fp16 | bf16 | e4m3 | e5m2 | e2m1 | int8 | uint8 | int4 | tern | int32 | ue8m0
  deriving DecidableEq, Repr

/-- The format of a code, if the code is assigned (R81). -/
def Fmt.ofCode : Nat → Option Fmt
  | 0 => some .fp32 | 1 => some .fp16 | 2 => some .bf16 | 3 => some .e4m3 | 4 => some .e5m2 | 5 => some .e2m1
  | 6 => some .int8 | 7 => some .uint8 | 8 => some .int4 | 9 => some .tern | 10 => some .int32 | 11 => some .ue8m0
  | _ => none

/-- The width of an element in bits (R81). -/
def Fmt.width : Fmt → Nat
  | .fp32 => 32 | .fp16 => 16 | .bf16 => 16 | .e4m3 => 8 | .e5m2 => 8 | .e2m1 => 4 | .int8 => 8 | .uint8 => 8
  | .int4 => 4 | .tern => 2 | .int32 => 32 | .ue8m0 => 8

/-- The floating-point formats with a sign (R86). -/
def Fmt.isFloat : Fmt → Bool
  | .fp32 | .fp16 | .bf16 | .e4m3 | .e5m2 | .e2m1 => true
  | _ => false

/-- The formats whose subnormals FTZ flushes (R80, R90). -/
def Fmt.flushes : Fmt → Bool
  | .fp32 | .fp16 | .bf16 => true
  | _ => false

/-- Mantissa bits of a floating-point format (R86). -/
def Fmt.man : Fmt → Nat
  | .fp32 => 23 | .fp16 => 10 | .bf16 => 7 | .e4m3 => 3 | .e5m2 => 2 | .e2m1 => 1
  | _ => 0

/-- Exponent bias of a floating-point format (R86). -/
def Fmt.bias : Fmt → Nat
  | .fp32 => 127 | .fp16 => 15 | .bf16 => 127 | .e4m3 => 7 | .e5m2 => 15 | .e2m1 => 1
  | _ => 0

/-- The encoding of the largest finite magnitude, without its sign (R87). -/
def Fmt.maxCode : Fmt → Nat
  | .fp32 => 0x7F7FFFFF | .fp16 => 0x7BFF | .bf16 => 0x7F7F | .e4m3 => 0x7E | .e5m2 => 0x7B | .e2m1 => 7
  | _ => 0

/-- The encoding of +infinity, for the formats that have one (R87). -/
def Fmt.infCode : Fmt → Option Nat
  | .fp32 => some 0x7F800000 | .fp16 => some 0x7C00 | .bf16 => some 0x7F80 | .e5m2 => some 0x7C
  | _ => none

/-- The canonical NaN (R87); E2M1 has none and takes 0 (R91). -/
def Fmt.nanCode : Fmt → Nat
  | .fp32 => 0x7FC00000 | .fp16 => 0x7E00 | .bf16 => 0x7FC0 | .e4m3 => 0x7F | .e5m2 => 0x7E
  | _ => 0

/-- The range of an integer or ternary format (R89). -/
def Fmt.range : Fmt → Int × Int
  | .int32 => (-2147483648, 2147483647) | .int8 => (-128, 127) | .uint8 => (0, 255) | .int4 => (-8, 7)
  | .tern => (-1, 1)
  | _ => (0, 0)

/-- An exact value: NaN, an infinity, or (-1)^s * m * 2^e, where m = 0 is a zero that keeps its sign (R86, R91). -/
inductive Val where
  | nan
  | inf (s : Bool)
  | fin (s : Bool) (m : Nat) (e : Int)
  deriving DecidableEq, Repr

/-- An element as Decode delivers it: a floating-point value or an integer (R90). -/
inductive Elem where
  | flt (v : Val)
  | int (n : Int)
  deriving DecidableEq, Repr

/-- The sign of a value; NaN counts as positive. -/
def Val.sign : Val → Bool
  | .nan => false
  | .inf s => s
  | .fin s _ _ => s

/-- The value with its sign turned. -/
def Val.neg : Val → Val
  | .nan => .nan
  | .inf s => .inf (!s)
  | .fin s m e => .fin (!s) m e

/-- The absolute value. -/
def Val.abs : Val → Val
  | .nan => .nan
  | .inf _ => .inf false
  | .fin _ m e => .fin false m e

/-- A floating-point pattern as an exact value (R86, R87), before any flush. -/
def decodeRaw (f : Fmt) (b : Nat) : Val :=
  let mant := b % 2 ^ f.man
  let expo := (b / 2 ^ f.man) % 2 ^ (f.width - 1 - f.man)
  let sign := b.testBit (f.width - 1)
  let mag := b % 2 ^ (f.width - 1)
  if f.infCode = some mag then .inf sign
  else if mag > f.maxCode then .nan
  else if expo = 0 then .fin sign mant (1 - (f.bias : Int) - f.man)
  else .fin sign (2 ^ f.man + mant) ((expo : Int) - f.bias - f.man)

/-- The pattern is subnormal or zero: its exponent field is zero. -/
def isSubCode (f : Fmt) (b : Nat) : Bool := (b / 2 ^ f.man) % 2 ^ (f.width - 1 - f.man) == 0

/-- Decode of a floating-point format with FTZ (R90). -/
def decodeFlt (f : Fmt) (ftz : Bool) (b : Nat) : Val :=
  if ftz && f.flushes && isSubCode f b then .fin (b.testBit (f.width - 1)) 0 0 else decodeRaw f b

/-- The low w bits read in two's complement. -/
def signed (w : Nat) (b : Nat) : Int :=
  let v := b % 2 ^ w
  if v < 2 ^ (w - 1) then (v : Int) else (v : Int) - (2 ^ w : Nat)

/-- An integer or ternary element (R89). The malformed TERN code 0b10 is caught before (R90). -/
def decodeInt (f : Fmt) (b : Nat) : Int :=
  match f with
  | .uint8 => (b % 256 : Nat)
  | _ => signed f.width b

/-- Decode (R90); bits above the element's width are ignored. -/
def decodeElem (f : Fmt) (ftz : Bool) (b : Nat) : Elem :=
  if f.isFloat then .flt (decodeFlt f ftz (b % 2 ^ f.width)) else .int (decodeInt f b)

/-- A TERN element that is malformed (R89). -/
def badTern (f : Fmt) (b : Nat) : Bool := f == .tern && b % 4 == 2

/-- Rounds m * 2^e (and a rest below one unit of 2^e when `rest`) to a whole number of units of 2^q, in direction rm:
0 nearest even, 1 toward zero, 2 up, 3 down (R80); s is the sign. -/
def roundUnits (s : Bool) (m : Nat) (e q : Int) (rest : Bool) (rm : Nat) : Nat :=
  if q ≤ e then
    let n := m * 2 ^ (e - q).toNat
    if rest && ((rm == 2 && !s) || (rm == 3 && s)) then n + 1 else n
  else
    let k := (q - e).toNat
    let n := m / 2 ^ k
    let r := m % 2 ^ k
    let half := 2 ^ (k - 1)
    let inexact := r != 0 || rest
    let up := match rm with
      | 0 => decide (r > half) || (r == half && (rest || n % 2 == 1))
      | 1 => false
      | 2 => !s && inexact
      | _ => s && inexact
    if up then n + 1 else n

/-- The sign bit of a format, as a number to add to a magnitude code. -/
def signCode (f : Fmt) (s : Bool) : Nat := if s then 2 ^ (f.width - 1) else 0

/-- RoundTo of a nonzero finite magnitude (R91). -/
def roundFinite (f : Fmt) (rm : Nat) (sat ftz : Bool) (s : Bool) (m : Nat) (e : Int) (rest : Bool) : Nat :=
  let minq : Int := 1 - (f.bias : Int) - f.man
  let q : Int := max ((Nat.log2 m : Int) + e - f.man) minq
  let n0 := roundUnits s m e q rest rm
  let (n, q) := if n0 = 2 ^ (f.man + 1) then (2 ^ f.man, q + 1) else (n0, q)
  let code : Nat := if n < 2 ^ f.man then n else (q - minq + 1).toNat * 2 ^ f.man + (n - 2 ^ f.man)
  if code > f.maxCode then
    if f == .e2m1 || sat then f.maxCode + signCode f s
    else if rm == 1 || (rm == 2 && s) || (rm == 3 && !s) then f.maxCode + signCode f s
    else match f.infCode with
      | some i => i + signCode f s
      | none => f.nanCode
  else if code == 0 then signCode f s
  else if ftz && f.flushes && code < 2 ^ f.man then signCode f s
  else code + signCode f s

/-- RoundTo of a floating-point format (R91), with `rest` as in `roundUnits`. -/
def roundFlt (f : Fmt) (rm : Nat) (sat ftz : Bool) (v : Val) (rest : Bool := false) : Nat :=
  match v with
  | .nan => f.nanCode
  | .inf s =>
    match f.infCode with
    | some i => if f == .e5m2 && sat then f.maxCode + signCode f s else i + signCode f s
    | none => if f == .e4m3 && !sat then f.nanCode else f.maxCode + signCode f s
  | .fin s m e => if m = 0 then signCode f s else roundFinite f rm sat ftz s m e rest

/-- Clamps to the range of an integer format (R91). -/
def clampTo (f : Fmt) (n : Int) : Int := max f.range.1 (min f.range.2 n)

/-- The encoding of an integer in w bits of two's complement. -/
def encodeInt (w : Nat) (n : Int) : Nat := (n % (2 ^ w : Nat)).toNat

/-- RoundTo of an integer or ternary format (R91): always saturates, and NaN gives 0. -/
def roundInt (f : Fmt) (rm : Nat) (v : Val) : Nat :=
  match v with
  | .nan => 0
  | .inf s => encodeInt f.width (if s then f.range.1 else f.range.2)
  | .fin s m e =>
    -- a magnitude of 2^64 or more lies outside every range, so it is clamped before the shift
    if m ≠ 0 ∧ (Nat.log2 m : Int) + e > 64 then encodeInt f.width (if s then f.range.1 else f.range.2)
    else
      let n : Int := roundUnits s m e 0 false rm
      encodeInt f.width (clampTo f (if s then -n else n))

/-- RoundTo (R91). -/
def roundTo (f : Fmt) (rm : Nat) (sat ftz : Bool) (v : Val) : Nat :=
  if f.isFloat then roundFlt f rm sat ftz v else roundInt f rm v

/-- The exact value of an integer. -/
def Val.ofInt (n : Int) : Val := .fin (decide (n < 0)) n.natAbs 0

/-- Convert (R95): the encoding in g of a decoded element. -/
def convert (g : Fmt) (rm : Nat) (sat ftz : Bool) (x : Elem) : Nat :=
  match x with
  | .flt v => roundTo g rm sat ftz v
  | .int n =>
    if g.isFloat then roundFlt g rm sat ftz (.ofInt n)
    else if g == .tern || sat then encodeInt g.width (clampTo g n)
    else encodeInt g.width n

/-- Place (R108): a narrow result in a 32-bit lane. -/
def place (g : Fmt) (code : Nat) : Word :=
  match g with
  | .int8 | .int4 | .tern => BitVec.ofInt 32 (signed g.width code)
  | _ => BitVec.ofNat 32 code

/-- The signed mantissa of a finite value at a lower exponent. -/
def alignTo (s : Bool) (m : Nat) (e target : Int) : Int :=
  let n : Int := (m * 2 ^ (e - target).toNat : Nat)
  if s then -n else n

/-- The exact sum (R92). -/
def addVal (rm : Nat) (x y : Val) : Val :=
  match x, y with
  | .nan, _ => .nan
  | _, .nan => .nan
  | .inf s, .inf s' => if s = s' then .inf s else .nan
  | .inf s, _ => .inf s
  | _, .inf s => .inf s
  | .fin s m e, .fin s' m' e' =>
    if m = 0 ∧ m' = 0 then .fin (if s = s' then s else rm == 3) 0 0
    else if m = 0 then .fin s' m' e'
    else if m' = 0 then .fin s m e
    else
      let t := min e e'
      let n := alignTo s m e t + alignTo s' m' e' t
      if n = 0 then .fin (rm == 3) 0 0 else .fin (decide (n < 0)) n.natAbs t

/-- The exact product (R92). -/
def mulVal (x y : Val) : Val :=
  match x, y with
  | .nan, _ => .nan
  | _, .nan => .nan
  | .inf s, .inf s' => .inf (s ^^ s')
  | .inf s, .fin s' m _ => if m = 0 then .nan else .inf (s ^^ s')
  | .fin s m _, .inf s' => if m = 0 then .nan else .inf (s ^^ s')
  | .fin s m e, .fin s' m' e' => .fin (s ^^ s') (m * m') (e + e')

/-- An exact product with a power of two. -/
def scaleVal (x : Val) (k : Int) : Val :=
  match x with
  | .fin s m e => .fin s m (e + k)
  | v => v

/-- x < y on values that are not NaN, with -0 equal to +0. -/
def ltVal (x y : Val) : Bool :=
  match x, y with
  | .nan, _ => false
  | _, .nan => false
  | .inf s, .inf s' => s && !s'
  | .inf s, _ => s
  | _, .inf s' => !s'
  | .fin s m e, .fin s' m' e' =>
    let t := min e e'
    decide (alignTo s m e t < alignTo s' m' e' t)

/-- x = y on values, with -0 equal to +0; a NaN equals nothing. -/
def eqVal (x y : Val) : Bool :=
  x != .nan && y != .nan && !ltVal x y && !ltVal y x

/-- fmin (R119). -/
def fminVal (x y : Val) : Val :=
  match x, y with
  | .nan, y => y
  | x, .nan => x
  | x, y => if ltVal x y then x else if ltVal y x then y else if x.sign then x else y

/-- fmax (R119). -/
def fmaxVal (x y : Val) : Val :=
  match x, y with
  | .nan, y => y
  | x, .nan => x
  | x, y => if ltVal y x then x else if ltVal x y then y else if x.sign then y else x

/-- The FP32 pattern of a value that FP32 holds. -/
def encode32 (v : Val) : Word := BitVec.ofNat 32 (roundFlt .fp32 0 false false v)

/-- RoundTo(FP32, v, rm) as a lane value. -/
def round32 (rm : Nat) (sat ftz : Bool) (v : Val) (rest : Bool := false) : Word :=
  BitVec.ofNat 32 (roundFlt .fp32 rm sat ftz v rest)

/-- Decode(FP32, w). -/
def decode32 (ftz : Bool) (w : Word) : Val := decodeFlt .fp32 ftz w.toNat

/-- The largest r with r * r ≤ n, for n below 2^(2k), one bit at a time. -/
def isqrtFrom (n : Nat) : Nat → Nat → Nat
  | 0, r => r
  | k + 1, r => isqrtFrom n k (if (r + 2 ^ k) * (r + 2 ^ k) ≤ n then r + 2 ^ k else r)

/-- The integer square root of a number below 2^256. -/
def isqrt (n : Nat) : Nat := isqrtFrom n 128 0

/-- The quotient of nonzero finite magnitudes with at least 29 bits, and whether a rest is left. -/
def divMag (m : Nat) (e : Int) (m' : Nat) (e' : Int) : Nat × Int × Bool :=
  let k := 30 + Nat.log2 m'
  ((m * 2 ^ k) / m', e - e' - k, (m * 2 ^ k) % m' != 0)

/-- fdiv (R123): correctly rounded division. -/
def fdivWord (rm : Nat) (sat ftz : Bool) (x y : Val) : Word :=
  match x, y with
  | .nan, _ => encode32 .nan
  | _, .nan => encode32 .nan
  | .inf _, .inf _ => encode32 .nan
  | .inf s, .fin s' _ _ => encode32 (.inf (s ^^ s'))
  | .fin s _ _, .inf s' => encode32 (.fin (s ^^ s') 0 0)
  | .fin s m e, .fin s' m' e' =>
    if m' = 0 then (if m = 0 then encode32 .nan else encode32 (.inf (s ^^ s')))
    else if m = 0 then encode32 (.fin (s ^^ s') 0 0)
    else
      let (q, eq, rest) := divMag m e m' e'
      round32 rm sat ftz (.fin (s ^^ s') q eq) rest

/-- The square root of a nonzero finite magnitude with at least 29 bits, and whether a rest is left. -/
def sqrtMag (m : Nat) (e : Int) : Nat × Int × Bool :=
  let k : Nat := if e % 2 = 0 then 60 else 61
  let n := m * 2 ^ k
  let r := isqrt n
  (r, (e - k) / 2, r * r != n)

/-- The reciprocal square root of a nonzero finite magnitude with at least 48 bits, and whether a rest is left. -/
def rsqrtMag (m : Nat) (e : Int) : Nat × Int × Bool :=
  let j : Nat := if e % 2 = 0 then 120 else 121
  let r := isqrt (2 ^ j / m)
  (r, (-e - j) / 2, r * r * m != 2 ^ j)

/-- fround (R122): the integral value in direction rm, keeping the sign. -/
def froundWord (rm : Nat) (v : Val) : Word :=
  match v with
  | .fin s m e =>
    if m = 0 ∨ (Nat.log2 m : Int) + e ≥ 23 then encode32 v
    else encode32 (.fin s (roundUnits s m e 0 false rm) 0)
  | v => encode32 v

/-- fclass (R121): one bit of [9:0], from the raw pattern. -/
def fclassWord (w : Word) : Word :=
  let b := w.toNat
  let mag := b % 2 ^ 31
  let s := b.testBit 31
  if mag > 0x7F800000 then (if b.testBit 22 then 512 else 256)
  else if mag = 0x7F800000 then (if s then 1 else 128)
  else if mag = 0 then (if s then 8 else 16)
  else if mag < 2 ^ 23 then (if s then 4 else 32)
  else (if s then 2 else 64)

/-- The value of a UE8M0 scale applied to a value (R88, R96). -/
def applyScale (v : Val) (e : Nat) : Val := if e = 0xFF then .nan else scaleVal v ((e : Int) - 127)

/-- The value divided by a UE8M0 scale (R128). -/
def applyInvScale (v : Val) (e : Nat) : Val := if e = 0xFF then .nan else scaleVal v (127 - (e : Int))

/-- An FP32 pattern that is a NaN (R87). -/
def isNan32 (w : Word) : Bool := w.toNat % 2 ^ 31 > 0x7F800000

/-- OrderedImage (R100). -/
def orderedImage (w : Word) : Nat := if w.toNat < 2 ^ 31 then w.toNat + 2 ^ 31 else 0xFFFFFFFF - w.toNat

/-- FromOrdered (R100). -/
def fromOrdered (u : Nat) : Word := if u ≥ 2 ^ 31 then BitVec.ofNat 32 (u - 2 ^ 31) else BitVec.ofNat 32 (0xFFFFFFFF - u)

/-- The fields of fm (R80). -/
def Fm.afmt (fm : Word) : Nat := bits fm.toNat 3 0
/-- fm.bfmt (R80). -/
def Fm.bfmt (fm : Word) : Nat := bits fm.toNat 7 4
/-- fm.cfmt (R80). -/
def Fm.cfmt (fm : Word) : Nat := bits fm.toNat 11 8
/-- fm.rm (R80). -/
def Fm.rm (fm : Word) : Nat := bits fm.toNat 13 12
/-- fm.sat (R80). -/
def Fm.sat (fm : Word) : Bool := fm.getLsbD 14
/-- fm.ftz (R80). -/
def Fm.ftz (fm : Word) : Bool := fm.getLsbD 15
/-- fm.scl (R80). -/
def Fm.scl (fm : Word) : Nat := bits fm.toNat 17 16

end Sys2Proof.Machine
end

