-- ==== Sys2Proof/Machine/AtomOps.lean ====
section
/-! DEFINITION. What an atomic or reduction leaves in its word (R224 to R226). -/
namespace Sys2Proof.Machine

/-- The lesser of two words, signed. -/
def signedMin {w : Nat} (a b : BitVec w) : BitVec w := if a.toInt ≤ b.toInt then a else b
/-- The greater of two words, signed. -/
def signedMax {w : Nat} (a b : BitVec w) : BitVec w := if a.toInt ≤ b.toInt then b else a

/-- f(old, x) at the width of the access (R224, R226). A compare and swap is told with its own operands. -/
def atomValue {w : Nat} (op : AtomOp) (old x : BitVec w) : BitVec w :=
  match op with
  | .add => old + x
  | .min => signedMin old x
  | .max => signedMax old x
  | .and => old &&& x
  | .or => old ||| x
  | .xor => old ^^^ x
  | .xchg | .cas => x
  | .fadd =>
    let f (v : BitVec w) : Val := decode32 false (BitVec.setWidth 32 v)
    BitVec.setWidth w (encode32 (addVal 0 (f old) (f x)))

/-- The bytes of an atomic's word. -/
def Atom.bytes (a : Atom) : Nat := if a.wide then 8 else 4

/-- The word that a lane leaves in memory, from the one it found (R224, R225). -/
def Atom.result (a : Atom) (l : AtomLane) (old : Nat) : Nat :=
  if a.op = .cas then if old = l.compare.toNat % 2 ^ (8 * a.bytes) then l.operand.toNat % 2 ^ (8 * a.bytes) else old
  else if a.wide then (atomValue a.op (BitVec.ofNat 64 old) l.operand).toNat
  else (atomValue a.op (BitVec.ofNat 32 old) (BitVec.setWidth 32 l.operand)).toNat

/-- The home slices apply every lane of an atomic that is left, in ascending lane order (R224). -/
def Atom.applyAll (a : Atom) (m : Memory) : Memory :=
  a.todo.foldl (fun (m : Memory) (l : AtomLane) => m.writeLE l.pa a.bytes (a.result l (m.readLE l.pa a.bytes))) m

/-- An atomic put into a list in ascending order of issue. -/
def insertAtom (a : Atom) : List Atom → List Atom
  | [] => [a]
  | b :: bs => if a.id ≤ b.id then a :: b :: bs else b :: insertAtom a bs

end Sys2Proof.Machine
end

