-- ==== Sys2Proof/Machine/Translate.lean ====
section
/-! DEFINITION. Contexts, translation, and the code that a team fetches (R14, R32, R171, R296, R359 to R368, R401). -/
namespace Sys2Proof.Machine

/-- A field of a context-table entry: n bytes from an offset (R362). -/
def State.ctxField (s : State) (ctx off n : Nat) : Nat := s.ctxTable.readLE (64 * ctx + off) n
/-- PTROOT. -/
def State.ptRoot (s : State) (ctx : Nat) : Nat := s.ctxField ctx 0 8
/-- TTBASE. -/
def State.ttBase (s : State) (ctx : Nat) : Nat := s.ctxField ctx 8 8
/-- TTLEN. -/
def State.ttLen (s : State) (ctx : Nat) : Nat := s.ctxField ctx 16 4
/-- The address-space identifier of a context. -/
def State.asid (s : State) (ctx : Nat) : Nat := bits (s.ctxField ctx 20 2) 11 0
/-- LIVE. -/
def State.ctxLive (s : State) (ctx : Nat) : Bool := bit (s.ctxField ctx 20 2) 15
/-- DIES. -/
def State.ctxDies (s : State) (ctx : Nat) : Nat := bits (s.ctxField ctx 22 1) 3 0
/-- BRPAGE. -/
def State.brPage (s : State) (ctx : Nat) : Nat := s.ctxField ctx 24 8
/-- RSLIST. -/
def State.rsList (s : State) (ctx : Nat) : Nat := s.ctxField ctx 32 8
/-- UHAND. -/
def State.uhand (s : State) (ctx : Nat) : Nat := s.ctxField ctx 40 8
/-- POOL. -/
def State.pool (s : State) (ctx : Nat) : Nat := s.ctxField ctx 48 8
/-- POOLLEN, in bytes. -/
def State.poolLen (s : State) (ctx : Nat) : Nat := 65536 * s.ctxField ctx 56 4

/-- What an access needs of its page (R365): the bit of R, W or X in the leaf's permissions. -/
inductive Need where
  | read | write | exec
  deriving DecidableEq, Repr

/-- The permission is among the leaf's [4:2] bits R, W, X. -/
def Need.allowed (n : Need) (perm : BitVec 3) : Bool :=
  match n with
  | .read => perm.getLsbD 0
  | .write => perm.getLsbD 1
  | .exec => perm.getLsbD 2

/-- The permission's bit among R, W and X. -/
def Need.mask : Need → BitVec 3
  | .read => 1
  | .write => 2
  | .exec => 4

/-- A fault of a translation (R386). -/
def Detail.translation (d : Detail) : Bool := d.walk.isSome

/-- The levels that a walk still has to read: the lowest index bit, how many index bits, and whether a leaf is
forbidden or required there. -/
def walkLevels : List (Nat × Nat × Bool × Bool) :=
  [(39, 9, false, true), (30, 9, true, true), (21, 9, true, true), (16, 5, true, false)]

/-- The walk of R365 from a table: the leaf's page (virtual base, size, physical base, permissions), or PAGE or PROT. -/
def walkFrom (s : State) (asid va table : Nat) : List (Nat × Nat × Bool × Bool) → Except Cause Tlb
  | [] => .error .page
  | (lo, n, mayLeaf, mayNext) :: rest =>
    let e := s.mem.readLE (table + 8 * ((va / 2 ^ lo) % 2 ^ n)) 8
    let pa := bits e 51 8 * 256
    let leaf := bit e 1
    if ¬ bit e 0 then .error .page
    else if bits e 63 52 ≠ 0 ∨ bits e 7 5 ≠ 0 then .error .prot
    else if leaf then
      if ¬ mayLeaf ∨ pa % 2 ^ lo ≠ 0 then .error .prot
      else .ok { asid := asid, va := va / 2 ^ lo * 2 ^ lo, size := 2 ^ lo, pa := pa, perm := BitVec.ofNat 3 (bits e 4 2) }
    else if ¬ mayNext then .error .prot
    else walkFrom s asid va pa rest

/-- The walk of a context's tables (R365). -/
def State.walk (s : State) (ctx va : Nat) : Except Cause Tlb := walkFrom s (s.asid ctx) va (s.ptRoot ctx) walkLevels

/-- A translation covers an address under an identifier. -/
def Tlb.covers (e : Tlb) (asid va : Nat) : Bool := e.asid == asid && decide (e.va ≤ va ∧ va < e.va + e.size)

/-- The translation of an address that a TLB, or the front core's pins, hold. -/
def State.heldAt (s : State) (p : TlbPlace) (asid va : Nat) : Option Tlb :=
  (s.tlbs.find? fun e => e.1 == p && e.2.covers asid va).map (·.2)

/-- Where the translation of an access is looked for, in turn: in the TLB of its pipe and of its core, where it has them, and
among the pins (R366, R367). -/
def tlbPlaces (pipe : Option Nat) : List TlbPlace :=
  (match pipe with | some n => [.pipe n, .core (n / 4)] | none => []) ++ [.pins]

/-- A held translation that covers an address (R366). -/
def State.tlbHit (s : State) (pipe : Option Nat) (ctx va : Nat) : Option Tlb :=
  (tlbPlaces pipe).findSome? fun p => s.heldAt p (s.asid ctx) va

/-- The translation that an access of a pipe uses, or of an agent that has no TLB: a held one, or a walk's (R362, R366). -/
def State.lookupOn (s : State) (pipe : Option Nat) (ctx va : Nat) : Except Cause Tlb :=
  match s.tlbHit pipe ctx va with
  | some e => .ok e
  | none => s.walk ctx va

/-- The physical address of an access of a pipe, or the fault it meets (R171, R365). -/
def State.translateOn (s : State) (pipe : Option Nat) (ctx va : Nat) (n : Need) : Except Cause Nat :=
  if va ≥ 2 ^ 48 then .error .prot
  else match s.lookupOn pipe ctx va with
    | .error c => .error c
    | .ok e => if n.allowed e.perm then .ok (e.pa + (va - e.va)) else .error .prot

/-- The pipe that a team issues on, by 4 × core + pipe (R260). -/
def Team.pipe (t : Team) : Nat := 4 * t.core + t.slot % 4

/-- The pipe of the team that acts in this step; none where another agent acts. -/
def State.pipe? (s : State) : Option Nat := (s.teams.find? s.cur).map (·.pipe)

/-- The translation that an access of this step uses. -/
def State.lookup (s : State) (ctx va : Nat) : Except Cause Tlb := s.lookupOn s.pipe? ctx va

/-- The physical address of an access of this step, or the fault it meets (R171, R365). -/
def State.translate (s : State) (ctx va : Nat) (n : Need) : Except Cause Nat := s.translateOn s.pipe? ctx va n

/-- The bytes of a team's context image (R390): the areas to 8192, its tiles, its registers, and the invert state. -/
def imageBytes (lanes tiles : Nat) : Nat := 8192 + 4096 * tiles + 256 * lanes + 20 * lanes

/-- An address lies in the context image of a placed team: no instruction reaches it (R179). -/
def State.inImage (s : State) (ctx va : Nat) : Bool :=
  s.teams.any fun e => e.2.imageVa != 0 && (s.launchOf e.2.launch).ctx == ctx
    && (decide (e.2.status = TeamStatus.live) || decide (e.2.status = TeamStatus.saved))
    && decide (e.2.imageVa ≤ va ∧ va < e.2.imageVa + imageBytes e.2.tsize e.2.ntile)

/-- The fault of an access of a pipe, if it meets one. An address of a context image is PROT (log 66). -/
def State.accessFaultOn (s : State) (pipe : Option Nat) (ctx va : Nat) (n : Need) : Option Cause :=
  if s.inImage ctx va then some .prot
  else match s.translateOn pipe ctx va n with
    | .ok _ => none
    | .error c => some c

/-- The fault of an access of this step. -/
def State.accessFault (s : State) (ctx va : Nat) (n : Need) : Option Cause := s.accessFaultOn s.pipe? ctx va n

/-- A list from which, where it holds a number of entries of one kind or more, one of them is taken. -/
def makeRoom {α : Type} (cap n : Nat) (mine : α → Bool) (xs : List α) : List α :=
  let k := (xs.filter mine).length
  if k < cap then xs
  else xs.eraseIdx (((List.range xs.length).filter fun i => (xs[i]?).any mine).getD (Config.victim n % k) 0)

/-- A TLB takes a translation (R366). -/
def State.keepTlb (s : State) (p : TlbPlace) (cap : Nat) (e : Tlb) : State :=
  { s with tlbs := (p, e) :: makeRoom cap s.fresh (·.1 == p) s.tlbs, fresh := s.fresh + 1 }

/-- A pipe's TLB keeps the translation of an address for later accesses: from the core's TLB, which a walk fills (R366). -/
def State.cacheOn (s : State) (pipe ctx va : Nat) : State :=
  let core : TlbPlace := .core (pipe / 4)
  match s.heldAt (.pipe pipe) (s.asid ctx) va, s.heldAt core (s.asid ctx) va, s.lookupOn none ctx va with
  | some _, _, _ => s
  | none, some e, _ => s.keepTlb (.pipe pipe) 64 e
  | none, none, .ok e => (s.keepTlb core 2048 e).keepTlb (.pipe pipe) 64 e
  | none, none, .error _ => s

/-- The TLBs of the team that acts keep the translation of an address (R366). -/
def State.cacheVa (s : State) (ctx va : Nat) : State :=
  match s.pipe? with
  | some n => s.cacheOn n ctx va
  | none => s

/-- The pages of a range that a live launch pins hold an address (R367). -/
def Piece.pagesHold (p : Piece) (va : Nat) : Bool := decide (p.va / 65536 ≤ va / 65536 ∧ 65536 * (va / 65536) < p.va + p.bytes)

/-- An address lies in a live launch's pinned pages in this context (R367). -/
def State.pinned (s : State) (ctx va : Nat) : Bool :=
  s.launches.any fun e => e.2.phase == .live && e.2.ctx == ctx && e.2.pins.any (·.pagesHold va)

/-- A mapped stash range pins its pages until it is unmapped or its block retires (R211). -/
def State.mapPinned (s : State) (ctx va : Nat) : Bool :=
  s.blocks.any fun b => !b.2.retired && (s.launchOf b.2.launch).ctx == ctx
    && b.2.maps.any fun m => m.pages.any fun p => p.page == va / 65536

/-- The front core pins the translation of a page (R367): as the tables give it at that moment. -/
def State.pinVa (s : State) (ctx va : Nat) : State :=
  match s.heldAt .pins (s.asid ctx) va, s.walk ctx va with
  | none, .ok e => { s with tlbs := (.pins, e) :: s.tlbs }
  | _, _ => s

/-- It pins those of a range. -/
def State.pinRange (s : State) (ctx : Nat) (p : Piece) : State :=
  ((List.range (if p.bytes = 0 then 0 else (p.va % 65536 + p.bytes - 1) / 65536 + 1)).map fun i =>
    p.va / 65536 * 65536 + 65536 * i).foldl (fun (s : State) va => s.pinVa ctx va) s

/-- Contexts that carry an identifier. -/
def State.ctxOfAsid (s : State) (a : Nat) : Option Nat :=
  (List.range 64).find? fun c => s.ctxLive c && s.asid c == a

/-- An invalidation drops this translation: it is not pinned, and it belongs to the target (R368). -/
def State.drops (s : State) (asid : Nat) (page : Option Nat) (e : Tlb) : Bool :=
  e.asid == asid &&
    (match page with | none => true | some va => decide (e.va ≤ va ∧ va < e.va + e.size)) &&
    !(match s.ctxOfAsid asid with
      | none => false
      | some c => (List.range (e.size / 65536)).any fun i => s.pinned c (e.va + 65536 * i) || s.mapPinned c (e.va + 65536 * i))

/-- An L1 instruction line, which is virtually tagged, as a translation that an invalidation of its pages drops (R12, R368). -/
def ICacheLine.tag (l : ICacheLine) : Tlb := { asid := l.asid, va := l.va / 65536 * 65536, size := 65536, pa := 0, perm := 0 }

/-- The pins that no live launch asks for any more are given up (R367). -/
def State.dropPins (s : State) : State :=
  { s with tlbs := s.tlbs.filter fun e => e.1 != .pins || match s.ctxOfAsid e.2.asid with
      | none => false
      | some c => (List.range (e.2.size / 65536)).any fun i => s.pinned c (e.2.va + 65536 * i) }

/-- Pins on pages of a context are lifted (R375): every translation of them that was kept for a pin goes, but for those that
another pin keeps. -/
def State.liftPins (s : State) (ctx : Nat) (lifted : Nat → Bool) : State :=
  let on (e : Tlb) (f : Nat → Bool) : Bool := (List.range (e.size / 65536)).any fun i => f (e.va + 65536 * i)
  { s.dropPins with tlbs := s.dropPins.tlbs.filter fun e =>
      e.2.asid != s.asid ctx || !on e.2 lifted || on e.2 fun va => s.pinned ctx va || s.mapPinned ctx va }

/-- Drops the unpinned translations and the cached descriptors of a target (R177, R368), and the L1 instruction lines that were
fetched by such translations. -/
def State.invalidate (s : State) (asid : Nat) (page : Option Nat) : State :=
  { s with tlbs := s.tlbs.filter fun e => !s.drops asid page e.2,
           icache := s.icache.filter fun l => !s.drops asid page l.tag,
           descs := s.descs.filter fun d => s.asid d.ctx != asid }

/-- A translation is forgotten where it is held (R366). -/
def State.forgetTlb (s : State) (p : TlbPlace) (asid va : Nat) : State :=
  { s with tlbs := s.tlbs.filter fun e => !(e.1 == p && e.2.covers asid va) }

/-- The translations of an address of the context are dropped wherever they are held. -/
def State.forgetVa (s : State) (ctx va : Nat) : State :=
  { s with tlbs := s.tlbs.filter fun e => !e.2.covers (s.asid ctx) va }

/-- n bytes of virtual memory as the home slices order them, if every byte can be reached. -/
def State.readVirt (s : State) (ctx va n : Nat) : Option (List Byte) :=
  (List.range n).mapM fun i => match s.translate ctx (va + i) .read with
    | .ok pa => some (s.mem.read pa)
    | .error _ => none

/-- A little-endian value of n bytes of virtual memory. -/
def State.readVirtLE (s : State) (ctx va n : Nat) : Option Nat := (s.readVirt ctx va n).map ofBytesLE

/-- Writes bytes to virtual memory through the home slices, if every byte can be reached for writing. -/
def State.writeVirt (s : State) (ctx va : Nat) (bs : List Byte) : Option State :=
  ((List.range bs.length).mapM fun i => match s.translate ctx (va + i) .write with
    | .ok pa => some pa
    | .error _ => none).map fun (pas : List Nat) =>
      { s with mem := (pas.zip bs).foldl (fun (m : Memory) (p : Nat × Byte) => m.write p.1 p.2) s.mem }

/-! Code. -/

/-- The registered image of a context whose code holds an address (R32, R378). -/
def State.imageAt (s : State) (ctx va : Nat) : Option Image :=
  s.images.find? fun m => m.ctx == ctx && decide (m.codeVa ≤ va ∧ va < m.codeVa + 4 * m.codeWords)

/-- An image by its handle. -/
def State.imageOf (s : State) (ctx handle : Nat) : Option Image :=
  s.images.find? fun m => m.ctx == ctx && m.handle == handle

/-- An address is a marked clause header of an image of the context (R32). -/
def State.isHeader (s : State) (ctx va : Nat) : Bool :=
  match s.imageAt ctx va with
  | none => false
  | some m => va % 4 == 0 && m.cmap.testBit ((va - m.codeVa) / 4)

/-- The kernel of a launch. -/
def State.kernelOf (s : State) (l : Launch) : Kernel :=
  match s.imageOf l.ctx l.image with
  | none => Kernel.none
  | some m => m.kernels.getD l.kernel Kernel.none

/-- Teams that a block's reservation holds: those placed at dispatch and the spawns they may make (R267). -/
def Kernel.teams (k : Kernel) : Nat := k.tpb * (1 + k.spawn)

/-- The context of the issuing team. -/
def State.ctx (s : State) : Nat := s.launch.ctx
/-- The kernel of the issuing team's launch. -/
def State.kernel (s : State) : Kernel := s.kernelOf s.launch

/-- The 128-byte line of an L1 instruction cache that holds an address (R401). -/
def State.codeLine (s : State) (core asid va : Nat) : Option ICacheLine :=
  s.icache.find? fun l => l.core == core && l.asid == asid && l.va == va / 128 * 128

/-- The word of code that a core sees at an address: from its L1 instruction cache, or from memory (R401, R255). -/
def State.codeWord (s : State) (core ctx va : Nat) : Option Word :=
  match s.codeLine core (s.asid ctx) va with
  | some l => some (l.words.getD (va % 128 / 4) 0)
  | none => match s.translate ctx va .exec with
    | .ok pa => some (BitVec.ofNat 32 (s.mem.readLE pa 4))
    | .error _ => none

/-- The word of code that the issuing team sees at an address: from its pipe's loop buffer (R296), or as its core
sees it. -/
def State.code (s : State) (va : Nat) : Option Word :=
  let other := s.codeWord s.team.core s.ctx va
  match s.loopBuffers.find? s.team.pipe with
  | some b => if b.team = s.cur then (b.words.find? va).orElse fun _ => other else other
  | none => other

/-- The header of the clause that holds an address: the nearest marked header at or before it, at most 15 words back
(R26, R32). -/
def State.clauseAt (s : State) (ctx va : Nat) : Option Nat :=
  ((List.range 16).map fun i => va - 4 * i).find? fun h => decide (h ≤ va) && s.isHeader ctx h

/-- The number of words N of a clause, from its header's word. -/
def headerN (w : Word) : Nat := bits w.toNat 31 28

/-- The header after the clause that holds an address (R289, R380): 1 + N words on, or, when N is 0, the next marked
header. -/
def State.nextHeader (s : State) (va : Nat) : Nat :=
  match s.clauseAt s.ctx va with
  | none => va + 4
  | some h =>
    match s.code h with
    | none => va + 4
    | some w =>
      if headerN w ≠ 0 then h + 4 * (1 + headerN w)
      else match ((List.range 64).map fun i => h + 4 + 4 * i).find? (s.isHeader s.ctx ·) with
        | some h' => h'
        | none => h + 4

/-- Drops a core's L1 instruction lines of an identifier (R231). -/
def State.dropCode (s : State) (core asid : Nat) : State :=
  { s with icache := s.icache.filter fun l => !(l.core == core && l.asid == asid) }

/-- The 32 words of a line of code, as memory holds them. -/
def State.codeBytes (s : State) (pa : Nat) : List Word :=
  (List.range 32).map fun i => BitVec.ofNat 32 (s.mem.readLE (pa + 4 * i) 4)

/-- The shared instruction level of a die holds a line (R14): 16384 lines of 128 bytes. It takes one that it lacks from
memory. -/
def State.fillLevel (s : State) (die pa : Nat) : State :=
  if s.codeLevel.any fun l => l.die == die && l.pa == pa then s
  else
    { s with codeLevel := ⟨die, pa, s.codeBytes pa⟩ :: makeRoom 16384 s.fresh (·.die == die) s.codeLevel, fresh := s.fresh + 1 }

/-- The words of a line that a die's shared instruction level holds. -/
def State.levelWords (s : State) (die pa : Nat) : List Word :=
  ((s.codeLevel.find? fun l => l.die == die && l.pa == pa).map (·.words)).getD []

/-- A die's shared instruction level loses the lines that memory no longer bears out, so that it gives no old bytes to the fetches
after an ifen of one of the die's cores (R231), nor to a push (R21). -/
def State.refreshLevel (s : State) (die : Nat) : State :=
  { s with codeLevel := s.codeLevel.filter fun l => l.die != die || l.words == s.codeBytes l.pa }

/-- Puts the line of an address into a core's L1 instruction cache, which holds 512 lines, through its die's shared instruction
level (R12, R14, R21, R401). -/
def State.fillCode (s : State) (core : Nat) (pipe : Option Nat) (ctx va : Nat) : State :=
  let base := va / 128 * 128
  match s.translateOn pipe ctx base .exec with
  | .error _ => s
  | .ok pa =>
    let s1 := s.fillLevel (core / 48) pa
    let line : ICacheLine := { core := core, asid := s.asid ctx, va := base, words := s1.levelWords (core / 48) pa }
    let others := s1.icache.filter fun l => !(l.core == core && l.asid == s.asid ctx && l.va == base)
    { s1 with icache := line :: makeRoom 512 s1.fresh (·.core == core) others, fresh := s1.fresh + 1 }

end Sys2Proof.Machine
end

