-- ==== Sys2Proof/Machine/Tensor.lean ====
section
/-! DEFINITION. Tensors: descriptors (R175 to R177), tile geometry (R172, R173), home slices (R174), press blocks (R192
to R197), and recipe records with the pins they cause (R337 to R341). -/
namespace Sys2Proof.Machine

/-- A tile's coordinates as s61 holds them (R381). -/
def TileName.word (n : TileName) : DWord := BitVec.ofNat 64 (n.tensor * 2 ^ 32 + n.row * 2 ^ 16 + n.col)

/-- Bits [hi:lo] of the 512 bits of a descriptor held as eight doublewords. -/
def descBits (ws : List DWord) (hi lo : Nat) : Nat :=
  bits (ws.foldr (fun (x : DWord) acc => x.toNat + 2 ^ 64 * acc) 0) hi lo

/-- The descriptor that eight doublewords hold; none when it is invalid (R176, R339). -/
def parseDesc (ws : List DWord) : Option Desc :=
  let f := descBits ws
  let fmt := f 199 192
  let w := codeWidth (BitVec.ofNat 4 fmt)
  let tw := 256 / w
  let d : Desc :=
    { base := f 63 0, rows := f 95 64, cols := f 127 96, pitch := f 191 128, fmt := fmt, w := w, tw := tw,
      compressed := f 208 208 = 1, recomputable := f 209 209 = 1, resident := f 210 210 = 1, readonly := f 211 211 = 1,
      index := f 319 256, cbase := f 383 320, recipe := f 447 384 }
  let stored := !d.compressed && !d.recomputable
  if f 212 212 = 0 ∨ f 511 448 ≠ 0 ∨ f 255 224 ≠ 0 ∨ f 215 213 ≠ 0 ∨ f 207 200 ≠ 0 then none
  else if 10 < fmt ∨ 2 ^ f 223 216 ≠ tw ∨ d.rows = 0 ∨ 2 ^ 20 < d.rows ∨ d.cols = 0 ∨ 65536 * tw < d.cols then none
  else if d.compressed && d.recomputable ∨ d.compressed && !d.readonly then none
  else if stored ∧ (d.base % 32 ≠ 0 ∨ d.pitch % 32 ≠ 0 ∨ d.pitch < ceilDiv (d.cols * w) 256 * 32) then none
  else if ¬ stored ∧ (d.base ≠ 0 ∨ d.pitch ≠ 0) then none
  else if d.recomputable ∧ (d.recipe = 0 ∨ d.recipe % 64 ≠ 0) ∨ ¬ d.recomputable ∧ d.recipe ≠ 0 then none
  else if d.compressed ∧ (d.cbase % 64 ≠ 0 ∨ d.index % 4 ≠ 0) ∨ ¬ d.compressed ∧ (d.cbase ≠ 0 ∨ d.index ≠ 0) then none
  else some d

/-- What naming a tensor finds (R176). -/
inductive DescRead where
  /-- The table's page cannot be read, so the launch ends as R367 gives. -/
  | unmapped
  /-- No valid descriptor: PROT. -/
  | invalid
  | ok (d : Desc)
  deriving DecidableEq, Repr

/-- The doublewords of a descriptor: the cached ones, or those in memory (R176, R177). -/
def State.descWords (s : State) (ctx tensor : Nat) : Option (List DWord) :=
  match s.descs.find? fun d => d.ctx == ctx && d.tensor == tensor with
  | some d => some d.words
  | none => (List.range 8).mapM fun i =>
      (s.readVirtLE ctx (s.ttBase ctx + 64 * tensor + 8 * i) 8).map (BitVec.ofNat 64)

/-- The descriptor of a tensor. -/
def State.desc (s : State) (ctx tensor : Nat) : DescRead :=
  if tensor = 0 ∨ s.ttLen ctx ≤ tensor then .invalid
  else match s.descWords ctx tensor with
    | none => .unmapped
    | some ws => match parseDesc ws with | none => .invalid | some d => .ok d

/-- Keeps a descriptor that has been read (R177). -/
def State.cacheDesc (s : State) (ctx tensor : Nat) : State :=
  if s.descs.any fun d => d.ctx == ctx && d.tensor == tensor then s
  else match s.descWords ctx tensor with
    | none => s
    | some ws => { s with descs := { ctx := ctx, tensor := tensor, words := ws } :: s.descs }

/-- Tile columns of a tensor. -/
def Desc.tileCols (d : Desc) : Nat := ceilDiv d.cols d.tw
/-- A tile holds some element of the tensor (R173). -/
def Desc.hasTile (d : Desc) (row col : Nat) : Bool := decide (16 * row < d.rows ∧ d.tw * col < d.cols)
/-- The number of a tile in row-major order (R192, R337). -/
def Desc.tileNumber (d : Desc) (row col : Nat) : Nat := row * d.tileCols + col

/-- A line with the elements at or beyond ROWS and COLS zero (R173). -/
def Desc.clip (d : Desc) (row col : Nat) (line : List Byte) : List Byte :=
  let cols := min d.tw (d.cols - d.tw * col)
  (List.range 512).map fun q =>
    if d.rows ≤ 16 * row + q / 32 then 0
    else
      let keep := min 8 (cols * d.w - 8 * (q % 32))
      BitVec.ofNat 8 ((line.getD q 0).toNat % 2 ^ keep)

/-- The virtual addresses of a tile's row segments within ROWS (R173): the row and the address. -/
def Desc.segments (d : Desc) (row col : Nat) : List (Nat × Nat) :=
  ((List.range 16).filter fun i => decide (16 * row + i < d.rows)).map fun i =>
    (i, d.base + (16 * row + i) * d.pitch + 32 * col)

/-- HomeSlice from its key (R174): the 7-bit fields folded. -/
def foldKey : Nat → Nat → Nat
  | 0, _ => 0
  | n + 1, key => (key % 128) ^^^ foldKey n (key / 128)

/-- The home slice of a linear line (R174). -/
def linearHome (pa : Nat) : Nat := foldKey 8 (pa / 512)
/-- The home slice of a tile line (R174). -/
def TileName.home (n : TileName) : Nat := foldKey 8 (n.tensor * 2 ^ 32 + n.row * 2 ^ 16 + n.col)
/-- The base die of a physical address (R174). -/
def homeDie (pa : Nat) : Nat := linearHome pa / 32
/-- The compute die of a core: 48 cores to a die (R11). -/
def coreDie (core : Nat) : Nat := core / 48

/-! Lines and words. -/

/-- 128 words from 512 bytes. -/
def lineWords (bs : List Byte) : List Word :=
  (List.range 128).map fun i => BitVec.ofNat 32 (ofBytesLE ((bs.drop (4 * i)).take 4))
/-- 512 bytes from 128 words. -/
def lineBytes (ws : List Word) : List Byte := ws.flatMap fun w => toBytesLE 4 w.toNat

/-! Press blocks. -/

/-- One bit of the CRC-32C of R193. -/
def crcBit (c : Nat) : Nat := if c % 2 = 1 then (c / 2) ^^^ 0x82F63B78 else c / 2
/-- One byte of it. -/
def crcByte (c : Nat) (b : Byte) : Nat := (List.range 8).foldl (fun c _ => crcBit c) (c ^^^ b.toNat)
/-- CRC-32C (R193). -/
def crc32c (bs : List Byte) : Nat := bs.foldl crcByte 0xFFFFFFFF ^^^ 0xFFFFFFFF

/-- The line of the codes of a tile's elements, w bits each (R85, R194). -/
def packCodes (w : Nat) (codes : List Nat) : List Byte :=
  toBytesLE 512 (codes.foldr (fun c acc => c + 2 ^ w * acc) 0)

/-- The i-th field of w bits of a byte string (R85). -/
def fieldAt (n w i : Nat) : Nat := (n / 2 ^ (w * i)) % 2 ^ w

/-- The codes of the zero-bitmap method: the elements whose bit is set take the next packed one. -/
def bitmapCodes (bitmap packed w : Nat) : Nat → Nat → Nat → List Nat
  | 0, _, _ => []
  | n + 1, e, next =>
    if bitmap.testBit e then fieldAt packed w next :: bitmapCodes bitmap packed w n (e + 1) (next + 1)
    else 0 :: bitmapCodes bitmap packed w n (e + 1) next

/-- Expands a payload (R194), or answers the reason 6 or 7 of R195. -/
def expandPayload (method fmt w : Nat) (pl : List Byte) : Except Nat (List Byte) :=
  let e := 4096 / w
  let n := ofBytesLE pl
  match method with
  | 0 => if pl.length = 512 then .ok pl else .error 7
  | 1 =>
    let bitmap := n % 2 ^ e
    let p := ((List.range e).filter fun i => bitmap.testBit i).length
    if pl.length ≠ e / 8 + ceilDiv (p * w) 8 then .error 7
    else .ok (packCodes w (bitmapCodes bitmap (n / 2 ^ e) w e 0 0))
  | 2 =>
    if pl.any fun b => 242 < b.toNat then .error 6
    else if pl.length ≠ 410 ∨ 27 ≤ (pl.getD 409 0).toNat then .error 7
    else .ok (packCodes w ((List.range e).map fun i =>
      let digit := ((pl.getD (i / 5) 0).toNat / 3 ^ (i % 5)) % 3
      if digit = 2 then 3 else digit))
  | _ =>
    let m := if fmt = 3 then 3 else 2
    let d := (pl.getD 0 0).toNat
    let entry (i : Nat) : Nat := (pl.getD (1 + i) 0).toNat
    let idx := n / 2 ^ (8 * (1 + d))
    let man := n / 2 ^ (8 * (257 + d))
    if d = 0 ∨ 16 < d ∨ pl.length ≠ 1 + d + 256 + 64 * m then .error 7
    else if (List.range d).any fun i => decide (2 ^ (8 - m) ≤ entry i) then .error 7
    else if (List.range e).any fun i => decide (d ≤ fieldAt idx 4 i) then .error 7
    else .ok (packCodes w ((List.range e).map fun i => entry (fieldAt idx 4 i) * 2 ^ m + fieldAt man m i))

/-- A method admits a format (R194). -/
def methodAdmits (method fmt : Nat) : Bool :=
  match method with
  | 2 => fmt == 9
  | 3 => fmt == 3 || fmt == 4
  | _ => true

/-- A fault that a fill meets. -/
abbrev FillFault := Cause × Detail

/-- Reads n bytes for a fill, or the fault of the first byte that cannot be reached (R204, checks 4 and 5; log 66) or that is
poisoned (R393). -/
def State.fillRead (s : State) (ctx va n : Nat) : Except FillFault (List Byte) :=
  match (List.range n).findSome? fun i => match s.accessFault ctx (va + i) .read, s.translate ctx (va + i) .read with
      | some c, _ | none, .error c => some (c, va + i)
      | none, .ok pa => if s.poisoned.contains (pa / 512) then some (.mchk, va + i) else none with
  | some (.mchk, a) => .error (.mchk, { addr := BitVec.ofNat 64 a, party := .machine })
  | some (c, a) => .error (c, { addr := BitVec.ofNat 64 a, walk := some (a, 1) })
  | none => .ok ((s.readVirt ctx va n).getD [])

/-- The expanded line of a tile of a COMPRESSED tensor (R192 to R197), or the fault: WBLK with its reason, or the fault
of reading the index entry or the block. -/
def State.expandTile (s : State) (ctx : Nat) (d : Desc) (name : TileName) : Except FillFault (List Byte) :=
  let wblk (r : Nat) : Except FillFault (List Byte) :=
    .error (.wblk, { sub := BitVec.ofNat 8 r, tile := some name, addr := name.word })
  match s.fillRead ctx (d.index + 4 * d.tileNumber name.row name.col) 4 with
  | .error f => .error f
  | .ok ib =>
    let e := ofBytesLE ib
    let gcnt := bits e 3 0
    let at_ := d.cbase + 64 * bits e 31 4
    if gcnt = 0 then .ok (List.replicate 512 0)
    else if 8 < gcnt then wblk 1
    else match s.fillRead ctx at_ 8 with
      | .error f => .error f
      | .ok hb =>
        let h := ofBytesLE hb
        let method := bits h 7 0
        let plen := bits h 31 16
        if 3 < method then wblk 2
        else if bits h 15 8 ≠ d.fmt ∨ ¬ methodAdmits method d.fmt then wblk 3
        else if plen = 0 ∨ 512 < plen ∨ plen < 64 * (gcnt - 1) + 1 ∨ 64 * gcnt < plen then wblk 4
        else match s.fillRead ctx (at_ + 8) plen with
          | .error f => .error f
          | .ok pl =>
            if bits h 63 32 ≠ crc32c pl then wblk 5
            else match expandPayload method d.fmt d.w pl with
              | .error r => wblk r
              | .ok line => .ok (d.clip name.row name.col line)

/-- Where the block of a tile of a COMPRESSED tensor lies (R192, R193); none for a tile without a block. -/
def State.blockRange (s : State) (ctx : Nat) (d : Desc) (name : TileName) : Option Piece :=
  match s.readVirtLE ctx (d.index + 4 * d.tileNumber name.row name.col) 4 with
  | none => none
  | some e =>
    let at_ := d.cbase + 64 * bits e 31 4
    if bits e 3 0 = 0 then none else some { va := at_, bytes := 8 + bits ((s.readVirtLE ctx at_ 8).getD 0) 31 16 }

/-- The line of a tile of an ordinary tensor, gathered from its backing memory (R173). -/
def State.gatherTile (s : State) (ctx : Nat) (d : Desc) (name : TileName) : Except FillFault (List Byte) :=
  let segs := d.segments name.row name.col
  match segs.findSome? fun p => match s.fillRead ctx p.2 32 with | .error f => some f | .ok _ => none with
  | some f => .error f
  | none => .ok (d.clip name.row name.col ((List.range 16).flatMap fun i =>
      match segs.find? fun p => p.1 = i with
      | none => List.replicate 32 0
      | some p => (s.readVirt ctx p.2 32).getD (List.replicate 32 0)))

/-- The first fault of reaching a tile's backing pages (R204, checks 4 and 5). -/
def State.pageFault (s : State) (ctx : Nat) (d : Desc) (name : TileName) (n : Need) : Option FillFault :=
  if d.compressed ∨ d.recomputable then none
  else
    let bad := (d.segments name.row name.col).filterMap fun p =>
      (s.accessFault ctx p.2 n).map fun c => (c, p.2)
    let at_ (x : Cause × Nat) : FillFault := (x.1, { addr := BitVec.ofNat 64 x.2, walk := some (x.2, n.mask) })
    match bad.find? fun x => x.1 = .page with
    | some x => some (at_ x)
    | none => bad.head?.map at_

/-- Scatters a line to its backing memory (R173): bits beyond COLS and rows beyond ROWS stay. -/
def State.scatterTile (s : State) (ctx : Nat) (d : Desc) (name : TileName) (line : List Byte) : State :=
  let cols := min d.tw (d.cols - d.tw * name.col)
  (d.segments name.row name.col).foldl (fun (s : State) p =>
    match s.translate ctx p.2 .write with
    | .error _ => s
    | .ok pa => { s with mem := (List.range 32).foldl (fun m q =>
        let keep := min 8 (cols * d.w - 8 * q)
        let old := (m.read (pa + q)).toNat
        let new := (line.getD (32 * p.1 + q) 0).toNat
        m.write (pa + q) (BitVec.ofNat 8 (old / 2 ^ keep * 2 ^ keep + new % 2 ^ keep))) s.mem }) s

/-! Recipes. -/

/-- A source of a recipe (R338). -/
structure Source where
  tensor : Nat
  nc : Nat
  nr : Nat
  rr : Int
  rc : Int
  r0 : Int
  cr : Int
  cc : Int
  c0 : Int
  deriving DecidableEq, Repr

/-- A recipe record (R337). -/
structure Recipe where
  entry : Nat
  slen : Nat
  cyc : Nat
  nj : Nat
  depth : Nat
  blocks : Nat
  tiles : Nat
  stashKiB : Nat
  mat : Nat
  map : Nat
  cdepth : Nat
  sources : List Source
  deriving DecidableEq, Repr

/-- A source entry from its ten bytes. -/
def parseSource (bs : List Byte) : Source :=
  let t := ofBytesLE (bs.take 4)
  let sgn (i : Nat) : Int := (bs.getD i 0).toInt
  { tensor := bits t 19 0, nc := bits t 27 24 + 1, nr := bits t 23 20 + 1, rr := sgn 4, rc := sgn 5, r0 := sgn 6,
    cr := sgn 7, cc := sgn 8, c0 := sgn 9 }

/-- A recipe record from its 64 bytes; none when it is invalid (R339). Whether its sources name valid descriptors is
asked where a context is at hand. -/
def parseRecipe (self : Nat) (bs : List Byte) : Option Recipe :=
  let f (off n : Nat) : Nat := ofBytesLE ((bs.drop off).take n)
  let nsrc := f 17 1
  let ents := (List.range 3).map fun i => (bs.drop (20 + 10 * i)).take 10
  let res := f 18 1
  let r : Recipe :=
    { entry := f 0 6, slen := f 6 2, cyc := f 8 4, nj := f 12 4, depth := f 16 1, blocks := bits res 4 3 + 1,
      tiles := bits res 2 0, stashKiB := f 19 1, mat := f 50 6, map := f 56 6, cdepth := f 62 1,
      sources := (ents.take nsrc).map parseSource }
  if r.slen = 0 ∨ r.cyc = 0 ∨ r.depth = 0 ∨ 8 < r.depth ∨ 3 < nsrc ∨ 5 ≤ bits res 7 5 * 8 + r.tiles ∨ 32 < r.stashKiB
      ∨ r.mat % 512 ≠ 0 ∨ r.map % 8 ≠ 0 ∨ (r.mat = 0 ∧ r.map ≠ 0) ∨ 64 < r.cdepth ∨ f 63 1 ≠ 0 then none
  else if (ents.drop nsrc).any fun e => e.any fun b => b != 0 then none
  else if (ents.take nsrc).any fun e =>
      let t := ofBytesLE (e.take 4)
      bits t 31 28 != 0 || bits t 19 0 == 0 || bits t 19 0 == self then none
  else some r

/-- The recipe record of a recomputable tensor, as memory holds it. -/
def State.recipe (s : State) (ctx tensor : Nat) (d : Desc) : Option Recipe :=
  (s.readVirt ctx d.recipe 64).bind (parseRecipe tensor)

/-- A tile lies in the window of a source for an output tile (R338). -/
def Source.covers (x : Source) (row col : Nat) (n : TileName) : Bool :=
  let i : Int := (n.row : Int) - (x.rr * row + x.rc * col + x.r0)
  let j : Int := (n.col : Int) - (x.cr * row + x.cc * col + x.c0)
  n.tensor == x.tensor && decide (0 ≤ i ∧ i < x.nr ∧ 0 ≤ j ∧ j < x.nc)

/-- The sources of a recomputable tensor, and of its recomputable sources in turn (R341), with whether each is itself
recomputable. -/
def State.sourcesOf (s : State) (ctx : Nat) : Nat → Nat → List (Nat × Bool)
  | 0, _ => []
  | n + 1, x =>
    match s.desc ctx x with
    | .ok d => match s.recipe ctx x d with
      | none => []
      | some r => r.sources.flatMap fun y =>
          let rc := match s.desc ctx y.tensor with | .ok dy => dy.recomputable | _ => false
          (y.tensor, rc) :: (if rc then s.sourcesOf ctx n y.tensor else [])
    | _ => []

/-- The pinned sources of the tensors that live (R340, R341): context, tensor, recomputable. -/
def State.pinnedSources (s : State) : List (Nat × Nat × Bool) :=
  s.launches.flatMap fun e =>
    if e.2.phase = .live then
      e.2.priced.flatMap fun x => (s.sourcesOf e.2.ctx 8 x).map fun y => (e.2.ctx, y.1, y.2)
    else []

/-- A physical address lies on the page that maps a virtual address: 64 KiB, 2 MiB or 1 GiB (R171). -/
def State.onPageOf (s : State) (ctx va pa : Nat) : Bool :=
  match s.lookup ctx va with
  | .ok e => decide (e.pa ≤ pa ∧ pa < e.pa + e.size)
  | .error _ => false

/-- A physical address lies on a pinned page of an ordinary source (R341): a page that maps some of BASE to
BASE + ROWS × PITCH - 1. -/
def State.pinnedPa (s : State) (pa : Nat) : Bool :=
  s.pinnedSources.any fun x =>
    !x.2.2 && match s.desc x.1 x.2.1 with
      | .ok d =>
        if d.compressed then false
        else (List.range ((d.base % 65536 + d.rows * d.pitch + 65535) / 65536)).any fun i =>
          s.onPageOf x.1 (d.base / 65536 * 65536 + 65536 * i) pa
      | _ => false

/-- A tensor is a pinned source; the flag asks for the recomputable ones. -/
def State.pinnedTensor (s : State) (tensor : Nat) (recomputable : Bool) : Bool :=
  s.pinnedSources.any fun x => x.2.1 == tensor && x.2.2 == recomputable

/-- The first and the last address of the page that maps a virtual address (R171); where none does, of its 64 KiB. -/
def State.pageBounds (s : State) (ctx va : Nat) : Nat × Nat :=
  match s.lookup ctx va with
  | .ok e => (e.va, e.va + e.size - 1)
  | .error _ => (va / 65536 * 65536, va / 65536 * 65536 + 65535)

/-- The backing pages of the READONLY tensors of a context: the first and the last 64 KiB of each (R232). -/
def State.readonlyRanges (s : State) (ctx : Nat) : List (Nat × Nat) :=
  (List.range (s.ttLen ctx)).filterMap fun x => match s.desc ctx x with
    | .ok d => if d.readonly && !d.compressed && !d.recomputable
        then some ((s.pageBounds ctx d.base).1 / 65536,
                   (s.pageBounds ctx (d.base + d.rows * d.pitch - 1)).2 / 65536) else none
    | _ => none

/-- A virtual address lies on one of such pages (R204, check 5; R232). -/
def onPages (ranges : List (Nat × Nat)) (va : Nat) : Bool :=
  ranges.any fun r => decide (r.1 ≤ va / 65536 ∧ va / 65536 ≤ r.2)

/-- A virtual address lies on a backing page of a READONLY tensor of the context (R204, check 5; R232). -/
def State.readonlyPage (s : State) (ctx va : Nat) : Bool := onPages (s.readonlyRanges ctx) va

/-! Tile lines at their home slices. -/

/-- The record of a tile at its home slice. -/
def State.tileAt? (s : State) (n : TileName) : Option TileLine := s.tiles.find? fun x => x.name == n

/-- Puts a record of a tile. -/
def State.setTile (s : State) (x : TileLine) : State :=
  { s with tiles := x :: s.tiles.filter fun y => y.name != x.name }

/-- Takes a tile's record away. -/
def State.dropTile (s : State) (n : TileName) : State := { s with tiles := s.tiles.filter fun y => y.name != n }

/-- A line that the cache holds. -/
def State.tileLine (s : State) (n : TileName) : Option TileLine :=
  match s.tileAt? n with
  | some x => if x.state = .present then some x else none
  | none => none

/-! The map bit of a recomputable tile. -/

/-- The byte that holds a tile's map bit, and the bit (R337). -/
def Recipe.mapBit (r : Recipe) (d : Desc) (n : TileName) : Nat × Nat :=
  let t := d.tileNumber n.row n.col
  (r.map + t / 8, t % 8)

/-- The address of a tile's materialised copy (R337). -/
def Recipe.copyAt (r : Recipe) (d : Desc) (n : TileName) : Nat := r.mat + 512 * d.tileNumber n.row n.col

/-- The record of a recomputable tile; a tile without one is ABSENT (R342). -/
def State.rtile (s : State) (ctx : Nat) (n : TileName) : TileLine :=
  (s.tileAt? n).getD { ctx := ctx, name := n, state := .absent, map := false, mapRead := false, words := [],
                       dirty := false, lastUse := false, recomputable := true }

/-- The record with M known: read from the map bit at the first miss of a life (R337). None when the bitmap cannot be
read. -/
def State.withMap (s : State) (ctx : Nat) (d : Desc) (r : Recipe) (n : TileName) : Option TileLine :=
  let x := s.rtile ctx n
  if x.mapRead then some x
  else if r.mat = 0 then some { x with map := false, mapRead := true }
  else (s.readVirt ctx (r.mapBit d n).1 1).map fun bs =>
    { x with map := bit (bs.getD 0 0).toNat (r.mapBit d n).2, mapRead := true }

/-- The fault of what a form does beside a tile's line, where it reaches a context image (R179, log 66): the map bit that a store or
rdrop clears, and with `copy` the materialised copy that rmat writes. -/
def State.recipeFault (s : State) (ctx : Nat) (d : Desc) (n : TileName) (copy : Bool) : Option FillFault :=
  match if d.recomputable then s.recipe ctx n.tensor d else none with
  | none => none
  | some r =>
    if r.mat = 0 then none
    else ((r.mapBit d n).1 :: (if copy then (List.range 512).map (r.copyAt d n + ·) else [])).findSome? fun a =>
      if s.inImage ctx a then some (.prot, { addr := BitVec.ofNat 64 a }) else none

/-- The first fault of the memory behind a tile, for a read or a store of it. -/
def State.tileFault (s : State) (ctx : Nat) (d : Desc) (n : TileName) (need : Need) : Option FillFault :=
  (s.pageFault ctx d n need).or (if need = .write then s.recipeFault ctx d n false else none)

/-- M of a recomputable tile is not known to be set: the home slice has it as 0, or neither the record nor the bitmap can be
read. -/
def State.mapUnset (s : State) (ctx : Nat) (n : TileName) (d : Desc) : Bool :=
  ((s.recipe ctx n.tensor d).bind fun r => s.withMap ctx d r n).all fun x => !x.map

/-- A tile is ABSENT with M = 0, so that rmat has to rebrew it first (R342, R349). -/
def State.mustRebrew (s : State) (ctx : Nat) (n : TileName) (d : Desc) : Bool :=
  (s.rtile ctx n).state == .absent && s.mapUnset ctx n d

/-- Writes M through to the map bit (R337); the byte's other bits stay. -/
def State.writeMap (s : State) (ctx : Nat) (d : Desc) (r : Recipe) (n : TileName) (m : Bool) : Option State :=
  if r.mat = 0 then some s
  else
    let (a, i) := r.mapBit d n
    match s.readVirt ctx a 1 with
    | none => none
    | some bs =>
      let old := (bs.getD 0 0).toNat
      let new := if bit old i = m then old else if m then old + 2 ^ i else old - 2 ^ i
      s.writeVirt ctx a [BitVec.ofNat 8 new]

/-- Installs a stored line (R173, R208, R342): a recomputable tile becomes PRESENT with M cleared. None when the map bit
cannot be written. -/
def State.install (s : State) (ctx : Nat) (d : Desc) (n : TileName) (ws : List Word) : Option State :=
  let line := lineWords (d.clip n.row n.col (lineBytes ws))
  let x : TileLine := { ctx := ctx, name := n, state := .present, map := false, mapRead := d.recomputable, words := line,
                        dirty := !d.recomputable, lastUse := false, recomputable := d.recomputable, stored := d.recomputable }
  if d.recomputable then
    (s.recipe ctx n.tensor d).bind fun r => (s.writeMap ctx d r n false).map fun s1 => s1.setTile x
  else some (s.setTile x)

/-- What a store does as its home slice orders it, or its stash takes it (R189 to R191, R208, R236, R349). None where the tables
keep the device from a tile's record, map bit or materialised copy. -/
def Write.perform (w : Write) (s : State) : Option State :=
  let dropped (n : TileName) : State :=
    match s.tileLine n with | some y => s.setTile { y with state := .absent, words := [] } | none => s
  match w with
  | .lin pa data => some { s with mem := s.mem.writeBytes pa data }
  | .stash blk off data =>
    let b := s.blockOf blk
    some { s with blocks := s.blocks.set blk { b with stash := b.stash.writeBytes off data } }
  | .tile ctx n ws d => s.install ctx d n ws
  | .discard ctx n d =>
    if d.compressed then some (s.dropTile n)
    else if d.recomputable then some (dropped n)
    else s.install ctx d n (List.replicate 128 0)
  | .lastUse _ n d => some (match s.tileLine n with
    | some y => if d.resident then s else s.setTile { y with lastUse := true }
    | none => s)
  | .rmat ctx n d =>
    match s.tileLine n, s.recipe ctx n.tensor d with
    | some _, some r => (s.withMap ctx d r n).bind fun y =>
      if y.map then some s
      else (s.writeVirt ctx (r.copyAt d n) (lineBytes y.words)).bind fun s1 =>
        (s1.writeMap ctx d r n true).map fun s2 => s2.setTile { y with map := true }
    | none, some r => some (match (s.withMap ctx d r n).filter (·.map), s.fillRead ctx (r.copyAt d n) 512 with
      | some y, .ok bs => s.setTile { y with state := .present, stored := false, words := lineWords (d.clip n.row n.col bs) }
      | _, _ => s)
    | _, none => none
  | .rdrop ctx n d =>
    (s.recipe ctx n.tensor d).bind fun r => (s.writeMap ctx d r n false).map fun s1 =>
      s1.setTile { s1.rtile ctx n with state := .absent, map := false, mapRead := true, words := [] }

end Sys2Proof.Machine
end

