-- ==== Sys2Proof/Machine/Records.lean ====
section
/-! DEFINITION. Breach records, completion words and the end of a launch (R328 to R333, R281, R384, R411). -/
namespace Sys2Proof.Machine

/-- The code of a cause (R331, R382). -/
def Cause.code : Cause → BitVec 8
  | .illegal => 0x01 | .priv => 0x02 | .hazard => 0x03 | .regblk => 0x04 | .fmt => 0x05 | .align => 0x06
  | .trip => 0x08 | .depth => 0x09 | .wait => 0x0A | .spawn => 0x0B | .launch => 0x0C | .rstack => 0x0D
  | .stacklim => 0x0E | .page => 0x10 | .prot => 0x11 | .wblk => 0x12 | .rpin => 0x13 | .rdepth => 0x14
  | .detx => 0x15 | .mono => 0x16 | .arith => 0x17 | .timer => 0x18 | .bkpt => 0x19 | .syscall => 0x1A
  | .mchk => 0x20 | .late => 0x40 | .overnrg => 0x41 | .thermal => 0x42 | .margin => 0x43 | .englate => 0x44
  | .overpre => 0x45 | .revoke => 0x48 | .unmap => 0x49 | .forcepre => 0x4A | .migrate => 0x4B | .peerlate => 0x50
  | .peerfail => 0x51

/-- The code of a party (R329). -/
def Party.code : Party → Nat
  | .caller => 0 | .machine => 1 | .host => 2 | .peer => 3

/-- The status of a launch that a party's act ended (R328, R332). -/
def Party.endStatus : Party → Nat
  | .caller => 2 | .host => 3 | .machine => 4 | .peer => 5

/-- Energy attributed to a launch, in units of 0.1 pJ (R411): the dynamic part, and Pstat over the time since
acceptance. A milliwatt over a nanosecond is a picojoule. -/
def State.energyOf (s : State) (l : Launch) : Nat :=
  l.energy + 10 * l.stat * l.fig.cores * l.fig.slots * (s.ns - l.accepted) / 64

/-- He in units of 0.1 pJ (R385): what the user-handler runs' work took, and the static part over H. -/
def Launch.handlerShare (l : Launch) : Nat :=
  l.handlerEnergy + 10 * l.stat * l.fig.cores * l.fig.slots * l.handlerNs / 64

/-- Energy in nJ, rounded down (R411). -/
def State.njOf (s : State) (l : Launch) : Nat := s.energyOf l / 10000

/-- DETAIL of a breach record (R329). -/
def Detail.word (d : Detail) (cause : Cause) (noHandler : Bool) : Nat :=
  d.level.toNat + (if d.costOver then 256 else 0) + (if d.energyOver then 512 else 0) + (if d.unpriced then 1024 else 0)
    + (if cause = .wblk then 65536 * d.sub.toNat else 0) + (if noHandler then 2 ^ 24 else 0)

/-- The 64 bytes of a breach record (R329). -/
def Breach.bytes (b : Breach) (id tq eq : Nat) : List Byte :=
  let tile := b.detail.tile.getD ⟨0, 0, 0⟩
  toBytesLE 8 id ++ toBytesLE 1 b.party.code ++ [b.cause.code] ++ toBytesLE 1 (b.team.getD 0xFF)
    ++ toBytesLE 1 ((if b.team.isSome then 1 else 0) + (if b.detail.tile.isSome then 2 else 0))
    ++ toBytesLE 4 b.block ++ toBytesLE 6 b.pc.toNat ++ toBytesLE 2 b.core ++ toBytesLE 6 b.tused ++ toBytesLE 6 tq
    ++ toBytesLE 6 b.eused ++ toBytesLE 6 eq ++ toBytesLE 4 tile.tensor ++ toBytesLE 2 tile.row ++ toBytesLE 2 tile.col
    ++ toBytesLE 4 (b.detail.word b.cause b.noHandler) ++ toBytesLE 4 0

/-- The index of the w-th record that a breach page receives (R330). -/
def recordIndex (w : Nat) : Nat := (w - 1) % 0xFFFFC0 + 1

/-- Writes a record to a breach page of a context and answers its index, 0xFFFFFF when it overflowed or could not be
written; the flag says that the page could not be reached (R330). -/
def State.writeRecord (s : State) (ctx page : Nat) (bs : List Byte) : State × Nat × Bool :=
  match s.readVirtLE ctx page 8, s.readVirtLE ctx (page + 8) 8, s.readVirtLE ctx (page + 16) 8 with
  | some written, some read, some past =>
    if written - read < 64 then
      let i := recordIndex (written + 1)
      match s.writeVirt ctx (page + 64 + 64 * ((i - 1) % 64)) bs with
      | none => (s, 0xFFFFFF, true)
      | some s1 => match s1.writeVirt ctx page (toBytesLE 8 (written + 1)) with
        | none => (s, 0xFFFFFF, true)
        | some s2 => (s2, i, false)
    else match s.writeVirt ctx (page + 16) (toBytesLE 8 (past + 1)) with
      | none => (s, 0xFFFFFF, true)
      | some s1 => (s1, 0xFFFFFF, false)
  | _, _, _ => (s, 0xFFFFFF, true)

/-- The launch at the head of a chain of children: its breach page takes the records of them all (R327). -/
def State.rootOf (s : State) : Nat → Nat → Nat
  | 0, id => id
  | n + 1, id => match (s.launchOf id).parent with
    | none => id
    | some p => s.rootOf n p

/-- Records a breach of a launch: in the context's breach page, and among the launch's own (R329, R330). -/
def State.breach (s : State) (id : Nat) (party : Party) (cause : Cause) (where_ : Option Nat) (pc : BitVec 48)
    (d : Detail) (noHandler : Bool := false) : State :=
  let l := s.launchOf id
  let t := s.teamOf (where_.getD 0)
  let b0 : Breach :=
    { party := party, cause := d.record.getD cause, team := where_.map fun _ => t.index,
      block := if where_.isSome then (s.blockOf t.block).index else 0,
      core := if where_.isSome then t.core else 0, pc := if where_.isSome then pc else 0,
      tused := s.ns - l.accepted, eused := s.njOf l, detail := d, noHandler := noHandler, index := 0 }
  let (s1, i, lost) := s.writeRecord l.ctx l.entry.brPage (b0.bytes id l.fig.tq l.fig.eq)
  let l1 := s1.launchOf id
  s1.setLaunchOf id { l1 with breaches := l1.breaches ++ [{ b0 with index := i, lost := lost }],
                              ending := if lost ∧ l1.ending = none then some 3 else l1.ending }

/-- The completion word (R328). -/
def completionWord (id status bidx : Nat) : DWord :=
  BitVec.ofNat 64 ((id % 2 ^ 32) * 2 ^ 32 + status * 2 ^ 24 + bidx % 2 ^ 24)

/-- The index of the first record of a party among a launch's records; 0xFFFFFF when none was written, or when a record of the
launch has been lost (R330). -/
def decidingIndex (bs : List Breach) (p : Party) : Nat :=
  if bs.any (·.lost) then 0xFFFFFF
  else match bs.find? fun b => b.party = p with
    | some b => b.index
    | none => 0xFFFFFF

/-- The party of the record that decides the status of a launch that completes (R332). -/
def Launch.statusParty (l : Launch) : Party :=
  let by_ (p : Party) : Bool := l.breaches.any fun b => b.party == p
  if by_ .host then .host else if by_ .peer then .peer else if by_ .caller then .caller else .machine

/-- The party of a launch's deciding record (R332): as its completion word has it, and while it runs the caller's where it has
one. -/
def Launch.decidingParty (l : Launch) : Party :=
  match l.completion.map fun w => bits w.toNat 31 24 with
  | some 2 => .caller
  | some 3 => .host
  | some 4 => .machine
  | some 5 => .peer
  | some _ => l.statusParty
  | .none => if l.breaches.any fun b => b.party == .caller then .caller else l.statusParty

/-- The launch has nothing left to run (R269, R281): every block of its grid has retired, and every grid that it started has
completed. -/
def State.allRetired (s : State) (id : Nat) : Bool :=
  let l := s.launchOf id
  decide (l.phase = .live ∧ l.retiredBlocks = l.grid.1 * l.grid.2.1 * l.grid.2.2)
    && !s.launches.any fun e => (e.2.phase == .live || e.2.phase == .open) && e.2.parent == some id

/-- Writes a quote record's bytes 39 and 57 (R320, R321). -/
def State.rewriteQuote (s : State) (id : Nat) : State :=
  let l := s.launchOf id
  match s.writeVirt l.ctx (l.qrec + 39) [BitVec.ofNat 8 l.fig.status] with
  | none => s
  | some s1 => (s1.writeVirt l.ctx (l.qrec + 57) [BitVec.ofNat 8 l.fig.state]).getD s1

/-- A recomputable tensor is in the priced set of some live launch (R340). -/
def State.tensorLives (s : State) (x : Nat) : Bool :=
  s.launches.any fun e => e.2.phase == .live && e.2.priced.contains x

/-- The end of the lives of those tensors of a list that no live launch prices any more: their cached tiles are
dropped (R340). -/
def State.endLives (s : State) (priced : List Nat) : State :=
  { s with tiles := s.tiles.filter fun t => !priced.contains t.name.tensor || s.tensorLives t.name.tensor }

/-- The atomics and reductions of a launch that have issued and are not complete (R223). -/
def State.openAtoms (s : State) (id : Nat) : List Atom :=
  (s.teams.flatMap fun e => if e.2.launch = id then e.2.atoms else []).foldr insertAtom []

/-- Stores perform one after another; the flag falls where a tile's write cannot reach what the host had to leave mapped
(R367). -/
def performWrites (x : State × Bool) (ws : List Store) : State × Bool :=
  ws.foldl (fun (x : State × Bool) (w : Store) => match w.what.perform x.1 with
    | some s => (s, x.2)
    | none => (x.1, false)) x

/-- Stores and atomics perform, in ascending order of issue. -/
def performInOrder (x : State × Bool) (ws : List Store) : List Atom → State × Bool
  | [] => performWrites x ws
  | a :: as =>
    let y := performWrites x (ws.filter fun w => decide (w.id < a.id))
    performInOrder ({ y.1 with mem := a.applyAll y.1.mem }, y.2) (ws.filter fun w => decide (a.id ≤ w.id)) as

/-- The tile that a store acts on. -/
def Write.tile? : Write → Option TileName
  | .tile _ n _ _ | .discard _ n _ | .lastUse _ n _ | .rmat _ n _ | .rdrop _ n _ => some n
  | _ => none

/-- A store of a launch acts on a tile that brews for another launch, or whose line a waiter of that chain has still to return: its
home slice holds it (R342). -/
def State.chainHolds (s : State) (id : Nat) (w : Store) : Bool :=
  w.what.tile?.any fun n => (s.brews.any fun q => q.launch != id && q.name == n)
    || s.teams.any fun e => e.2.launch != id && decide (e.2.status = TeamStatus.live) && (e.2.wait == .brewing n || e.2.keeps == some n)

/-- Every store, atomic and reduction of a launch that its home slices have not ordered performs (R223; R281, step 1): first the
stores that the cores have accepted. A store that a chain of another launch holds stays (R342). The flag says whether each
could. -/
def State.drainStores (s : State) (id : Nat) : State × Bool :=
  let mine := s.stores.filter fun w => w.launch == id && !s.chainHolds id w
  let x := performInOrder (performWrites (s, true) (mine.filter (·.accepted))) (mine.filter fun w => !w.accepted)
    (s.openAtoms id)
  ({ x.1 with stores := x.1.stores.filter fun w => w.launch != id || s.chainHolds id w,
              teams := x.1.teams.mapVals fun t => if t.launch = id then { t with atoms := [] } else t }, x.2)

/-- Writes a completion word and releases the reservation (R281, steps 2 and 3). A child's word is kept for cwait. -/
def State.finishLaunch (s : State) (id status bidx : Nat) : State :=
  let l := s.launchOf id
  let w := completionWord id status bidx
  let s1 := if l.parent.isSome then s else (s.writeVirt l.ctx l.compl (toBytesLE 8 w.toNat)).getD s
  let s2 := s1.setLaunchOf id { l with phase := .done, completion := some w, pieces := [], pins := [] }
  (s2.endLives l.priced).liftPins l.ctx fun va => l.pins.any (·.pagesHold va)

/-- Stops every team of a launch: waits are cancelled, outstanding copy and matrix work is abandoned (R384), once
its atomics have been applied. -/
def Team.stop (t : Team) : Team :=
  { t with status := .stopped, wait := .none, pend := [], atoms := [], rels := [], acqs := [], keeps := none, rep := none, inv := none,
           mqueue := [], copies := [], due := none }

/-- The record of a thermal emergency that is still in force when the launch ends (R323, R332). -/
def State.thermalRecord (s : State) (id : Nat) : State :=
  if (s.launchOf id).thermalCut then
    let s1 := s.breach id .machine .thermal none 0 {}
    s1.setLaunchOf id { s1.launchOf id with thermalCut := false }
  else s

/-- The chains of a launch end: its tiles that brew are ABSENT (R342). -/
def State.endChains (s : State) (id : Nat) : State :=
  { s with brews := s.brews.filter fun q => q.launch != id,
           tiles := s.tiles.map fun x =>
             if s.brews.any fun q => q.launch == id && q.name == x.name
             then { x with state := if x.state = .brewing then .absent else x.state } else x }

/-- Ends one launch with a status: its teams stop, its chains end, its records and its completion word are written. -/
def State.endOne (s : State) (id status bidx : Nat) : State :=
  let s0 := (((s.thermalRecord id).endChains id).drainStores id).1
  let s1 : State :=
    { s0 with teams := s0.teams.mapVals fun t => if t.launch = id ∧ t.status = .live ∨ t.launch = id ∧ t.status = .saved
                then t.stop else t,
              blocks := s0.blocks.mapVals fun b => if b.launch = id then { b with retired := true } else b,
              launches := s0.launches.mapVals fun c => if c.parent = some id ∧ c.phase = .open
                then { c with phase := .declined, pieces := [] } else c,
              emergency := s0.emergency.filter fun e => (s0.teamOf e.2).launch != id }
  s1.finishLaunch id status bidx

/-- Every live descendant of a launch, deepest first (R269). -/
def State.descendants (s : State) : Nat → Nat → List Nat
  | 0, _ => []
  | n + 1, id => (s.launchOf id).children.flatMap fun c => s.descendants n c ++ [c]

/-- Ends a launch: its descendants first, with records of the same party (R269, R384). A caller's record decides, except where
a host act ends the launch (R332, R397). -/
def State.endLaunch (s : State) (id : Nat) (party : Party) (cause : Cause) : State :=
  let kids := (s.descendants 11 id).filter fun c => (s.launchOf c).phase = .live
  let s1 := kids.foldl (fun s c =>
    let s' := s.breach c party cause none 0 {}
    s'.endOne c party.endStatus (decidingIndex (s'.launchOf c).breaches party)) s
  let caller := (s1.launchOf id).breaches.any fun b => b.party = .caller
  let p := if caller ∧ party ≠ .host then .caller else party
  s1.endOne id p.endStatus (decidingIndex (s1.launchOf id).breaches p)

/-- The record of a trap. -/
def State.recordTrap (s : State) (x : TrapEnd) : State :=
  if x.record then s.breach x.launch x.party x.cause (some x.team) x.pc x.detail x.noHandler else s

/-- What a trap does to its launch: now, or at the end of the cycle whose teams act (R399). -/
def State.trapEnd (s : State) (x : TrapEnd) : State :=
  match s.cycleTraps with
  | some xs => { s with cycleTraps := some (xs ++ [x]) }
  | none => if x.ends then (s.recordTrap x).endLaunch x.launch x.party x.cause else s.recordTrap x

/-- Ends a launch with one record of the act that ended it (R332). -/
def State.endWith (s : State) (id : Nat) (party : Party) (cause : Cause) (where_ : Option Nat := none)
    (pc : BitVec 48 := 0) (d : Detail := {}) : State :=
  match where_ with
  | some team => s.trapEnd { team := team, launch := id, party := party, cause := cause, pc := pc, detail := d }
  | none => (s.breach id party cause none pc d).endLaunch id party cause

end Sys2Proof.Machine
end

