-- ==== Sys2Proof/Machine/Ops.lean ====
section
/-! DEFINITION. The operations that every instruction shares: going on to the next word, waiting, pushing and popping
the reconvergence stack, and taking an exception (R27, R44, R284 to R288, R376 to R388). -/
namespace Sys2Proof.Machine

/-- A meaning's outcome: every step of this machine that begins has a next state. -/
abbrev Out := Host.Outcome State Fault Refusal

/-! Going on. -/

/-- The wait that a word's switch marker asks for, when a result is pending (R44). -/
def parkIf (t : Team) (seq : Nat) (sw : Bool) : Wait :=
  if sw && !t.pend.isEmpty then .park seq else .none

/-- The team has issued a word of n words: under rep it goes to the next repetition, or past the prefixed form after
the last one; inside a routine of inv it counts the routine's words; a switch marker parks it (R44, R47, R48, R162). -/
def Team.advance (t : Team) (seq n : Nat) (sw : Bool) : Team :=
  match t.rep with
  | some r =>
    if r.j + 1 < r.count then { t with rep := some { r with j := r.j + 1 }, wait := .none, keeps := none }
    else { t with rep := none, pc := t.pc + BitVec.ofNat 48 (4 * (n + 1)), wait := parkIf t seq sw, keeps := none }
  | none =>
    { t with pc := t.pc + BitVec.ofNat 48 (4 * n), wait := parkIf t seq sw, keeps := none,
             inv := t.inv.map fun v => { v with pos := v.pos + n } }

/-- The issuing team goes on past an instruction of n words. -/
def State.advance (s : State) (n : Nat) (sw : Bool) : State := s.setTeam (s.team.advance s.seq n sw)

/-- Control moves to a word; a switch marker parks the team (R44). -/
def State.goTo (s : State) (pc : BitVec 48) (sw : Bool) : State :=
  let t := s.team
  s.setTeam { t with pc := pc, wait := parkIf t s.seq sw }

/-- The team waits at its word until the wait's event; the word then counts as issued (R274). -/
def State.hold (s : State) (w : Wait) (timeout n : Nat) (sw : Bool) : State :=
  s.setTeam { s.team with wait := w, waited := 0, timeout := timeout, afterWords := n, afterSw := sw }

/-- The wait is over, and the word counts as issued. -/
def State.endHold (s : State) : State :=
  let t := s.team
  (s.setTeam { t with wait := .none, waited := 0, timeout := 0, stamp := s.seq }).advance t.afterWords t.afterSw

/-- The wait is over, and the word issues again. A timeout that has begun goes on, should the word wait once more; the line that
a chain has made stays for its read (R342). -/
def State.retry (s : State) : State :=
  let t := s.team
  s.setTeam { t with wait := .none, stamp := s.seq, keeps := match t.wait with | .brewing n => some n | _ => t.keeps }

/-! The reconvergence stack: newest entry first in the list. -/

/-- Compatibility spilling is in force for the team's launch (R287, R312). -/
def State.spilling (s : State) : Bool := s.launch.lflags.getLsbD 2

/-- All entries, newest first, the spilled ones below the on-chip ones (R287). -/
def Team.entries (t : Team) : List Entry := t.stack ++ t.spilled.reverse

/-- Reads back the newest spilled entries, up to 8, when the on-chip stack holds none (R287). -/
def Team.readBack (t : Team) : Team :=
  if t.stack.isEmpty then
    { t with stack := (t.spilled.reverse.take 8),
             spilled := t.spilled.take (t.spilled.length - min 8 t.spilled.length) }
  else t

/-- The top entry. -/
def Team.top (t : Team) : Option Entry := t.readBack.stack.head?

/-- The stack without its top entry. -/
def Team.pop (t : Team) : Team := let t' := t.readBack; { t' with stack := t'.stack.tail }

/-- The stack with its top entry replaced. -/
def Team.setTop (t : Team) (e : Entry) : Team := let t' := t.readBack; { t' with stack := e :: t'.stack.tail }

/-- Pushes an entry. The caller has checked that the stack has room. -/
def Team.push (t : Team) (e : Entry) : Team := { t with stack := e :: t.stack }

/-- CALL entries, spilled ones included (R289). -/
def Team.callDepth (t : Team) : Nat := (t.entries.filter fun e => e.kind == .call).length

/-- The team is in a user-handler run (R383). -/
def Team.inHandler (t : Team) : Bool := t.entries.any fun e => e.kind == .trap

/-- The team is in a run of a terminal cause, be it one that another run has interrupted (R384). -/
def Team.inTerminal (t : Team) : Bool := t.entries.any fun e => e.kind == .trap && e.term

/-! Exceptions. -/

/-- Causes that the privileged handler takes first (R378, R382). -/
def Cause.privileged : Cause → Bool
  | .page | .prot | .rstack | .mchk => true
  | _ => false

/-- Causes that let the user handler return into the program (R382). -/
def Cause.resumable : Cause → Bool
  | .mono | .arith | .timer | .bkpt | .syscall => true
  | _ => false

/-- The lanes that a trap names: those found, or those of exec, or of k0 when exec is empty (R102, R378). -/
def Team.named (t : Team) (lanes : Mask) : Mask := if lanes ≠ 0 then lanes else if t.exec ≠ 0 then t.exec else t.k0

/-- The context's user handler is reachable (R378): a header of an image registered in the context, on a page that
can be fetched. -/
def State.handlerOk (s : State) : Bool :=
  let h := s.launch.entry.uhand
  h != 0 && h < 2 ^ 48 && s.isHeader s.ctx h &&
    (match s.translate s.ctx h .exec with | .ok _ => true | .error _ => false)

/-- The cause that a record names when no handler runs (R378). -/
def Cause.recorded : Cause → Cause
  | .bkpt | .syscall => .illegal
  | c => c

/-- EndGrid (R384): the launch of the issuing team ends for a cause raised at a word. -/
def State.endGrid (s : State) (cause : Cause) (det : Detail) (pc : BitVec 48) (noHandler : Bool := false) : State :=
  s.trapEnd { team := s.cur, launch := s.team.launch, party := det.party, cause := cause, pc := pc, detail := det,
              noHandler := noHandler }

/-- The end of a terminal run ends the grid (R384): its record has been written. -/
def State.endTerminal (s : State) (e : Entry) : State :=
  s.trapEnd { team := s.cur, launch := s.team.launch, party := e.detail.party, cause := e.cause.getD .illegal, pc := 0,
              detail := {}, record := false }

/-- The word that s60 holds in a user handler (R381). -/
def causeWord (cause : Cause) (det : Detail) : DWord :=
  BitVec.ofNat 64 (cause.code.toNat + 256 * det.sub.toNat + (if cause.resumable then 0 else 65536)
    + 2 ^ 17 * det.level.toNat)

/-- The repetition index that a trap records (R48). -/
def Team.repIndex (t : Team) : Nat := match t.rep with | some r => r.j | none => t.repj

/-- The TRAP entry of a delivery (R378, R379). -/
def Team.trapEntry (t : Team) (cause : Cause) (lanes : Mask) (det : Detail) (at_ rpc : BitVec 48) (fwd : Bool) :
    Entry :=
  { kind := .trap, cause := some cause, rpc := rpc, at_ := at_, fm := t.fm, mask := t.exec, aux := lanes,
    sv59 := t.getS 59, sv60 := t.getS 60, sv61 := t.getS 61, cc := t.cc, repj := BitVec.ofNat 8 t.repIndex,
    term := !cause.resumable, fwd := fwd, copy := det.copy.isSome, detail := det, outer := t.hcount }

/-- What s61 holds in a user handler (R381): the faulting address, the tile of a WBLK, an RDEPTH or a rebrew fault, or zero. -/
def detailWord (cause : Cause) (det : Detail) : DWord :=
  match cause with
  | .page | .prot | .align | .stacklim | .rpin | .wblk | .rdepth => det.addr
  | _ => if det.level = 0 then 0 else det.addr

/-- The detail of a record that names the caller and the cause itself (R378, R383). -/
def Detail.callers (d : Detail) : Detail := { d with party := .caller, record := .none }

/-- The user handler's start: the entry is pushed, s59 to s61 tell of the trap, exec is the named lanes, and control is
at the vector (R378, R381). fm, cc and every other register are the team's own. -/
def Team.enterHandler (t : Team) (e : Entry) (cause : Cause) (det : Detail) (uhand : BitVec 48) : Team :=
  let t1 := ((t.push e).setS 59 (BitVec.setWidth 64 e.rpc)).setS 60 (causeWord cause det)
  let t2 := (t1.setS 61 (detailWord cause det)).setExec (e.aux &&& t.k0)
  { t2 with pc := uhand, rep := none, repj := 0, inv := none, wait := .none, keeps := none, waited := 0, timeout := 0,
            handlerRuns := t.handlerRuns + 1, hcount := 0 }

/-- A pending tile load has still to read this tile. -/
def Pend.awaitsTile (p : Pend) (n : TileName) : Bool := match p.src with | .tile m _ none => m == n | _ => false

/-- A read of a tile issues in a rebrew slot, under its number, or under none while its word waits (R404). -/
def Team.openRead (t : Team) (id : Option Nat) : Team :=
  let runs (o : Option Nat × Nat) : Bool := o.1 != id && o.1.all fun n => t.pend.any (·.id == n) || t.copies.any (·.id == n)
  { t with rebrew := t.rebrew.map fun r => { r with opens := (id, 0) :: r.opens.filter runs } }

/-- A read of a rebrew slot has started or joined a deeper level: the time since it issued does not count against the slice, nor
does it twice where the intervals of two reads overlap (R346, R404). -/
def Team.nest (t : Team) (id : Option Nat) : Team :=
  { t with rebrew := t.rebrew.map fun r =>
      let k := (r.opens.find? fun o => o.1 == id).elim 0 (·.2)
      { r with cyc := r.cyc + k, opens := r.opens.map fun o => (o.1, o.2 - k), nested := id.toList ++ r.nested } }

/-- A team whose read of a tile fails with its chain (R351): the cause is raised when the team next runs, and a copy is faulted at
its wait (R219). -/
def Team.failReads (u : Team) (names : List TileName) (cause : Cause) (d : Detail) (seq : Nat) : Team :=
  let waits := match u.wait with | .brewing n => names.contains n | _ => false
  let reads (p : Pend) : Bool := names.any p.awaitsTile
  let u1 : Team := if decide (u.status = TeamStatus.live) && (waits || u.pend.any reads) then
      { u with wait := if waits then .none else u.wait, stamp := if waits then seq else u.stamp,
               pend := u.pend.filter fun p => !reads p, due := some { cause := cause, lanes := u.exec, detail := d } }
    else u
  { u1 with copies := u1.copies.map fun (c : Copy) =>
      if c.brewing && (c.tile.any fun n => names.contains n) then
        { c with brewing := false, owned := c.done, fault := some (cause, d) }
      else c }

/-- A slice fault (R351): the chain that the rebrew slot belongs to fails. Its slots are abandoned, the tiles it was
brewing return to ABSENT, and every team that waits on one of them raises the cause when it next runs. -/
def State.sliceFault (s : State) (cause : Cause) (det : Detail) : State :=
  let t := s.team
  match t.rebrew with
  | none => s
  | some r =>
    let mine (q : BrewReq) : Bool := q.core == r.server && (q.running || decide (1 < q.level))
    let chain := s.brews.filter mine
    let names := chain.map fun q => q.name
    let first := (chain.find? fun q => q.level == 1).map fun q => q.name
    let d : Detail := { det with level := BitVec.ofNat 4 r.level, tile := first, copy := none,
                                 addr := (first.getD ⟨0, 0, 0⟩).word }
    { s with
      brews := s.brews.filter fun q => !mine q,
      tiles := s.tiles.map fun x =>
        if names.contains x.name && x.state == .brewing then { x with state := .absent } else x,
      emergency := s.emergency.filter fun e =>
        !((s.teamOf e.2).rebrew.any fun q => q.server == r.server),
      teams := s.teams.mapVals fun (u : Team) =>
        if u.status = TeamStatus.live ∧ (u.rebrew.any fun q => q.server == r.server) then u.stop
        else u.failReads names cause d s.seq }

/-- The privileged entry of a trap (R284). -/
def Team.privOf (t : Team) (cause : Cause) (lanes : Mask) (det : Detail) (at_ rpc : BitVec 48) (kept : Option Cause)
    (needsBlock : Bool) (fwd : Bool := false) : PrivEntry :=
  { cause := cause, kept := kept, mask := t.exec, lanes := lanes, at_ := at_, rpc := rpc,
    repj := BitVec.ofNat 8 t.repIndex, fm := t.fm, detail := det, needsBlock := needsBlock, fwd := fwd }

/-- The trap that the privileged handler takes (R284, R378, R386): the entry outside the 16, and the emergency block
when it is free. -/
def State.privTrap (s : State) (cause : Cause) (lanes : Mask) (det : Detail) (at_ rpc : BitVec 48)
    (kept : Option Cause) (fwd : Bool := false) : State :=
  let t := s.team
  let lent := s.emergency.find? t.core
  let e := t.privOf cause lanes det at_ rpc kept lent.isSome fwd
  let s1 := s.setTeam { t with privEntry := some e, wait := .handler, waited := 0, timeout := 0 }
  if lent.isSome then s1 else { s1 with emergency := s1.emergency.set t.core s.cur }

/-- The context names a user handler that cannot be reached (R378). -/
def State.handlerLost (s : State) : Bool := s.launch.entry.uhand != 0 && !s.handlerOk

/-- An RSTACK that no handler takes ends the grid at once (R284, R378): the privileged entry keeps what would have been
delivered, and the record names the caller. -/
def State.endFull (s : State) (e : PrivEntry) : State :=
  (s.setTeam { s.team with privEntry := some e }).endGrid .rstack e.detail.callers e.at_ s.handlerLost

/-- The user handler's run begins, with the record of a terminal cause (R378, R379). A wait that the trap ends makes the team ready
anew (R277). -/
def State.enterRun (s : State) (cause : Cause) (lanes : Mask) (det : Detail) (at_ rpc : BitVec 48) (fwd : Bool) : State :=
  let t := s.team
  let e := t.trapEntry cause lanes det at_ rpc fwd
  let s1 := if cause.resumable then s
    else s.trapEnd { team := s.cur, launch := t.launch, party := det.party, cause := cause, pc := at_, detail := det, ends := false }
  let u := t.enterHandler e cause det (BitVec.ofNat 48 s.launch.entry.uhand)
  s1.setTeam { u with stamp := if t.wait = .none then t.stamp else s.seq }

/-- The results of the team's older instructions have been written (R376). -/
def Team.retired (t : Team) : Bool := t.pend.all (·.landed)

/-- The delivery waits for those that have not been (R376). -/
def State.awaitOlder (s : State) (d : Due) : State := s.setTeam { s.team with wait := .landing s.seq, due := some d }

/-- Deliver (R378): the user handler runs, once the team's older results have been written (R376), or the grid ends. -/
def State.deliver (s : State) (cause : Cause) (lanes : Mask) (det : Detail) (at_ rpc : BitVec 48)
    (fwd : Bool := false) : State :=
  let t := s.team
  if t.rebrew.isSome then s.sliceFault cause det
  else if cause = .rstack then s.endFull (t.privOf .rstack lanes det at_ rpc .none false)
  else if ¬ s.handlerOk then
    if cause = .timer then s.setTeam { t with timerDue := false, timerArmed := false }
    else if s.launch.entry.uhand = 0 then s.endGrid cause.recorded det at_
    else s.endGrid cause.recorded det.callers at_ true
  else if t.handlerRuns ≥ 65535 then s.endGrid .trip det.callers at_
  else if t.stack.length ≥ 16 then
    if s.spilling then s.privTrap .rstack lanes det at_ rpc (some cause) fwd
    else s.endFull (t.privOf .rstack lanes det at_ rpc (some cause) false)
  else if cause.resumable = false ∧ t.inTerminal then s.endGrid cause det at_
  else if t.retired then s.enterRun cause lanes det at_ rpc fwd
  else s.awaitOlder { cause := cause, lanes := lanes, detail := det, place := some (at_, rpc), fwd := fwd }

/-- An inv ends: exec is what it was at the prefix (R165, R406). -/
def Team.endInv (t : Team) : Team :=
  match t.inv with
  | none => t
  | some v => { t.setExec (v.exec &&& t.k0) with inv := none }

/-- The word that a trap is recorded at: the prefix of an inv in progress (R165), else the word that issues, which under
rep is the prefix as well (R48). -/
def Team.here (t : Team) : BitVec 48 := match t.inv with | some v => v.at_ | none => t.pc

/-- Taking an exception, Trap(cause, lanes) of R378: the trap is taken at `at_`, and resumes at `rpc`. It releases the
operand latch (R148) and ends an inv in progress (R165). -/
def State.takeTrapAt (s0 : State) (cause : Cause) (lanes : Mask) (det : Detail) (at_ rpc : BitVec 48) : State :=
  let t := { s0.team.endInv with latch := none, pc := if s0.team.inv.isSome then rpc else s0.team.pc }
  let s := s0.setTeam t
  let named := t.named lanes
  if cause = .rstack ∧ ¬ s.spilling ∧ t.rebrew.isNone then
    s.endFull (t.privOf .rstack named det at_ rpc .none false)
  else if cause.privileged ∧ ¬ (t.rebrew.isSome ∧ ¬ det.translation ∧ cause ≠ .rstack) then
    s.privTrap cause named det at_ rpc none
  else s.deliver cause named det at_ rpc

/-- A trap at the word that the team issues, which is also where it resumes (R380). Under a prefix that word is the
prefix (R48, R165). -/
def State.takeTrap (s : State) (cause : Cause) (lanes : Mask) (det : Detail := {}) : State :=
  s.takeTrapAt cause lanes det s.team.here s.team.here

/-- HAZARD (R46): the word has no effect, the older results are written, and then the trap is taken at the word. An older fault that
waits for the end of an inv comes first, and the HAZARD ends the inv (R165, R166). -/
def State.takeHazard (s : State) (lanes : Mask) : State :=
  let t := s.team
  if t.due.isSome then s.setTeam { t.endInv with wait := .landing s.seq, pc := t.here }
  else s.awaitOlder { cause := .hazard, lanes := t.named lanes, detail := {} }

/-- The park of a switch marker on a word that has trapped as its effect (R44). -/
def State.parkAfter (s : State) (sw : Bool) : State :=
  let t := s.team
  if t.wait = .none ∧ t.status = TeamStatus.live then s.setTeam { t with wait := parkIf t s.seq sw } else s

/-- A push onto the stack, or RSTACK at the pushing word (R284). -/
def State.pushOr (s : State) (e : Entry) (k : State → State) : State :=
  let t := s.team
  if t.stack.length ≥ 16 then
    if s.spilling ∧ t.stack.length + t.spilled.length ≥ 64 then s.takeTrap .depth 0
    else s.takeTrap .rstack 0
  else k (s.setTeam (t.push e))

/-- The team runs in a rebrew slot (R344). -/
def Team.inRebrew (t : Team) : Bool := t.rebrew.isSome

/-- An inv lets a pre-emption in at the end of a run only (R166). -/
def Team.betweenRuns (t : Team) : Bool := match t.inv with | none => true | some v => !v.begun

/-- A team whose launch is being saved issues nothing more (R389, steps 1 and 2): it stands at a boundary, no trap is due there, and
it is in no run of a terminal cause (R397). A rebrew slot, and a read whose chain has ended, run on (R352). -/
def Team.stops (t : Team) : Bool :=
  t.betweenRuns && t.due.isNone && !t.inTerminal && t.privEntry.isNone && t.k0 != 0 && !t.inRebrew && t.keeps.isNone

/-- The fault of a copy, raised at the wait that the team has reached (R219): the trap tells of the copy's word and
resumes at the wait. A fault that the privileged handler may resolve keeps the copy; every other one abandons it. -/
def State.raiseCopy (s : State) (c : Copy) (cause : Cause) (det : Detail) : State :=
  let t := s.team
  let s1 := if det.translation then s else s.setTeam { t with copies := t.copies.filter fun q => q.id != c.id }
  s1.takeTrapAt cause 0 { det with copy := some c.id } c.at_ t.pc

/-- The first copy of those that a wait covers whose fault has been found. -/
def faultOf (cs : List Copy) : Option (Copy × Cause × Detail) :=
  cs.findSome? fun c => c.fault.map fun f => (c, f.1, f.2)

/-! Return from an exception. -/

/-- The registers that a tret restores from its TRAP entry (R388): s59 to s61, cc, fm, exec, the repetition index, and
the place it resumes at. -/
def Team.leaveHandler (t : Team) (e : Entry) (pc : BitVec 48) (isRep : Bool) : Team :=
  let t1 := (((t.pop.setS 59 e.sv59).setS 60 e.sv60).setS 61 e.sv61).setCc e.cc
  let t2 := (t1.setFm e.fm).setExec (e.mask &&& t.k0)
  { t2 with pc := pc, repj := if isRep then e.repj.toNat else 0, hcount := e.outer, wait := .none }

end Sys2Proof.Machine
end

