-- ==== Sys2Proof/Machine/Transc.lean ====
section
/-! DEFINITION. The forms of opcode 0x28 (R79, R124). Off its fixed points each has an accuracy and no published result: the exact
value is enclosed between two dyadic rationals, and the result is a free choice among the FP32 values that the accuracy admits. -/
namespace Sys2Proof.Machine

/-- The overflow result under fm (R91). -/
def overflow32 (rm : Nat) (sat ftz : Bool) (s : Bool) : Word := round32 rm sat ftz (.fin s 1 128)

/-- fm without its rounding mode. -/
def Fm.withoutRm (fm : Word) : Word := fm &&& ~~~0x3000#32

/-- A faithful result (R124): the exact value when FP32 holds it, otherwise one of the two bracketing values, the machine's choice
being a free value that does not depend on fm.rm; a result beyond the largest finite value is the overflow result under fm. -/
def faithful (f : Config.Transc) (x fm : Word) (rm : Nat) (sat ftz : Bool) (s : Bool) (m : Nat) (e : Int)
    (rest : Bool) : Word :=
  let down := roundFlt .fp32 1 false ftz (.fin s m e) rest
  let away := roundFlt .fp32 (if s then 3 else 2) false ftz (.fin s m e) rest
  if (Nat.log2 m : Int) + e ≥ 128 then overflow32 rm sat ftz s
  else if down = away ∨ ¬ Config.faithfulAway f x (Fm.withoutRm fm) then BitVec.ofNat 32 down
  else if away % 2 ^ 31 = 0x7F800000 then overflow32 rm sat ftz s
  else BitVec.ofNat 32 away

/-- A finite value as a whole number of halves, if it is one. -/
def halves? (m : Nat) (e : Int) : Option Nat :=
  if e ≥ -1 then some (m * 2 ^ (e + 1).toNat)
  else if m % 2 ^ (-1 - e).toNat = 0 then some (m / 2 ^ (-1 - e).toNat)
  else none

/-- The exponent of a magnitude that is a power of two. -/
def powerOfTwo? (m : Nat) (e : Int) : Option Int :=
  if m ≠ 0 ∧ m = 2 ^ Nat.log2 m then some (Nat.log2 m + e) else none

/-! Enclosures, in fixed point with 160 bits after the point. -/

/-- One. -/
def fixOne : Nat := 2 ^ 160

/-- A product, rounded down. -/
def fixMul (x y : Nat) : Nat := x * y / fixOne

/-- ln 2, as the sum of 1 / (k 2^k). -/
def fixLn2 : Nat := ((List.range 160).map fun k => fixOne / ((k + 1) * 2 ^ (k + 1))).sum

/-- The arc tangent of 1 / q, by its series. -/
def fixAtan (q : Nat) : Int :=
  ((List.range 36).map fun k => (if k % 2 = 0 then (1 : Int) else -1) * (fixOne / ((2 * k + 1) * q ^ (2 * k + 1)) : Nat)).sum

/-- π, by Machin's formula. -/
def fixPi : Nat := (16 * fixAtan 5 - 4 * fixAtan 239).toNat

/-- e^t for t below one: the terms t^k / k! from number k on, the first of which is given. -/
def fixExpFrom (t : Nat) : Nat → Nat → Nat → Nat
  | 0, _, _ => 0
  | fuel + 1, k, term => term + fixExpFrom t fuel (k + 1) (fixMul term t / (k + 1))

/-- e^t for t below one. -/
def fixExp (t : Nat) : Nat := fixExpFrom t 48 0 fixOne

/-- n bits of the binary logarithm of y from 1 up to 2: y is squared for each, and halved where it reaches 2. -/
def fixLogBits : Nat → Nat → Nat → Nat
  | 0, _, acc => acc
  | n + 1, y, acc =>
    let y2 := fixMul y y
    if 2 * fixOne ≤ y2 then fixLogBits n (y2 / 2) (2 * acc + 1) else fixLogBits n y2 (2 * acc)

/-- The binary logarithm of y from 1 up to 2, to 72 bits. -/
def fixLog2 (y : Nat) : Nat := fixLogBits 72 y 0 * 2 ^ 88

/-- sin t for t up to π / 2: the terms from number k on, the first of which is given without its sign. -/
def fixSinFrom (t2 : Nat) : Nat → Nat → Nat → Int
  | 0, _, _ => 0
  | fuel + 1, k, term => (term : Int) - fixSinFrom t2 fuel (k + 1) (fixMul term t2 / ((2 * k + 2) * (2 * k + 3)))

/-- sin (π y) for y up to one half. -/
def fixSinPi (y : Nat) : Int :=
  let t := fixMul y fixPi
  fixSinFrom (fixMul t t) 30 0 t

/-- tanh x for x ≥ 0: (E - 1) / (E + 1) with E = e^(2x). Above 64 it is less than 1 by no more than the guard. -/
def fixTanh (x : Nat) : Int :=
  if 64 * fixOne ≤ x then fixOne - 1
  else
    let n := 2 * x / fixLn2
    let e := fixExp (2 * x - n * fixLn2) * 2 ^ n
    ((e - fixOne) * fixOne / (e + fixOne) : Nat)

/-- A finite magnitude in fixed point, rounded down. -/
def toFix (m : Nat) (e : Int) : Nat := if 0 ≤ e + 160 then m * 2 ^ (e + 160).toNat else m / 2 ^ (-(e + 160)).toNat

/-- An exact value to within a guard, with the accuracy that R124 gives the form. -/
structure Enclosure where
  /-- The value times 2^(160 - shift). -/
  n : Int
  /-- The exact value lies no farther off than this, in the same unit. -/
  guard : Nat
  shift : Int
  /-- The absolute error, as a power of two; none where the ulp alone counts. -/
  absolute : Option Int
  deriving DecidableEq, Repr

/-- The error that R124 admits: 2 ulp of the exact value, or the absolute error where that is larger. -/
def Enclosure.error (c : Enclosure) : Val :=
  let top : Int := (Nat.log2 c.n.natAbs : Int) + c.shift - 160
  let two : Int := max top (-126) - 23 + 1
  .fin false 1 (match c.absolute with | some a => max a two | none => two)

/-- The least, or the greatest, value that the accuracy admits. -/
def Enclosure.bound (c : Enclosure) (up : Bool) : Val :=
  let n := if up then c.n + c.guard else c.n - c.guard
  let v : Val := .fin (decide (n < 0)) n.natAbs (c.shift - 160)
  addVal 0 v (if up then c.error else c.error.neg)

/-- One of the FP32 values that the accuracy admits, the machine's choice being a free value (R79, R124). One beyond the largest
finite value is the overflow result, and a subnormal one is flushed under FTZ. -/
def Enclosure.pick (c : Enclosure) (rm : Nat) (sat ftz : Bool) (choice : Nat) : Word :=
  let lo := orderedImage (round32 2 false false (c.bound false))
  let top := c.bound true
  let hi := if ltVal top (.fin false 1 128) then orderedImage (round32 3 false false top) else orderedImage 0x7F800000
  let w := fromOrdered (lo + choice % (hi + 1 - lo))
  if w = 0x7F800000 then overflow32 rm sat ftz false else encode32 (decode32 ftz w)

/-- The functions of opcode 0x28 (R124), by the field b. -/
inductive Fn where
  | frcp | frsq | fsqrt | fexp2 | flog2 | fsin | fcos | ftanh
  deriving DecidableEq, Repr

/-- fexp2 of a value that is no integer: 2^n times 2^f, with f from 0 up to 1. Far below the least subnormal value, and far above
the largest finite one, n is as good as -400 and 400. -/
def exp2Of (rm : Nat) (sat ftz : Bool) (x fm : Word) (s : Bool) (m : Nat) (e : Int) : Word :=
  let y : Int := if s then -(toFix m e : Int) else toFix m e
  let n := y / fixOne
  let c : Enclosure :=
    { n := fixExp (fixMul (y % fixOne).toNat fixLn2), guard := 2 ^ 40, shift := max (-400) (min n 400), absolute := .none }
  if 128 ≤ n then overflow32 rm sat ftz false else c.pick rm sat ftz (Config.transcValue .fexp2 x fm)

/-- flog2 of a positive value that is no power of two. -/
def log2Of (rm : Nat) (sat ftz : Bool) (x fm : Word) (m : Nat) (e : Int) : Word :=
  let k := Nat.log2 m
  let c : Enclosure :=
    { n := ((k : Int) + e) * fixOne + fixLog2 (m * fixOne / 2 ^ k), guard := 2 ^ 92, shift := 0, absolute := some (-22) }
  c.pick rm sat ftz (Config.transcValue .flog2 x fm)

/-- sin (π y) for y from 0 up to 2, with a sign before it: the quadrants, and an absolute error of 2^-23. Where y is no multiple of
one half the exact value is less than 1. -/
def sinOf (f : Config.Transc) (rm : Nat) (sat ftz : Bool) (x fm : Word) (s : Bool) (y : Nat) : Word :=
  let half := y % fixOne
  let r := min (fixSinPi (min half (fixOne - half))) (fixOne - 1)
  let c : Enclosure := { n := if (decide (fixOne ≤ y)) != s then -r else r, guard := 2 ^ 40, shift := 0, absolute := some (-23) }
  c.pick rm sat ftz (Config.transcValue f x fm)

/-- ftanh, off zero. -/
def tanhOf (rm : Nat) (sat ftz : Bool) (x fm : Word) (s : Bool) (m : Nat) (e : Int) : Word :=
  let r := fixTanh (toFix m e)
  let c : Enclosure := { n := if s then -r else r, guard := 2 ^ 80, shift := 0, absolute := some (-24) }
  c.pick rm sat ftz (Config.transcValue .ftanh x fm)

/-- The result of a form of opcode 0x28 for the operand after Decode and its modifiers (R124). Off the fixed points
the published rule bounds the result and leaves the choice open: `Config.transcValue` and `Config.faithfulAway`. -/
def transc (f : Fn) (rm : Nat) (sat ftz : Bool) (fm : Word) (v : Val) : Word :=
  let x := encode32 v
  let one : Val := .fin false 1 0
  match f, v with
  | _, .nan => encode32 .nan
  | .frcp, .inf s => encode32 (.fin s 0 0)
  | .frcp, .fin s m e =>
    if m = 0 then encode32 (.inf s)
    else let (q, eq, rest) := divMag 1 0 m e
         faithful .frcp x fm rm sat ftz s q eq rest
  | .frsq, .inf s => if s then encode32 .nan else encode32 (.fin false 0 0)
  | .frsq, .fin s m e =>
    if m = 0 then encode32 (.inf s)
    else if s then encode32 .nan
    else let (r, er, rest) := rsqrtMag m e
         faithful .frsq x fm rm sat ftz false r er rest
  | .fsqrt, .inf s => if s then encode32 .nan else encode32 (.inf false)
  | .fsqrt, .fin s m e =>
    if m = 0 then encode32 (.fin s 0 0)
    else if s then encode32 .nan
    else let (r, er, rest) := sqrtMag m e
         round32 rm sat ftz (.fin false r er) rest
  | .fexp2, .inf s => if s then encode32 (.fin false 0 0) else encode32 (.inf false)
  | .fexp2, .fin s m e =>
    match halves? m e with
    | some h =>
      if h % 2 = 0 then
        -- an exponent beyond ±400 gives the same overflow or underflow result as ±400
        let n : Int := (min (h / 2) 400 : Nat)
        round32 rm sat ftz (.fin false 1 (if s then -n else n))
      else exp2Of rm sat ftz x fm s m e
    | none => exp2Of rm sat ftz x fm s m e
  | .flog2, .inf s => if s then encode32 .nan else encode32 (.inf false)
  | .flog2, .fin s m e =>
    if m = 0 then encode32 (.inf true)
    else if s then encode32 .nan
    else match powerOfTwo? m e with
      | some n => encode32 (.ofInt n)
      | none => log2Of rm sat ftz x fm m e
  | .fsin, .inf _ => encode32 .nan
  | .fsin, .fin s m e =>
    match halves? m e with
    | some h =>
      if h % 2 = 0 then encode32 (.fin s 0 0)
      else encode32 (if (h % 4 = 1) = (s = false) then one else one.neg)
    | none => sinOf .fsin rm sat ftz x fm s (toFix m e % (2 * fixOne))
  | .fcos, .inf _ => encode32 .nan
  | .fcos, .fin _ m e =>
    match halves? m e with
    | some h =>
      if h % 2 = 1 then encode32 (.fin false 0 0)
      else encode32 (if h % 4 = 0 then one else one.neg)
    | none => sinOf .fcos rm sat ftz x fm false ((toFix m e + fixOne / 2) % (2 * fixOne))
  | .ftanh, .inf s => encode32 (if s then one.neg else one)
  | .ftanh, .fin s m e => if m = 0 then encode32 (.fin s 0 0) else tanhOf rm sat ftz x fm s m e

end Sys2Proof.Machine
end

