-- ==== Sys2Proof/Machine/Operands.lean ====
section
/-! DEFINITION. How an instruction meets its operands: the checks of steps 7 to 10 of R59 that every word shares
(HAZARD of R46, REGBLK of R270, the hold of R147), what a body answers, and the forms that most instructions take. -/
namespace Sys2Proof.Machine

/-- The registers that a word reads and writes, and the lanes that its traps name. -/
structure Use where
  vr : List Nat := []
  vw : List Nat := []
  sr : List SReg := []
  sw : List SReg := []
  kr : List KReg := []
  kw : List KReg := []
  /-- The lane set; none for a form that acts on team state (R102). -/
  lanes : Option Mask := none
  /-- A fault of steps 4 to 8 that depends on the state. -/
  pre : Option Cause := none
  deriving DecidableEq, Repr

/-- What the body of an instruction answers. -/
inductive Res where
  /-- The instruction has completed, and the team goes on. -/
  | ok (s : State)
  /-- The body has said itself where the team goes on, or what it waits for. -/
  | moved (s : State)
  /-- A trap with no effect. -/
  | trap (c : Cause) (lanes : Mask) (d : Detail)
  /-- A trap for some lanes; the others have had their results (R106). -/
  | some_ (s : State) (c : Cause) (lanes : Mask) (d : Detail)

/-- A result's destination covers a vector register. -/
def PendDst.hitsV (p : PendDst) (r : Nat) : Bool :=
  match p with | .v f n => decide (f ≤ r ∧ r < f + n) | _ => false
/-- A result's destination is a scalar register. -/
def PendDst.hitsS (p : PendDst) (r : SReg) : Bool := match p with | .s q => q == r && r != 0 | _ => false
/-- A result's destination is a mask register. -/
def PendDst.hitsK (p : PendDst) (r : KReg) : Bool := match p with | .k q => q == r | _ => false

/-- A word reads or writes a register that holds a pending result (R46). -/
def Team.hazard (t : Team) (u : Use) : Bool :=
  t.pend.any fun p => (u.vr ++ u.vw).any p.dst.hitsV || (u.sr ++ u.sw).any p.dst.hitsS || (u.kr ++ u.kw).any p.dst.hitsK

/-- Registers of an A group that a matrix form reads (R142), the scale register included unless fm.scl is 0 (R141). -/
def aGroup (fm : Word) : Instr → Nat
  | .mmaF8 .. | .mmaF4 .. | .mmlF8 .. | .mmlF4 .. => if Fm.scl fm = 0 then 4 else 5
  | .tsa .. | .tsl .. => 2
  | .mmaBf16 .. | .mmaF16 .. | .mmaI8 .. | .mmaH16 .. | .mmlBf16 .. | .mmlF16 .. | .mmlI8 .. | .mmlH16 .. => 4
  | _ => 0

/-- The step of the A group between the steps of a form (R146). -/
def aStep : Instr → Int
  | .mmlBf16 _ _ _ _ _ _ i _ | .mmlF16 _ _ _ _ _ _ i _ | .mmlF8 _ _ _ _ _ _ i _ | .mmlF4 _ _ _ _ _ _ i _
  | .mmlI8 _ _ _ _ _ _ i _ | .mmlH16 _ _ _ _ _ _ i _ | .tsl _ _ _ _ _ _ i _ => i.toInt
  | _ => 0

/-- Vector registers that a queued item still has to read (R147). -/
def MItem.reads (m : MItem) : List Nat :=
  (List.range m.stepsLeft).flatMap fun (j : Nat) =>
    (List.range (aGroup m.fm m.instr)).map fun (g : Nat) => ((m.nextA : Int) + (j : Int) * aStep m.instr).toNat + g

/-- A word writes a register that issued matrix work has still to read (R147). -/
def Team.matrixHold (t : Team) (u : Use) : Bool := t.mqueue.any fun m => u.vw.any m.reads.contains

/-- A word touches a register in a block that the team does not hold (R270). -/
def Team.notHeld (t : Team) (u : Use) : Bool :=
  u.lanes != some 0 && (u.vr ++ u.vw).any fun r => !t.holds r

/-- A write to a register of the operand latch releases it (R148). -/
def State.touch (s : State) (u : Use) : State :=
  let t := s.team
  match t.latch with
  | none => s
  | some l =>
    if u.lanes ≠ some 0 ∧ u.vw.any fun r => decide (l.first ≤ r ∧ r < l.first + l.count) then
      s.setTeam { t with latch := none }
    else s

/-- Ends an instruction of n words as its body says. -/
def Res.finish (r : Res) (s0 : State) (n : Nat) (sw : Bool) : State :=
  match r with
  | .ok s => s.advance n sw
  | .moved s => s
  | .trap c l d => if c = .hazard then s0.takeHazard l else s0.takeTrap c l d
  | .some_ s c l d => s.takeTrap c l d

/-- One word: the shared checks in the order of R59, then the body. -/
def run (s : State) (sw : Bool) (n : Nat) (u : Use) (body : State → Res) : Out :=
  let t := s.team
  .next (match u.pre with
    | some c => s.takeTrap c (u.lanes.getD 0)
    | none =>
      if t.hazard u then s.takeHazard (u.lanes.getD 0)
      else if t.matrixHold u then s.setTeam { t with wait := .matrix }
      else if t.notHeld u then s.takeTrap .regblk (u.lanes.getD 0)
      else (body (s.touch u)).finish s n sw)

/-- The optional literal of a form adds one word. -/
def immWords {w : Nat} : Imm w → Nat
  | .field _ => 1
  | .lit _ => 2

/-- A signed immediate or literal, extended (R30). -/
def immS {w : Nat} (v : Nat) : Imm w → BitVec v
  | .field f => BitVec.signExtend v f
  | .lit l => BitVec.signExtend v l

/-- An unsigned immediate or literal, extended (R30). -/
def immZ {w : Nat} (v : Nat) : Imm w → BitVec v
  | .field f => BitVec.setWidth v f
  | .lit l => BitVec.setWidth v l

/-- The predicate field of a format A form as a register that the form reads. -/
def predK (k : KReg) : List KReg := if k = 0 then [] else [k]

/-- A scalar form: reads some scalars, writes d and cc. -/
def scalarOp (s : State) (sw : Bool) (n : Nat) (d : SReg) (reads : List SReg) (r : Team → DWord)
    (cc : Team → BitVec 5) : Out :=
  run s sw n { sr := reads, sw := [d] } fun s =>
    let t := s.team
    .ok (s.setTeam ((t.setS d (r t)).setCc (cc t)))

/-- A vector form with a fixed-latency result: d takes f in the lane set, other lanes keep d (R102). -/
def vectorOp (s : State) (sw : Bool) (n : Nat) (d : VReg) (k : KReg) (reads : List VReg) (f : Team → Nat → Word) : Out :=
  run s sw n { vr := reads.map (·.toNat), vw := [d.toNat], kr := predK k, lanes := some (s.team.lanes k) } fun s =>
    let t := s.team
    .ok (s.setTeam (t.setV d (t.lanes k) (f t)))

/-- The kind of a result that comes from a source. -/
def PendSrc.kind : PendSrc → PendKind
  | .atomic _ => .atomic
  | .matrix _ => .matrix
  | _ => .other

/-- A result that is written later, with a number of its own (R43). -/
def State.addPend (s : State) (dst : PendDst) (src : PendSrc) : State :=
  let t := s.team
  (s.setTeam { t with pend := t.pend ++ [{ id := s.seq, dst := dst, src := src, kind := src.kind, landed := false }] }).bump

/-- A vector form whose result is pending (R43): the values are those at issue. -/
def vectorPend (s : State) (sw : Bool) (d : VReg) (k : KReg) (vreads : List VReg) (sreads : List SReg)
    (f : Team → Nat → Word) : Out :=
  run s sw 1 { vr := vreads.map (·.toNat), vw := [d.toNat], sr := sreads, kr := predK k,
               lanes := some (s.team.lanes k) } fun s =>
    let t := s.team
    if t.lanes k = 0 then .ok s
    else .ok (s.addPend (.v d.toNat 1) (.lanes ((lanesOf t.tsize (t.lanes k)).map fun l => (d.toNat, l, f t l))))

/-- A scalar result that is pending. -/
def scalarPend (s : State) (sw : Bool) (d : SReg) (k : KReg) (vreads : List VReg) (f : Team → DWord) : Out :=
  run s sw 1 { vr := vreads.map (·.toNat), sw := [d], kr := predK k, lanes := some (s.team.lanes k) } fun s =>
    .ok (s.addPend (.s d) (.scalar (f s.team)))

/-- A vector compare: d takes the mask of the lanes of the set that pass, and B is written (R115, R120). -/
def compareOp (s : State) (sw : Bool) (d : KReg) (a b : VReg) (k : KReg) (p : Team → Nat → Bool) : Out :=
  run s sw 1 { vr := [a.toNat, b.toNat], kr := predK k, kw := [d], lanes := some (s.team.lanes k) } fun s =>
    let t := s.team
    let m := maskOf t.tsize fun l => (t.lanes k).getLsbD l && p t l
    .ok (s.setTeam ((t.setK d m).setCc (flagsMask t.cc m)))

/-- A mask form: d takes a mask, and B is written (R133, R134). -/
def maskOp (s : State) (sw : Bool) (d : KReg) (reads : List KReg) (f : Team → Mask) : Out :=
  run s sw 1 { kr := reads, kw := [d] } fun s =>
    let t := s.team
    .ok (s.setTeam ((t.setK d (f t)).setCc (flagsMask t.cc (f t))))

end Sys2Proof.Machine
end

