-- ==== Sys2Proof/Machine/Control.lean ====
section
/-! DEFINITION. Branches, calls, masked arms, loops and exit (R283 to R296), with the spin detector's demotion (R276,
R295), and trap, brk and tret (R387, R388). -/
namespace Sys2Proof.Machine

/-! The reconvergence stack as these words see it. -/

/-- The code of an entry's kind (R285). -/
def EntryKind.code : EntryKind → Nat
  | .ifArm => 0 | .elseArm => 1 | .loop => 2 | .call => 3 | .trap => 4

/-- The 320 bytes of an entry in the spill area and in a context image (R285, R379). -/
def Entry.bytes (e : Entry) : List Byte :=
  let cause := match e.cause with | some c => c.code.toNat | none => 0
  let word0 := e.kind.code * 2 ^ 61 + (if e.demoted then 2 ^ 60 else 0) + (if e.whileLoop then 2 ^ 59 else 0)
    + cause * 2 ^ 48 + e.rpc.toNat
  let flags := (if e.term then 1 else 0) + (if e.fwd then 2 else 0) + (if e.copy then 4 else 0)
  toBytesLE 8 word0 ++ toBytesLE 8 e.at_.toNat ++ toBytesLE 4 e.fm.toNat ++ toBytesLE 4 e.dfm.toNat
    ++ toBytesLE 4 e.trips.toNat ++ toBytesLE 4 e.count.toNat ++ toBytesLE 4 e.steps.toNat ++ toBytesLE 8 e.sv59.toNat
    ++ toBytesLE 8 e.sv60.toNat ++ toBytesLE 8 e.sv61.toNat ++ toBytesLE 1 e.cc.toNat ++ toBytesLE 1 e.repj.toNat
    ++ toBytesLE 1 flags ++ [0] ++ toBytesLE 128 e.mask.toNat ++ toBytesLE 128 e.aux.toNat

/-- Every cause. -/
def allCauses : List Cause :=
  [.illegal, .priv, .hazard, .regblk, .fmt, .align, .trip, .depth, .wait, .spawn, .launch, .rstack, .stacklim, .page, .prot,
   .wblk, .rpin, .rdepth, .detx, .mono, .arith, .timer, .bkpt, .syscall, .mchk]

/-- The cause of a code. -/
def causeOf (code : Nat) : Option Cause := allCauses.find? fun c => c.code.toNat = code

/-- An entry from its 320 bytes (R285, R379); its reserved bits are passed over (log 70). -/
def entryOf (bs : List Byte) : Entry :=
  let word0 := fieldLE bs 0 8
  let f := fieldLE bs
  let kind : EntryKind := match bits word0 63 61 with | 0 => .ifArm | 1 => .elseArm | 2 => .loop | 3 => .call | _ => .trap
  { kind := kind, demoted := bit word0 60, whileLoop := bit word0 59, cause := causeOf (bits word0 55 48),
    rpc := BitVec.ofNat 48 word0, at_ := BitVec.ofNat 48 (f 8 8), fm := BitVec.ofNat 32 (f 16 4), dfm := BitVec.ofNat 32 (f 20 4),
    trips := BitVec.ofNat 32 (f 24 4), count := BitVec.ofNat 32 (f 28 4), steps := BitVec.ofNat 32 (f 32 4),
    sv59 := BitVec.ofNat 64 (f 36 8), sv60 := BitVec.ofNat 64 (f 44 8), sv61 := BitVec.ofNat 64 (f 52 8),
    cc := BitVec.ofNat 5 (f 60 1), repj := BitVec.ofNat 8 (f 61 1), term := bit (f 62 1) 0, fwd := bit (f 62 1) 1,
    copy := bit (f 62 1) 2, mask := BitVec.ofNat 1024 (f 64 128), aux := BitVec.ofNat 1024 (f 192 128), again := true }

/-- An entry as its 320 bytes in memory give it; what the layout of R285 does not hold of it is as it was. -/
def Entry.reread (e : Entry) (bs : List Byte) : Entry :=
  { entryOf bs with detail := e.detail, outer := e.outer, mark := e.mark, again := e.again }

/-- Where the i-th spilled entry of the issuing team lies, counted from the oldest (R287). -/
def Team.spillVa (t : Team) (i : Nat) : Nat := t.spillBase + 320 * i

/-- The issuing team with its newest n spilled entries as the spill area's memory holds them (R84, R287). A rebrew slot has no
memory of its own, so its spilled entries are as they were (log 40). -/
def State.rereadTeam (s : State) (n : Nat) : Team :=
  let t := s.team
  if t.rebrew.isSome then t
  else
    { t with spilled := t.spilled.zipIdx.map fun p =>
        if p.2 + n < t.spilled.length then p.1
        else match s.readVirt s.ctx (t.spillVa p.2) 320 with | some bs => p.1.reread bs | none => p.1 }

/-- The fault that reading back the newest n spilled entries meets (R287): the cause and the address. -/
def State.spillFault (s : State) (n : Nat) : Option (Cause × Nat) :=
  let t := s.team
  (List.range (if t.rebrew.isSome then 0 else min n t.spilled.length)).findSome? fun i =>
    let a := t.spillVa (t.spilled.length - 1 - i)
    match s.translate s.ctx a .read, s.translate s.ctx (a + 319) .read with
    | .error c, _ => some (c, a)
    | _, .error c => some (c, a + 319)
    | _, _ => none

/-- A fault of a read-back, precise at the word that needs the entry (R287). -/
def spillTrap (c : Cause) (a : Nat) : Res := .trap c 0 { addr := BitVec.ofNat 64 a, walk := some (a, 1) }

/-- A body that reads the newest n spilled entries. -/
def withSpilled (s : State) (n : Nat) (k : State → Res) : Res :=
  if n = 0 ∨ s.team.spilled.isEmpty then k s
  else match s.spillFault n with
    | some (c, a) => spillTrap c a
    | none => k (s.setTeam (s.rereadTeam n))

/-- A body that reads entries from the newest down, below the on-chip ones as well (R287): how many it reads follows from the
entries themselves. -/
def onEntries (s : State) (need : List Entry → Nat) (k : State → Res) : Res :=
  withSpilled s (need (s.rereadTeam 64).entries - s.team.stack.length) k

/-- A body that reads the top entry, which must be of one of the kinds named (R286). -/
def onTop (s : State) (kinds : List EntryKind) (k : State → Entry → Res) : Res :=
  withSpilled s (if s.team.stack.isEmpty then 8 else 0) fun s =>
    match s.team.top with
    | none => .trap .illegal 0 {}
    | some e => if kinds.contains e.kind then k s e else .trap .illegal 0 {}

/-- Replaces the entry that is j entries below the newest. -/
def Team.setEntry (t : Team) (j : Nat) (e : Entry) : Team :=
  if j < t.stack.length then { t with stack := t.stack.set j e }
  else { t with spilled := t.spilled.set (t.spilled.length - 1 - (j - t.stack.length)) e }

/-- Changes the newest n entries. -/
def Team.mapEntries (t : Team) (n : Nat) (f : Entry → Entry) : Team :=
  let keep := t.spilled.length - (n - t.stack.length)
  { t with stack := (t.stack.take n).map f ++ t.stack.drop n,
           spilled := t.spilled.take keep ++ (t.spilled.drop keep).map f }

/-- The issuing team takes new entries: each spilled one that differs is written to the spill area (R287). Where the area cannot
be written the host has unmapped the pool (R367). -/
def State.putEntries (s : State) (t : Team) : State :=
  let changed := ((t.spilled.zip s.team.spilled).zipIdx.filter fun p => p.1.1 != p.1.2).map fun p => (p.2, p.1.1)
  if t.rebrew.isSome then s.setTeam t
  else match changed.foldlM (fun (s : State) p => s.writeVirt s.ctx (t.spillVa p.1) p.2.bytes) s with
    | some s1 => s1.setTeam t
    | none => s.endWith t.launch .host .unmap (some s.cur) t.pc

/-- Discards the newest n entries. -/
def Team.dropEntries (t : Team) (n : Nat) : Team :=
  { t with stack := t.stack.drop n, spilled := t.spilled.take (t.spilled.length - (n - t.stack.length)) }

/-! Places that control can reach. -/

/-- The words that control may reach: those of the kernel, or of the slice in a rebrew slot (R56, R345), as the first
address and the address after the last. -/
def State.codeSpan (s : State) : Nat × Nat :=
  match s.team.rebrew with
  | some r => (r.entry, r.entry + r.bytes)
  | none => match s.imageOf s.launch.ctx s.launch.image with
    | none => (0, 0)
    | some m => (m.codeVa + 4 * s.kernel.entry, m.codeVa + 4 * (s.kernel.entry + s.kernel.clen))

/-- An address is a header within the kernel's code. -/
def State.inCode (s : State) (a : Nat) : Bool :=
  s.isHeader s.ctx a && decide (s.codeSpan.1 ≤ a ∧ a < s.codeSpan.2)

/-- The bound on CALL entries: DEPTH of the kernel, or CDEPTH of the slice (R289, R347). -/
def State.callBound (s : State) : Nat :=
  match s.team.rebrew with | some r => r.cdepth | none => s.kernel.depth

/-- A header that some direct call of the kernel or slice targets (R289). -/
def State.callTarget (s : State) (a : Nat) : Bool :=
  s.inCode a && match s.team.rebrew with
    | some r => r.callees.contains a
    | none => s.kernel.callees.contains ((a - (s.codeSpan.1 - 4 * s.kernel.entry)) / 4)

/-- The target of an offset in words from the word itself (R35). -/
def State.target (s : State) (o : BitVec 20) : BitVec 48 := s.team.pc + 4 * BitVec.signExtend 48 o

/-- The header after the clause of the word that issues. -/
def State.after (s : State) : BitVec 48 := BitVec.ofNat 48 (s.nextHeader s.team.pc.toNat)

/-- The fault of fetching the word that control moves to, raised at the transferring word before any effect (R365). A
word that the core holds needs no translation. -/
def toWord (s : State) (a : BitVec 48) (k : Res) : Res :=
  if (s.code a.toNat).isSome then k
  else match s.accessFault s.ctx a.toNat .exec with
    | some c => .trap c 0 { addr := BitVec.setWidth 64 a, walk := some (a.toNat, 4) }
    | none => k

/-- Control moves to a word with no other effect. -/
def jumpTo (s : State) (a : BitVec 48) (sw : Bool) : Res := toWord s a (.moved (s.goTo a sw))

/-! Branches, calls, returns. -/

/-- br: PC = t (R289). -/
def execBr (sw : Bool) (o : BitVec 20) (s : State) : Out :=
  run s sw 1 {} fun s => jumpTo s (s.target o) sw

/-- bcc: PC = t when the condition holds on cc (R35, R289). -/
def execBcc (sw : Bool) (c : BitVec 4) (o : BitVec 20) (s : State) : Out :=
  run s sw 1 {} fun s => if condHolds c s.team.cc then jumpTo s (s.target o) sw else .ok s

/-- bmz: the branch is taken when the mask has no lane of exec (R289). -/
def execBmz (sw : Bool) (k : KReg) (o : BitVec 20) (s : State) : Out :=
  run s sw 1 { kr := [k] } fun s =>
    if s.team.getK k &&& s.team.exec = 0 then jumpTo s (s.target o) sw else .ok s

/-- bmnz: the branch is taken when the mask has a lane of exec (R289). -/
def execBmnz (sw : Bool) (k : KReg) (o : BitVec 20) (s : State) : Out :=
  run s sw 1 { kr := [k] } fun s =>
    if s.team.getK k &&& s.team.exec = 0 then .ok s else jumpTo s (s.target o) sw

/-- A call to t (R289): the CALL entry, lk, and control. -/
def callTo (s : State) (sw : Bool) (t : BitVec 48) : Res :=
  let u := s.team
  let e : Entry := { kind := .call, mask := u.exec, rpc := s.after, at_ := u.pc, fm := u.fm }
  toWord s t (.moved (s.pushOr e fun s1 => (s1.setTeam (s1.team.setS 63 (BitVec.setWidth 64 s.after))).goTo t sw))

/-- call and calli (R283, R289): with an empty exec nothing but the step past the clause; else the depth bound, the
check of the target, and the call. -/
def callOp (s : State) (sw : Bool) (reads : List SReg) (ok : State → Bool) (t : State → BitVec 48) : Out :=
  run s sw 1 { sr := reads, sw := if s.team.exec = 0 then [] else [63] } fun s =>
    if s.team.exec = 0 then .moved (s.goTo s.after sw)
    else onEntries s List.length fun s =>
      if s.team.callDepth ≥ s.callBound then .trap .depth 0 {}
      else if ok s then callTo s sw (t s) else .trap .illegal 0 {}

/-- call (R289). -/
def execCall (sw : Bool) (o : BitVec 20) (s : State) : Out := callOp s sw [] (fun _ => true) fun s => s.target o

/-- calli: the target is a header that a direct call of the kernel targets (R289). -/
def execCalli (sw : Bool) (a : SReg) (s : State) : Out :=
  callOp s sw [a] (fun s => s.callTarget (s.team.getS a).toNat) fun s => BitVec.setWidth 48 (s.team.getS a)

/-- ret: the CALL entry restores exec and fm, and control returns to its header (R289). -/
def execRet (sw : Bool) (s : State) : Out :=
  run s sw 1 {} fun s => onTop s [.call] fun s e =>
    if s.isHeader s.ctx e.rpc.toNat then
      let t := s.team
      toWord s e.rpc (.moved ((s.setTeam ((t.pop.setExec (e.mask &&& t.k0)).setFm e.fm)).goTo e.rpc sw))
    else .trap .illegal 0 {}

/-- jmp: to a header after the word and within the kernel (R289). -/
def execJmp (sw : Bool) (a : SReg) (s : State) : Out :=
  run s sw 1 { sr := [a] } fun s =>
    let x := (s.team.getS a).toNat
    if s.team.pc.toNat < x ∧ s.inCode x then jumpTo s (BitVec.ofNat 48 x) sw else .trap .illegal 0 {}

/-- nop (R289). -/
def execNop (sw : Bool) (s : State) : Out := run s sw 1 {} .ok

/-- exit (R155, R223, R290): outside handlers and rebrew slots; once the team's copies, matrix work, atomics and
reductions are complete, the lanes of exec leave k0. -/
def execExit (sw : Bool) (s : State) : Out :=
  run s sw 1 {} fun s =>
    let t := s.team
    if t.inRebrew ∨ t.inHandler then .trap .illegal 0 {}
    else match faultOf t.copies with
      | some (c, cause, d) => .moved (s.raiseCopy c cause d)
      | none =>
        if t.copies.isEmpty ∧ t.atoms.isEmpty ∧ t.mqueue.isEmpty then
          .moved ((s.setTeam ((t.setK0 (t.k0 &&& ~~~t.exec)).setExec 0)).goTo s.after sw)
        else .moved (s.setTeam { t with wait := .drain false })

/-! Masked arms. -/

/-- mif (R291). -/
def execMif (sw : Bool) (k : KReg) (o : BitVec 20) (s : State) : Out :=
  run s sw 1 { kr := [k] } fun s =>
    let t := s.team
    let m := t.exec &&& t.getK k
    let e : Entry := { kind := .ifArm, mask := t.exec, aux := t.exec &&& ~~~t.getK k, at_ := s.target o, fm := t.fm }
    let go : Res := .moved (s.pushOr e fun s1 =>
      let s2 := s1.setTeam (s1.team.setExec m)
      if m = 0 then s2.goTo (s.target o) sw else s2.advance 1 sw)
    if m = 0 then toWord s (s.target o) go else go

/-- melse (R291), also where it is not first in its clause (log 71). -/
def execMelse (sw : Bool) (o : BitVec 20) (s : State) : Out :=
  run s sw 1 {} fun s => onTop s [.ifArm] fun s e =>
    let t := s.team
    let m := e.aux &&& t.k0
    let s1 := s.setTeam (((t.setTop { e with kind := .elseArm, rpc := s.target o, aux := 0 }).setExec m).setFm e.fm)
    if m = 0 then toWord s (s.target o) (.moved (s1.goTo (s.target o) sw)) else .ok s1

/-- The trip that a demoted loop begins anew holds what issues from here on (R276). A spilled entry stays in the spill area: the mark
is no part of what memory holds of it. -/
def Team.remark (t : Team) (mark : Nat) : Team :=
  let anew (e : Entry) : Entry := if e.kind = .loop then { e with mark := mark } else e
  match t.stack with
  | e :: es => { t with stack := anew e :: es }
  | [] => { t with spilled := t.spilled.dropLast ++ (t.spilled.getLast?.map anew).toList }

/-- mend (R291), also where it is not first in its clause (log 71): a demoted entry resumes its loop (R295). -/
def execMend (sw : Bool) (s : State) : Out :=
  run s sw 1 {} fun s => onTop s [.ifArm, .elseArm] fun s e =>
    let t := s.team
    let t1 := t.pop.setExec (e.mask &&& t.k0)
    if e.demoted then toWord s e.at_ (.moved ((s.bump.setTeam ((t1.setFm e.dfm).remark (s.seq + 1))).goTo e.at_ sw))
    else .ok (s.setTeam (t1.setFm e.fm))

/-! Loops. -/

/-- The two address steps of a step word: the register and the step in bytes (R72, R296). -/
def loopSteps (w : Word) : List (SReg × DWord) :=
  [(BitVec.extractLsb' 26 6 w, 4 * BitVec.signExtend 64 (BitVec.extractLsb' 16 10 w)),
   (BitVec.extractLsb' 10 6 w, 4 * BitVec.signExtend 64 (BitVec.extractLsb' 0 10 w))]

/-- ApplySteps (R296). -/
def Team.applySteps (t : Team) (w : Word) : Team :=
  (loopSteps w).foldl (fun t p => t.setS p.1 (t.getS p.1 + p.2)) t

/-- A step changes a register (R276). -/
def stepMoves (w : Word) : Bool := (loopSteps w).any fun p => p.1 != 0 && p.2 != 0

/-- The team stands behind every other ready team of its launch (R276). -/
def State.renew (s : State) : State := (s.setTeam { s.team with stamp := s.seq + 1, renewed := s.seq + 1 }).bump

/-- The sibling of R295 among the entries below a loop: how many entries lie above it, and the entry. -/
def siblingOf : List Entry → Nat → Option (Nat × Entry)
  | [], _ => none
  | e :: es, i =>
    if e.kind = .call ∨ e.kind = .trap ∨ e.demoted then none
    else if e.kind = .ifArm ∧ e.aux ≠ 0 then some (i, e)
    else siblingOf es (i + 1)

/-- How many entries the search of `siblingOf` reads. -/
def siblingReads : List Entry → Nat
  | [] => 0
  | e :: es => if e.kind = .call ∨ e.kind = .trap ∨ e.demoted ∨ e.kind = .ifArm ∧ e.aux ≠ 0 then 1 else 1 + siblingReads es

/-- Demote (R295), with the loop's entry on top. -/
def State.demote (s : State) : State :=
  let t := s.team
  match siblingOf t.entries.tail 1 with
  | none => s.renew
  | some (i, e) =>
    if t.stack.length ≥ 16 then s.renew
    else
      let d : Entry := { kind := .ifArm, demoted := true, mask := t.exec, aux := e.aux, at_ := t.pc, fm := e.fm,
                         dfm := t.fm, trips := BitVec.ofNat 32 i }
      let t1 := ((t.setEntry i { e with aux := 0 }).push d).setExec 0
      s.putEntries { t1 with pc := e.at_ }

/-- The trip just ended is a spin trip (R276): nothing that belongs to it has changed anything, and no result of it is still
to be written (log 20). -/
def Team.spun (t : Team) (e : Entry) : Bool :=
  decide (t.changes < e.mark) && t.pend.all (fun p => decide (p.id < e.mark)) && !stepMoves e.steps

/-! The loop buffer (R296). -/

/-- Trip 1 of a loop begins: the buffer of the pipe captures a body of at most 32 words, from its first header through its lpe,
and holds nothing else. -/
def State.beginCapture (s : State) (first exit_ : Nat) : State :=
  let n := (exit_ - first) / 4
  if 1 ≤ n ∧ n ≤ 32 then
    { s with loopBuffers := s.loopBuffers.set s.team.pipe { team := s.cur, first := first, span := n, filling := true, words := [] } }
  else s

/-- Trip 1 is over. -/
def State.endCapture (s : State) : State :=
  match s.loopBuffers.find? s.team.pipe with
  | some b => if b.team = s.cur ∧ b.filling then { s with loopBuffers := s.loopBuffers.set s.team.pipe { b with filling := false } } else s
  | none => s

/-- The words that the team has fetched in trip 1 enter the buffer that was filling in the state `old`, and that still holds the
same body. -/
def State.capture (s old : State) (vas : List Nat) : State :=
  match old.loopBuffers.find? old.team.pipe, s.loopBuffers.find? old.team.pipe with
  | some b, some b1 =>
    if b.team = old.cur ∧ b.filling ∧ b1.team = b.team ∧ b1.first = b.first then
      let held := (vas.filter fun a => decide (b.first ≤ a ∧ a < b.first + 4 * b.span)).foldl (fun (ws : Tab Word) a =>
        match old.code a with | some w => ws.set a w | none => ws) b1.words
      { s with loopBuffers := s.loopBuffers.set old.team.pipe { b1 with words := held } }
    else s
  | _, _ => s

/-- The loop goes on with another trip (R293, R296): the steps, the counts, and the lanes that take part. -/
def State.nextTrip (s : State) (e : Entry) (next : Mask) (sw : Bool) : State :=
  let t := s.team
  let e1 := { e with aux := 0, trips := e.trips - 1, count := if e.whileLoop then e.count else e.count - 1,
                     mark := s.seq + 1, again := true }
  (s.bump.setTeam (((t.applySteps e.steps).setTop e1).setExec next)).goTo e.at_ sw

/-- EndTrip (R293), with the loop's entry on top. -/
def endTrip (s : State) (sw : Bool) : Res :=
  onTop s [.loop] fun s e =>
    let t := s.team
    let next := (t.exec ||| e.aux) &&& t.k0
    let s0 := if e.again then s else s.endCapture
    if next = 0 ∨ (e.whileLoop = false ∧ e.count = 0) then
      toWord s e.rpc (.moved ((s0.setTeam ((t.pop.setExec (e.mask &&& t.k0)).setFm e.fm)).goTo e.rpc sw))
    else if e.trips ≠ 0 ∧ t.pend.any (fun p => (loopSteps e.steps).any fun q => p.dst.hitsS q.1) then
      .trap .hazard 0 {}
    else if e.trips = 0 then .trap .trip next {}
    else if t.spun e then
      onEntries s (fun es => if t.readBack.stack.length < 16 then 1 + siblingReads es.tail else 0) fun s =>
        toWord s e.at_ (.moved ((if e.again then s else s.endCapture).nextTrip e next sw).demote)
    else toWord s e.at_ (.moved (s0.nextTrip e next sw))

/-- lpb and lpb.w once their count is known (R292). -/
def openLoop (s : State) (sw : Bool) (o : BitVec 15) (bound steps : BitVec 32) (w : Bool) (count : Word) : Res :=
  let t := s.team
  let exit_ := t.pc + 4 * BitVec.setWidth 48 o
  let e : Entry := { kind := .loop, whileLoop := w, mask := t.exec, at_ := s.after, rpc := exit_, trips := bound - 1,
                     count := count, steps := steps, fm := t.fm, mark := s.seq + 1 }
  .moved (s.pushOr e fun s1 => (s1.bump.beginCapture s.after.toNat exit_.toNat).goTo s.after sw)

/-- lpb (R292). -/
def execLpb (sw : Bool) (d : SReg) (o : BitVec 15) (bound steps : BitVec 32) (s : State) : Out :=
  run s sw 3 { sr := [d] } fun s =>
    let n := (s.team.getS d).toNat
    if s.team.exec = 0 ∨ n = 0 then jumpTo s (s.team.pc + 4 * BitVec.setWidth 48 o) sw
    else openLoop s sw o bound steps false (BitVec.ofNat 32 (min n (2 ^ 32) - 1))

/-- lpb.w (R292). -/
def execLpbW (sw : Bool) (o : BitVec 15) (bound steps : BitVec 32) (s : State) : Out :=
  run s sw 3 {} fun s =>
    if s.team.exec = 0 then jumpTo s (s.team.pc + 4 * BitVec.setWidth 48 o) sw
    else openLoop s sw o bound steps true 0

/-- lpe (R293). -/
def execLpe (sw : Bool) (_o : BitVec 20) (s : State) : Out := run s sw 1 {} fun s => endTrip s sw

/-- FindLoop (R294): how many entries lie above the innermost loop of the current function. -/
def findLoop : List Entry → Nat → Nat → Option Nat
  | [], _, _ => none
  | _ :: es, skip + 1, i => findLoop es skip (i + 1)
  | e :: es, 0, i =>
    match e.kind with
    | .loop => some i
    | .call | .trap => none
    | .ifArm | .elseArm => findLoop es (if e.demoted then e.trips.toNat else 0) (i + 1)

/-- How many entries FindLoop reads. -/
def loopReads : List Entry → Nat → Nat
  | [], _ => 0
  | _ :: es, skip + 1 => 1 + loopReads es skip
  | e :: es, 0 =>
    match e.kind with
    | .loop | .call | .trap => 1
    | .ifArm | .elseArm => 1 + loopReads es (if e.demoted then e.trips.toNat else 0)

/-- mbrk and mcont (R294): the lanes leave the innermost loop, or park until its next trip. -/
def leaveLoop (s : State) (sw : Bool) (k : KReg) (cont : Bool) : Res :=
  onEntries s (loopReads · 0) fun s => match findLoop s.team.entries 0 0 with
    | none => .trap .illegal s.team.exec {}
    | some n =>
      let t := s.team
      let b := t.exec &&& t.getK k
      let t1 := (t.setExec (t.exec &&& ~~~b)).mapEntries n fun e =>
        { e with mask := e.mask &&& ~~~b, aux := e.aux &&& ~~~b }
      let t2 := match t1.entries[n]? with
        | some l => if cont then t1.setEntry n { l with aux := l.aux ||| b } else t1
        | none => t1
      if t2.exec = 0 ∧ (t2.entries.take n).all (fun e => e.mask == 0 && e.aux == 0) then
        let s1 := s.putEntries t2
        endTrip (s1.setTeam (s1.team.dropEntries n)) sw
      else .ok (s.putEntries t2)

/-- mbrk (R294). -/
def execMbrk (sw : Bool) (k : KReg) (s : State) : Out := run s sw 1 { kr := [k] } fun s => leaveLoop s sw k false

/-- mcont (R294). -/
def execMcont (sw : Bool) (k : KReg) (s : State) : Out := run s sw 1 { kr := [k] } fun s => leaveLoop s sw k true

/-! trap, brk and tret. -/

/-- trap: SYSCALL with its code; it resumes at the header after its clause (R380, R387). -/
def execTrap (sw : Bool) (c : BitVec 8) (s : State) : Out :=
  run s sw 1 {} fun s => .moved ((s.takeTrapAt .syscall 0 { sub := c } s.team.pc s.after).parkAfter sw)

/-- brk: BKPT with its code; it resumes at the word after it (R380, R387). -/
def execBrk (sw : Bool) (c : BitVec 8) (s : State) : Out :=
  run s sw 1 {} fun s => .moved ((s.takeTrapAt .bkpt 0 { sub := c } s.team.pc (s.team.pc + 4)).parkAfter sw)

/-- Marked literals that stand directly after a word in its clause. -/
def State.literalsAfter (s : State) (va : Nat) : Nat :=
  match s.clauseAt s.ctx va with
  | none => 0
  | some h => match s.code h with
    | none => 0
    | some w => ((List.range 15).takeWhile fun i =>
        decide ((va - h) / 4 + i < 15) && bit w.toNat (5 + ((va - h) / 4 + i))).length

/-- The address after n words of a routine, headers between them not counted (R76, R164). -/
def State.skipWords (s : State) (va : Nat) : Nat → Nat
  | 0 => va
  | n + 1 => s.skipWords ((if s.isHeader s.ctx va then va + 4 else va) + 4) n

/-- NEXT (R380): the first word after the construct that begins at a word. -/
def State.nextOf (s : State) (va : Nat) : Nat :=
  if s.isHeader s.ctx va then s.nextHeader va
  else match s.code va with
    | none => va + 4
    | some w =>
      let n := s.literalsAfter va
      if (opOf w).toNat = 0x7E then
        if n = 0 then va + 8 + 4 * s.literalsAfter (va + 4)
        else
          let len := bits ((s.code (va + 4)).getD 0).toNat 19 16 + 1
          s.skipWords (va + 8) len
      else match decode w [1, 1] with
        | .ok (.instr i) => if transfers i then s.nextHeader va else va + 4 + 4 * n
        | _ => va + 4 + 4 * n

/-- tret (R384, R388): a terminal run ends the grid; another resumes at RPC, or at NEXT when s59 is zero. -/
def execTret (sw : Bool) (s : State) : Out :=
  run s sw 1 { sr := [59], sw := [59, 60, 61] } fun s => onTop s [.trap] fun s e =>
    let t := s.team
    let r := t.getS 59
    if e.term then .moved (s.endTerminal e)
    else if r = BitVec.setWidth 64 e.rpc ∨ r = 0 then
      let pc := if r = BitVec.setWidth 64 e.rpc then e.rpc else BitVec.ofNat 48 (s.nextOf e.at_.toNat)
      let isRep := match s.code pc.toNat with
        | some w => (opOf w).toNat == 0x7E && s.literalsAfter pc.toNat == 0
        | none => false
      let t1 := t.leaveHandler e pc isRep
      toWord s pc (.moved (s.setTeam { t1 with wait := parkIf t1 s.seq sw }))
    else .trap .illegal t.exec {}

end Sys2Proof.Machine
end

