-- ==== Sys2Proof/Machine/Engines.lean ====
section
/-! DEFINITION. Memory as the agents see it: the places that accesses reach, what engines own and have still to read, releases and
acquires, and the moments at which a read's value is fixed and a store is accepted and performs (R182 to R188, R199, R206, R234
to R246). -/
namespace Sys2Proof.Machine

/-! Places. -/

/-- The place of a stash byte: a plain byte, or the global byte that a mapped range stands for (R183, R211). -/
def Block.place (b : Block) (off : Nat) : Place :=
  match b.maps.find? fun m => decide (m.off ≤ off ∧ off < m.off + m.len) with
  | .none => .stash off
  | .some m =>
    let va := m.va + (off - m.off)
    match m.pages.find? fun p => p.page = va / 65536 with
    | .some p => .lin (p.frame * 65536 + va % 65536)
    | .none => .stash off

/-- Two accesses of n and m bytes share a 4-byte word. -/
def Place.meets (p : Place) (n : Nat) (q : Place) (m : Nat) : Bool :=
  match p, q with
  | .lin a, .lin b | .stash a, .stash b | .priv a, .priv b =>
    decide (a / 4 ≤ (b + m - 1) / 4 ∧ b / 4 ≤ (a + n - 1) / 4)
  | _, _ => false

/-- The bytes of an access of width code w (R200). -/
def widthBytes (w : Nat) : Nat := 2 ^ w

/-! Stores. -/

/-- A store's bytes share a 4-byte word with n bytes at a place. A place in stash lies in the store's block. -/
def Write.meetsBytes (w : Write) (p : Place) (n : Nat) : Bool :=
  match w, p with
  | .lin pa d, .lin _ => (Place.lin pa).meets d.length p n
  | .stash _ off d, .stash _ => (Place.stash off).meets d.length p n
  | _, _ => false

/-- Two stores of a core act on one word or on one tile. -/
def Write.meets (v w : Write) : Bool :=
  match v, w with
  | .lin pa d, _ => w.meetsBytes (.lin pa) d.length
  | .stash b off d, .stash c _ _ => b == c && w.meetsBytes (.stash off) d.length
  | _, _ => v.tile?.isSome && v.tile? == w.tile?

/-- The physical line of a store of bytes. -/
def Write.line? : Write → Option Nat
  | .lin pa _ => some (pa / 512)
  | _ => none

/-- A store of bytes lies on a physical page of 64 KiB. -/
def Write.onPage (w : Write) (page : Nat) : Bool := match w with | .lin pa _ => pa / 65536 == page | _ => false

/-- The home slice of a store is on a base die (R174). -/
def Write.homedOn (w : Write) (die : Nat) : Bool :=
  match w with
  | .lin pa _ => homeDie pa == die
  | .stash .. => false
  | _ => w.tile?.any fun n => n.home / 32 == die

/-- A store that performs at blk before its home slice orders it, or in plain stash (R236). -/
def Store.acceptable (w : Store) : Bool :=
  !w.stream && match w.what with | .lin .. | .stash .. | .tile .. => true | _ => false

/-- The issuing team's store, which nothing has accepted yet. -/
def State.putStore (s : State) (what : Write) (stream : Bool := false) : State :=
  ({ s with stores := s.stores ++ [{ id := s.seq, core := s.team.core, launch := s.team.launch, team := s.cur, what := what,
                                     stream := stream, accepted := false }] } : State).bump

/-- The byte of linear memory that a team on a core reads (R236): that of the last store that the core has accepted, else what the
home slices have ordered. -/
def State.coreByte (s : State) (core pa : Nat) : Byte :=
  let byte (w : Store) : Option Byte := match w.what with
    | .lin a d => if w.core = core ∧ w.accepted ∧ a ≤ pa ∧ pa < a + d.length then d[pa - a]? else none
    | _ => none
  ((s.stores.filterMap byte).getLast?).getD (s.mem.read pa)

/-- The line of a tile that a team on a core reads (R236): that of the last store that the core has accepted, else the home
slice's. -/
def State.coreTile (s : State) (core : Nat) (n : TileName) : Option (List Word) :=
  let line (w : Store) : Option (List Word) := match w.what with
    | .tile _ m ws _ => if w.core = core ∧ w.accepted ∧ m = n then some ws else none
    | _ => none
  ((s.stores.filterMap line).getLast?).or ((s.tileLine n).map (·.words))

/-- A byte of a team's private area (R186). -/
def State.privByte (s : State) (t : Team) (va : Nat) : Byte :=
  match t.privMem.find? va with
  | some b => b
  | none => match s.translateOn (some t.pipe) (s.launchOf t.launch).ctx va .read with
    | .ok pa => s.mem.read pa
    | .error _ => 0

/-- The i-th byte from a place, as a team reads it. -/
def State.placeByte (s : State) (team : Nat) (p : Place) (i : Nat) : Byte :=
  let t := s.teamOf team
  match p with
  | .lin pa => s.coreByte t.core (pa + i)
  | .stash off => (s.blockOf t.block).stash.read (off + i)
  | .priv va => s.privByte t (va + i)

/-- The value of n bytes from a place, little-endian (R4). A private doubleword has its halves apart (R200): its
second word lies `gap` bytes on. -/
def State.placeValue (s : State) (team : Nat) (p : Place) (n gap : Nat) : DWord :=
  BitVec.ofNat 64 (ofBytesLE ((List.range n).map fun i => s.placeByte team p (if 4 ≤ i then i - 4 + gap else i)))

/-- How far apart the two words of a doubleword lie at a place (R185, R200). -/
def Team.gapOf (t : Team) : Place → Nat
  | .priv _ => 4 * t.tsize
  | _ => 4

/-! What engine work still has to touch in the block's stash. -/

/-- Bytes of B that one step of a matrix form reads, scale bytes included (R140 to R142). -/
def bSpan (i : Instr) (fm : Word) : Nat :=
  let scaled (k : Nat) : Nat := match Fm.scl fm with
    | 0 => 1024
    | 3 => 1025
    | n => 1024 + 124 + k * n / 32
  match i with
  | .mmaF8 .. | .mmlF8 .. => scaled 32
  | .mmaF4 .. | .mmlF4 .. => scaled 64
  | .mmaH16 .. | .mmlH16 .. => 512
  | .tsa .. | .tsl .. => 2048
  | .zld .. | .zst .. => 4096
  | .zclr .. | .zcvt .. => 0
  | _ => 1024

/-- The step of the B offset in bytes (R146). -/
def bStep : Instr → Int
  | .mmlBf16 _ _ _ _ _ _ _ i | .mmlF16 _ _ _ _ _ _ _ i | .mmlF8 _ _ _ _ _ _ _ i | .mmlF4 _ _ _ _ _ _ _ i
  | .mmlI8 _ _ _ _ _ _ _ i | .mmlH16 _ _ _ _ _ _ _ i | .tsl _ _ _ _ _ _ _ i => 128 * i.toInt
  | _ => 0

/-- A store of a tile to stash. -/
def isZst : Instr → Bool
  | .zst .. => true
  | _ => false

/-- A zst has begun: it has written a line, or taken one (R156, R187). -/
def MItem.begun (m : MItem) : Bool := m.done != 0 || m.owned != 0

/-- The stash ranges that the steps left of a queued item touch. -/
def MItem.spans (m : MItem) : List (Nat × Nat) :=
  if isZst m.instr then [(m.nextB + m.done, 4096 - m.done)]
  else if bSpan m.instr m.fm = 0 then []
  else (List.range m.stepsLeft).map fun (j : Nat) =>
    (((m.nextB : Int) + (j : Int) * bStep m.instr).toNat, bSpan m.instr m.fm)

/-- A copy has still to go on: it runs, or it has stopped where it may be resumed (R187, R219). It keeps the lines that it has
taken. -/
def Copy.keepsLines (c : Copy) : Bool := c.fault.all fun f => f.2.translation

/-- The stash range that a copy of a team of a block has still to write in that block. -/
def Copy.writesStash (c : Copy) (block : Nat) : List (Nat × Nat) :=
  let left := if c.keepsLines then [(c.dst + c.done, c.count - c.done)] else []
  match c.kind with
  | .bytes true _ | .tileToStash => left
  | .multicast => if c.targets.contains block then left else []
  | _ => []

/-- The stash range that a copy has still to read. -/
def Copy.readsStash (c : Copy) : List (Nat × Nat) :=
  match c.kind with
  | .bytes _ true | .stashToTile => if c.keepsLines then [(c.src + c.done, c.count - c.done)] else []
  | _ => []

/-- Two byte ranges overlap. -/
def rangesMeet (a n b m : Nat) : Bool := decide (a < b + m ∧ b < a + n ∧ 0 < n ∧ 0 < m)

/-- Stash ranges that the team's engine work with a smaller number has still to write. -/
def Team.stashWrites (t : Team) (before : Nat) : List (Nat × Nat) :=
  (t.copies.filter fun c => c.id < before).flatMap (Copy.writesStash · t.block)
    ++ (t.mqueue.filter fun m => m.id < before && isZst m.instr).flatMap MItem.spans

/-- Stash ranges that the team's engine work with a smaller number has still to read. -/
def Team.stashReads (t : Team) (before : Nat) : List (Nat × Nat) :=
  (t.copies.filter fun c => c.id < before).flatMap Copy.readsStash
    ++ (t.mqueue.filter fun m => m.id < before && !isZst m.instr).flatMap MItem.spans

/-- The team's earlier engine work keeps an access to stash bytes waiting (R147, R153, R206). -/
def Team.stashBusy (t : Team) (before off n : Nat) (write : Bool) : Bool :=
  (t.stashWrites before).any (fun r => rangesMeet off n r.1 r.2)
    || write && (t.stashReads before).any fun r => rangesMeet off n r.1 r.2

/-! What engines own in global memory. -/

/-- The pieces of a range that end at destination line boundaries: offset and length (R187, R218). -/
def pieces (dst count : Nat) : Nat → Nat → List (Nat × Nat)
  | 0, _ => []
  | n + 1, off =>
    if count ≤ off then []
    else
      let len := min (count - off) (512 - (dst + off) % 512)
      (off, len) :: pieces dst count n (off + len)

/-- The pieces of a copy from an offset on. -/
def Copy.from_ (c : Copy) (off : Nat) : List (Nat × Nat) := pieces c.dst c.count (c.count / 512 + 2) off

/-- The pieces that a copy has still to write. -/
def Copy.left (c : Copy) : List (Nat × Nat) := c.from_ c.done

/-- The physical address of a byte of virtual memory of a team's context. -/
def State.paOf (s : State) (t : Team) (va : Nat) (n : Need) : Option Nat :=
  match s.translateOn (some t.pipe) (s.launchOf t.launch).ctx va n with
  | .ok pa => some pa
  | .error _ => none

/-- The place of a byte of a copy's destination in the issuing block, or of its source. -/
def State.copyPlace (s : State) (t : Team) (stash : Bool) (a : Nat) (n : Need) : Option Place :=
  if stash then some ((s.blockOf t.block).place a) else (s.paOf t a n).map .lin

/-- The place of a byte of a copy's destination: in the issuing block, in cpym's target, or in global memory. -/
def State.dstPlace (s : State) (t : Team) (c : Copy) (off : Nat) : Option Place :=
  match c.kind with
  | .bytes st _ => s.copyPlace t st (c.dst + off) .write
  | .tileToStash => s.copyPlace t true (c.dst + off) .write
  | .multicast => c.targets.head?.map fun b => (s.blockOf b).place (c.dst + off)
  | .stashToTile => none

/-- The line of a place in global memory. -/
def Place.line? : Place → Option Nat
  | .lin pa => some (pa / 512)
  | _ => none

/-- The physical line of a piece of a copy's destination, when it is global or mapped. -/
def State.dstLine (s : State) (t : Team) (c : Copy) (off : Nat) : Option Nat := (s.dstPlace t c off).bind Place.line?

/-- The place of a byte of a copy's source; none for a tile. -/
def State.srcPlace (s : State) (t : Team) (c : Copy) (off : Nat) : Option Place :=
  match c.kind with
  | .bytes _ st => s.copyPlace t st (c.src + off) .read
  | .multicast => s.copyPlace t false (c.src + off) .read
  | .stashToTile => s.copyPlace t true (c.src + off) .read
  | .tileToStash => none

/-- The physical lines of a copy's source that it has still to read. -/
def State.srcLines (s : State) (t : Team) (c : Copy) : List Nat :=
  (pieces c.src c.count (c.count / 512 + 2) c.done).filterMap fun p => (s.srcPlace t c p.1).bind Place.line?

/-- The physical lines of mapped ranges that some stash ranges of a block touch. -/
def Block.spanLines (b : Block) (spans : List (Nat × Nat)) : List Nat :=
  if b.maps.isEmpty then []
  else (spans.flatMap fun r => (List.range ((r.2 + 127) / 128)).filterMap fun i => (b.place (r.1 + 128 * i)).line?).eraseDups

/-- The lines that a zst writes, by offset from the first byte. -/
def MItem.from_ (m : MItem) (off : Nat) : List (Nat × Nat) := if isZst m.instr then pieces m.nextB 4096 9 off else []

/-- The pieces that a zst has still to write. -/
def MItem.left (m : MItem) : List (Nat × Nat) := m.from_ m.done

/-- Where a block's image holds the block's stash (R390). -/
def State.stashVa (s : State) (b : Block) : Nat := b.imageVa + 512 + 320 * (s.kernelOf (s.launchOf b.launch)).teams

/-- Writes an engine's bytes at a place. A copy runs on while a pre-emption holds its block: what it writes to the block's stash goes
to the image (R389). -/
def State.writeEngine (s : State) (block : Nat) (p : Place) (data : List Byte) : State :=
  match p with
  | .lin pa => { s with mem := s.mem.writeBytes pa data }
  | .stash o =>
    let b := s.blockOf block
    let s1 : State := { s with blocks := s.blocks.set block { b with stash := b.stash.writeBytes o data } }
    if b.saved then (s1.writeVirt (s.launchOf b.launch).ctx (s.stashVa b + o) data).getD s1 else s1
  | .priv _ => s

/-- The lines that engines have taken and have still to write, with the team and the number of the work (R187). -/
def State.takenLines (s : State) : List (Nat × Nat × Nat) :=
  s.teams.flatMap fun e =>
    (e.2.copies.flatMap fun c =>
      if c.keepsLines then ((c.left.filter fun p => decide (p.1 < c.owned)).filterMap fun p => s.dstLine e.2 c p.1).map
        fun l => (l, e.1, c.id)
      else [])
      ++ e.2.mqueue.flatMap fun m => ((s.blockOf e.2.block).spanLines (m.left.filterMap fun p =>
        if p.1 < m.owned then some (m.nextB + p.1, p.2) else none)).map fun l => (l, e.1, m.id)

/-- The engine work that owns a line. -/
def State.ownerOf (s : State) (line : Nat) : Option (Nat × Nat) := (s.takenLines.find? fun o => o.1 == line).map (·.2)

/-- The lines that engine work of a team with a smaller number has still to write. -/
def State.engineWrites (s : State) (team before : Nat) : List Nat :=
  let t := s.teamOf team
  ((t.copies.filter fun c => decide (c.id < before) && c.keepsLines).flatMap fun c => c.left.filterMap fun p => s.dstLine t c p.1)
    ++ (s.blockOf t.block).spanLines ((t.mqueue.filter fun m => decide (m.id < before) && isZst m.instr).flatMap MItem.spans)

/-- The lines that engine work of a team with a smaller number has still to read. -/
def State.engineReads (s : State) (team before : Nat) : List Nat :=
  let t := s.teamOf team
  ((t.copies.filter fun c => decide (c.id < before) && c.keepsLines).flatMap (s.srcLines t))
    ++ (s.blockOf t.block).spanLines ((t.mqueue.filter fun m => decide (m.id < before) && !isZst m.instr).flatMap MItem.spans)

/-- An access with a number waits on a line (R169, R187): an engine owns it, other than for the team's own later work, or the
team's own earlier engine work has still to write it. -/
def State.lineOwned (s : State) (line team id : Nat) : Bool :=
  (match s.ownerOf line with
    | none => false
    | some o => !(o.1 == team && decide (id < o.2)))
  || (s.engineWrites team id).contains line

/-- A line is a source that the team's own earlier engine work has still to read (R169, R188). -/
def State.sourceHeld (s : State) (line team id : Nat) : Bool := (s.engineReads team id).contains line

/-- A copy owns a tile line, or, as an access by a team and a number meets it, an own earlier copy has still to write it (R187,
R217). -/
def State.tileOwned (s : State) (n : TileName) (own : Option (Nat × Nat)) : Bool :=
  s.teams.any fun e => e.2.copies.any fun c => c.kind == .stashToTile && c.tile == some n && c.keepsLines
    && match own with
      | some (team, id) => if e.1 = team then decide (c.id < id) else decide (0 < c.owned)
      | none => decide (0 < c.owned)

/-- A cpyt.ts of a team with a smaller number has still to read a tile (R188). -/
def Team.tileSource (t : Team) (n : TileName) (before : Nat) : Bool :=
  t.copies.any fun c => c.kind == .tileToStash && c.tile == some n && c.keepsLines && decide (c.id < before)

/-- A cpyt.st of a team with a smaller number has still to write a tile (R169). -/
def Team.tileTarget (t : Team) (n : TileName) (before : Nat) : Bool :=
  t.copies.any fun c => c.kind == .stashToTile && c.tile == some n && c.keepsLines && decide (c.id < before)

/-- A tile brews. -/
def State.brewing (s : State) (n : TileName) : Bool := (s.tileAt? n).any fun x => x.state == .brewing

/-- A read of a team waits for a tile, or has still to take its line (R335, R342, R353); with `before`, an earlier one. A copy that
runs holds its own team's accesses (R188); those of others, by `other`, only while it waits for its chain. -/
def Team.readsTile (t : Team) (n : TileName) (before : Option Nat) (other : Bool) : Bool :=
  let counts (k : Nat) : Bool := before.all fun id => decide (k < id)
  decide (t.status = TeamStatus.live) &&
    (before.isNone && (t.wait == .tile n || t.wait == .brewing n || t.keeps == some n) || t.pend.any fun p => p.awaitsTile n && counts p.id)
  || t.copies.any fun c => c.kind == .tileToStash && c.tile == some n && c.keepsLines && counts c.id && (!other || c.brewing)

/-- A line that a read or a rmat has still to take is not dropped (R335, R349, R353). A store, by its team and number, looks to its
own team's earlier ones only. -/
def State.awaited (s : State) (n : TileName) (own : Option (Nat × Nat)) : Bool :=
  let before (team : Nat) : Option Nat := own.bind fun o => if o.1 = team then some o.2 else none
  (s.teams.any fun e => e.2.readsTile n (before e.1) (own.any fun o => o.1 != e.1)) || s.stores.any fun w => match w.what with
    | .rmat _ m _ => m == n && (before w.team).all fun id => decide (w.id < id)
    | _ => false

/-- The home slice holds a write of a tile (R342): the tile brews, or a waiter of its chain has still to return the line. -/
def State.tileHeld (s : State) (n : TileName) (team : Nat) : Bool :=
  s.brewing n || s.teams.any fun e =>
    e.1 != team && decide (e.2.status = TeamStatus.live) && (e.2.wait == .brewing n || e.2.keeps == some n)
      || e.2.copies.any fun c => c.brewing && c.tile == some n

/-! Loads: fixing a value and writing the register. -/

/-- The lanes of a load whose value is not fixed. -/
def PendSrc.unfixed : PendSrc → List (Nat × Place)
  | .load _ items => items.filterMap fun x => match x.2.2 with | none => some (x.1, x.2.1) | some _ => none
  | _ => []

/-- The value of a load or of a tile load is fixed; other results have theirs. -/
def PendSrc.fixed : PendSrc → Bool
  | .tile _ _ words => words.isSome
  | p => p.unfixed.isEmpty

/-- The bytes of each access of a load. -/
def PendSrc.bytes : PendSrc → Nat
  | .load w _ => widthBytes w
  | _ => 4

/-- An earlier load of the team that meets a store has still to have its value fixed. -/
def Pend.before (p : Pend) (w : Write) (id : Nat) : Bool :=
  decide (p.id < id) && ((p.src.unfixed.any fun x => w.meetsBytes x.2 p.src.bytes) || w.tile?.any p.awaitsTile)

/-- An earlier atomic of the team has still to be applied to a word of some bytes. -/
def Team.atomMeets (t : Team) (id : Nat) (p : Place) (n : Nat) : Bool :=
  t.atoms.any fun a => decide (a.id < id) && a.todo.any fun l => (Place.lin l.pa).meets (if a.wide then 8 else 4) p n

/-! Releases and acquires. -/

/-- The team's earlier loads have their values fixed. -/
def Team.loadsFixed (t : Team) (before : Nat) : Bool := t.pend.all fun p => decide (before ≤ p.id) || p.src.fixed

/-- The team's earlier loads, and its earlier atomics with a result, have their values fixed. -/
def Team.resultsFixed (t : Team) (before : Nat) : Bool :=
  t.loadsFixed before && t.atoms.all fun a => decide (before ≤ a.id) || a.dst.isNone

/-- The team's earlier accesses have performed at blk scope (R236, R241). -/
def State.blkDone (s : State) (team before : Nat) : Bool :=
  let t := s.teamOf team
  t.loadsFixed before && t.atoms.all (fun a => decide (before ≤ a.id))
    && !(s.stores.any fun w => w.team == team && !w.accepted && decide (w.id < before))

/-- What a release covers of a base die has performed (R241, R242): the team's earlier loads, stores and atomics, and every store
that its core has accepted, which the team may have read. -/
def State.dieDone (s : State) (team before die : Nat) : Bool :=
  let t := s.teamOf team
  t.loadsFixed before
    && !(s.stores.any fun w => (w.team == team && decide (w.id < before) || w.core == t.core && w.accepted) && w.what.homedOn die)
    && t.atoms.all fun a => decide (before ≤ a.id) || a.todo.all fun l => homeDie l.pa != die

/-- No team but those of a core stands on the core's cluster, nor does an engine work there for one. -/
def State.aloneInCluster (s : State) (core : Nat) : Bool :=
  !s.teams.any fun e => e.2.core / 4 == core / 4 && e.2.core != core
    && (decide (e.2.status = TeamStatus.live) || !e.2.copies.isEmpty)

/-- A release at clu has not waited for a store of another core of the cluster: a team that begins on this core would observe the
release, and so must see the store (R241). -/
def State.unseen (s : State) (core : Nat) : Bool := s.stores.any fun w => w.passed && w.core / 4 == core / 4 && w.core != core

/-- A release has performed at its scope (R241 to R243). What a release covers at clu is ordered for the teams of the cluster alone
(R235, R249): those of the issuing core see what the core has accepted. -/
def State.relDone (s : State) (team : Nat) (r : Release) : Bool :=
  let t := s.teamOf team
  match r.scope with
  | 0 => true
  | 1 => s.blkDone team r.id
  | 2 => s.blkDone team r.id && (s.aloneInCluster t.core || s.dieDone team r.id (coreDie t.core))
  | 3 => s.blkDone team r.id && s.dieDone team r.id (coreDie t.core)
  | _ => s.blkDone team r.id && r.dies.isEmpty && r.peers.isEmpty

/-- The stores that a release at clu need not wait for are marked, once it has performed. -/
def State.passBy (s : State) (team : Nat) (r : Release) : State :=
  let core := (s.teamOf team).core
  if r.scope = 2 ∧ s.relDone team r then
    { s with stores := s.stores.map fun w =>
        if w.core = core ∧ w.accepted ∧ w.what.homedOn (coreDie core) then { w with passed := true } else w }
  else s

/-- The release with a number has performed, or has gone. -/
def State.relNumberDone (s : State) (team n : Nat) : Bool :=
  ((s.teamOf team).rels.filter fun r => r.id = n).all (s.relDone team)

/-- An acquire is over (R230, R241): the value of its access is fixed, or, for a fence, every earlier one. -/
def Team.acqDone (t : Team) (a : Acquire) : Bool :=
  if a.fence then t.resultsFixed a.id
  else (t.pend.all fun p => p.id != a.id || p.src.fixed) && t.atoms.all fun b => b.id != a.id

/-- No release or acquire of the team keeps an access with a number from performing (R230, R241). -/
def State.ordered (s : State) (team id : Nat) : Bool :=
  let t := s.teamOf team
  (t.rels.all fun r => decide (id ≤ r.id) || s.relDone team r) && t.acqs.all fun a => decide (id ≤ a.id) || t.acqDone a

/-- Begins a release of the issuing team at a scope (R241 to R243); with `arrive` it belongs to an arrival (R246). -/
def State.beginRelease (s : State) (scope : Nat) (arrive : Option (Nat × Nat) := none) : State :=
  let t := s.team
  let r : Release := { id := s.seq, scope := scope, dies := if 4 ≤ scope then [0, 1, 2, 3] else [],
                       peers := if scope = 5 then s.launch.peers else [], age := 0, arrive := arrive }
  (s.setTeam { t with rels := t.rels ++ [r] }).bump

/-- Begins an acquire of the issuing team: of the access with the number that comes next, or of a fence. -/
def State.beginAcquire (s : State) (fence : Bool) : State :=
  let t := s.team
  s.setTeam { t with acqs := t.acqs ++ [{ id := s.seq, fence := fence }] }

/-- A release is dropped. -/
def State.dropRelease (s : State) (team n : Nat) : State :=
  let t := s.teamOf team
  s.setTeamOf team { t with rels := t.rels.filter fun r => r.id != n }

/-! Fixing a value. -/

/-- A line that an error has poisoned (R393). -/
def State.poisonedAt (s : State) (pa : Nat) : Bool := s.poisoned.contains (pa / 512)

/-- A word at a place of a team reads a poisoned line (R393). -/
def State.poisonedPlace (s : State) (team : Nat) (p : Place) : Bool :=
  let t := s.teamOf team
  match p with
  | .lin pa => s.poisonedAt pa
  | .stash _ => false
  | .priv va => [va, va + t.gapOf p].any fun a => (t.privMem.find? a).isNone &&
      match s.translateOn (some t.pipe) (s.launchOf t.launch).ctx a .read with | .ok pa => s.poisonedAt pa | .error _ => false

/-- The line of a tile that an error has poisoned (R393). -/
def State.poisonedTile (s : State) (n : TileName) : Bool := (s.tileLine n).any (·.poisoned)

/-- The value of an access at a place may be fixed now (R169, R187, R206, R241): no release or acquire holds it, no earlier access of
the team to the word is outstanding that the team could not yet see, and no engine owns the line or has still to write the
stash byte. -/
def State.canFix (s : State) (team : Nat) (p : Pend) (q : Place) : Bool :=
  let t := s.teamOf team
  let n := p.src.bytes
  s.ordered team p.id
    && !(t.pend.any fun o => decide (o.id < p.id) && o.src.unfixed.any fun x => x.2.meets o.src.bytes q n)
    && !(s.stores.any fun w => w.team == team && !w.accepted && decide (w.id < p.id) && w.what.meetsBytes q n)
    && !t.atomMeets p.id q n
    && match q with
      | .lin pa => !s.lineOwned (pa / 512) team p.id && !s.poisonedAt pa
      | .stash o => !t.stashBusy p.id o n false
      | .priv _ => !s.poisonedPlace team q

/-- The line of a tile load may be read now, likewise. -/
def State.canFixTile (s : State) (team : Nat) (p : Pend) (n : TileName) : Bool :=
  let t := s.teamOf team
  s.ordered team p.id
    && !(t.pend.any fun o => decide (o.id < p.id) && o.awaitsTile n)
    && !(s.stores.any fun w => w.team == team && !w.accepted && decide (w.id < p.id) && w.what.tile? == some n)
    && !s.tileOwned n (some (team, p.id)) && !s.poisonedTile n

/-- A pending result with another source. -/
def Team.setSrc (t : Team) (id : Nat) (src : PendSrc) : Team :=
  { t with pend := t.pend.map fun o => if o.id = id then { o with src := src } else o }

/-- Fixes the values of the lanes of a pending load that a test accepts (R236), as far as they may be fixed, or the line of a tile
load. -/
def State.fixWhere (s : State) (team : Nat) (p : Pend) (sel : Place → Bool) : State :=
  let t := s.teamOf team
  match p.src with
  | .load w items =>
    s.setTeamOf team (t.setSrc p.id (.load w (items.map fun x => match x.2.2 with
      | some _ => x
      | none =>
        if sel x.2.1 && s.canFix team p x.2.1 then
          (x.1, x.2.1, some (s.placeValue team x.2.1 (widthBytes w) (t.gapOf x.2.1)))
        else x)))
  | .tile n d none =>
    (match if s.canFixTile team p n then s.coreTile t.core n else none with
      | some ws => s.setTeamOf team (t.setSrc p.id (.tile n d (some ws)))
      | none => s)
  | _ => s

/-- Fixes one lane of a load, with the lanes that read its word (R184, R236), or a tile load. -/
def State.fixLane (s : State) (team n lane : Nat) : State :=
  match (s.teamOf team).pend.find? fun p => p.id = n with
  | none => s
  | some p =>
    let at_ := (p.src.unfixed.find? fun x => x.1 = lane).map (·.2)
    s.fixWhere team p fun q => at_.any fun a => a.meets p.src.bytes q p.src.bytes

/-- Writes a pending result to its register (R43): a value for each lane, the high word of a doubleword to the
register after. -/
def Team.writeLanes (t : Team) (wide : Bool) (first : Nat) (vals : List (Nat × DWord)) : Team :=
  let m := maskOf t.tsize fun l => vals.any fun x => x.1 == l
  let v (l : Nat) : DWord := (vals.find? fun x => x.1 = l).elim 0 (·.2)
  let t1 := t.setVn first m fun l => BitVec.setWidth 32 (v l)
  if wide then t1.setVn (first + 1) m fun l => BitVec.extractLsb' 32 32 (v l) else t1

/-- The state that bqry writes (R222). -/
def Team.batchWord (t : Team) (matrix : Bool) : DWord :=
  let next := if matrix then t.mnext else t.cnext
  let opened := if matrix then t.mopen else t.copen
  let ids := if matrix then t.mqueue.filterMap (·.batch) else t.copies.filterMap (·.batch)
  BitVec.ofNat 64 (min 255 ids.eraseDups.length * 512 + (if opened then 256 else 0) + next % 256)

/-- What a pending result writes, once its source has its values; none while it has not. -/
def Team.landing (t : Team) (p : Pend) : Option Team :=
  match p.src, p.dst with
  | .lanes vals, .v _ _ =>
    some (vals.foldl (fun (t : Team) (x : Nat × Nat × Word) =>
      t.setVn x.1 (maskOf t.tsize (· == x.2.1)) fun _ => x.2.2) t)
  | .scalar x, .s r => some (t.setS r x)
  | .mask m, .k r => some (t.setK r m)
  | .load w items, .v first _ =>
    if items.all fun x => x.2.2.isSome then
      some (t.writeLanes (w == 3) first (items.map fun x => (x.1, x.2.2.getD 0)))
    else none
  | .tile _ _ (some ws), .v first _ =>
    some ((List.range 4).foldl (fun (t : Team) (j : Nat) =>
      t.setVn (first + j) (maskOf t.tsize (· < 32)) fun l => ws.getD (32 * j + l) 0) t)
  | _, _ => none

/-- A load has still to read a poisoned line. -/
def State.readsPoison (s : State) (team : Nat) : PendSrc → Bool
  | .load _ items => items.any fun x => x.2.2.isNone && s.poisonedPlace team x.2.1
  | .tile n _ none => s.poisonedTile n
  | _ => false

/-- The launch of a team reads a poisoned line, and ends with MCHK (R393); a rebrew slot's chain fails (R351). -/
def State.mchkTeam (s : State) (team : Nat) (at_ : BitVec 48) : State :=
  if (s.teamOf team).inRebrew then s.asTeam team fun s => s.sliceFault .mchk { party := .machine }
  else s.endWith (s.teamOf team).launch .machine .mchk (some team) at_

/-- The landing of a result: the register is written, and the result stays pending until it is awaited (R43). A zcvt is complete
with it (R150). An MCHK that falls
in an inv waits for its end (R166). -/
def State.land (s : State) (team n : Nat) : State :=
  match (s.teamOf team).pend.find? fun p => p.id = n with
  | none => s
  | some p =>
    if p.landed then s
    else if s.readsPoison team p.src then
      let t := s.teamOf team
      if t.inv.isNone then s.mchkTeam team t.pc
      else
        s.setTeamOf team { t with due := some { cause := .mchk, lanes := t.exec, detail := {} },
                                  pend := t.pend.map fun q => if q.id = n then { q with landed := true } else q }
    else
      let s1 := s.fixWhere team p fun _ => true
      let t := s1.teamOf team
      match (t.pend.find? fun q => q.id = n).bind t.landing with
      | none => s
      | some t1 =>
        let changed := t1.regs != t.regs
        s1.setTeamOf team { t1 with
          pend := t1.pend.map fun o => if o.id = n then { o with landed := true, changed := changed } else o,
          mqueue := t1.mqueue.filter fun m => m.id != n }

/-- The team has awaited the results that a test accepts: they are no longer pending (R43). A register that took
another value counts as a change by the instruction whose result it was (R276). -/
def Team.awaitWhere (t : Team) (f : Pend → Bool) : Team :=
  { t with pend := t.pend.filter fun p => !f p,
           changes := ((t.pend.filter fun p => f p && p.changed).map (·.id)).foldl max t.changes }

/-! Stores: acceptance, and performing at the home slice. -/

/-- A store's core, or the stash, may accept it now (R169, R188, R206, R236, R241). -/
def State.canAccept (s : State) (w : Store) : Bool :=
  let t := s.teamOf w.team
  s.ordered w.team w.id
    && !(s.stores.any fun v => v.team == w.team && decide (v.id < w.id) && !v.accepted && v.what.meets w.what)
    && !(t.pend.any fun p => p.before w.what w.id)
    && match w.what with
      | .lin pa d => !t.atomMeets w.id (.lin pa) d.length && !s.sourceHeld (pa / 512) w.team w.id
          && !(s.engineWrites w.team w.id).contains (pa / 512)
      | .stash _ off d => !t.stashBusy w.id off d.length true
      | x => !x.tile?.any fun n => t.tileSource n w.id || t.tileTarget n w.id

/-- A store leaves the list. -/
def State.dropStore (s : State) (id : Nat) : State := { s with stores := s.stores.filter fun v => v.id != id }

/-- A store performs at every scope. What it needs of the tables is the host's to keep mapped (R367). -/
def State.perform (s : State) (w : Store) : State :=
  match w.what.perform s with
  | some s1 => s1.dropStore w.id
  | none => if (s.launchOf w.launch).phase = .live then (s.dropStore w.id).endWith w.launch .host .unmap else s.dropStore w.id

/-- The stash takes a store, or the L1 or the mapped unit accepts it (R236). -/
def State.acceptStore (s : State) (w : Store) : State :=
  match w.what with
  | .stash .. => s.perform w
  | _ => { s with stores := (s.dropStore w.id).stores ++ [{ w with accepted := true }] }

/-- A store is accepted, if it may be. -/
def State.tryAccept (s : State) (id : Nat) : State :=
  match s.stores.find? fun w => w.id = id with
  | none => s
  | some w => if w.acceptable && !w.accepted && s.canAccept w then s.acceptStore w else s

/-- A home slice may order a store now (R169, R187 to R190, R342): its core has accepted it, unless nothing sees it before; earlier
stores that the core has accepted to the word or the tile have performed, but for those that a discard overwrites; and no
engine owns the line. A tile's line is not dropped under a read. -/
def State.canPerform (s : State) (w : Store) : Bool :=
  let before := if w.accepted then s.stores.takeWhile fun v => v.id != w.id else s.stores
  let meets := before.any fun v => v.accepted && v.core == w.core && v.what.meets w.what
  (w.accepted || !w.acceptable && s.canAccept w)
    && match w.what with
      | .lin pa _ => !meets && !s.lineOwned (pa / 512) w.team w.id && !s.sourceHeld (pa / 512) w.team w.id
      | .stash .. => true
      | .tile _ n _ _ => !meets && !s.tileHeld n w.team && !s.tileOwned n (some (w.team, w.id))
      | .lastUse .. => true
      | .rmat ctx n d => !meets && !s.brewing n && !s.mustRebrew ctx n d && !s.tileOwned n (some (w.team, w.id))
      | .rdrop _ n _ => !meets && !s.tileHeld n w.team && !s.tileOwned n (some (w.team, w.id)) && !s.awaited n (some (w.team, w.id))
      | .discard _ n d =>
        !s.tileHeld n w.team && !s.tileOwned n (some (w.team, w.id))
          && !((d.compressed || d.recomputable) && s.awaited n (some (w.team, w.id)))

/-- A home slice orders a store (R236). The writes of the tile that an L1 or a mapped unit holds are before a discard (R189). -/
def State.order (s : State) (w : Store) : State :=
  match w.what with
  | .discard _ n _ =>
    ((s.stores.filter fun v => v.accepted && v.what.tile? == some n).foldl (fun (s : State) (v : Store) => s.perform v) s).perform w
  | _ => s.perform w

/-- A store is accepted and ordered, as far as it may be. -/
def State.tryPerform (s : State) (id : Nat) : State :=
  let s1 := s.tryAccept id
  match s1.stores.find? fun w => w.id = id with
  | none => s1
  | some w => if s1.canPerform w then s1.order w else s1

/-- The stores of a list are accepted and ordered, oldest first, as far as they may be. -/
def State.performAll (s : State) (ws : List Store) : State :=
  ws.foldl (fun (s : State) (w : Store) => s.tryPerform w.id) s

end Sys2Proof.Machine
end

