-- ==== Sys2Proof/Machine/LoadStore.lean ====
section
/-! DEFINITION. Loads and stores of linear memory, stash and private memory, prefetch, mapping of stash, write-back, and
the fences (R198 to R207, R210 to R213, R230, R231). -/
namespace Sys2Proof.Machine

/-! The checks of R204 for a form of lanes. -/

/-- One check: its cause; for a lane whose fault comes from a translation (R386), the address and the permissions asked for; and the
lanes that fail it. -/
structure LaneCheck where
  cause : Cause
  walk : Nat → Option (Nat × BitVec 3)
  bad : Nat → Bool

/-- No lane's fault comes from a translation. -/
def noWalk : Nat → Option (Nat × BitVec 3) := fun _ => none

/-- The first check that some lane fails, and the lanes that fail it (R204). -/
def firstFailing (lanes : List Nat) : List LaneCheck → Option (LaneCheck × List Nat)
  | [] => none
  | c :: cs => match lanes.filter c.bad with
    | [] => firstFailing lanes cs
    | ls => some (c, ls)

/-- A body that goes on when every lane passes every check; otherwise the trap names the lanes that fail the first
failing one, with the address of the lowest (R204, R381). -/
def checked (t : Team) (lanes : List Nat) (addr : Nat → DWord) (cs : List LaneCheck) (k : Res) : Res :=
  match firstFailing lanes cs with
  | none => k
  | some (c, ls) => .trap c.cause (maskOf t.tsize ls.contains) { addr := addr (ls.headD 0), walk := c.walk (ls.headD 0) }

/-- The linear address of a lane (R199). -/
def Team.linAddr (t : Team) (b : SReg) (x : VReg) (lane : Nat) : DWord :=
  t.getS b + BitVec.setWidth 64 (t.getV x lane)

/-- What an access of linear memory needs and does, for its checks. -/
inductive Access where
  | load | store | atomic
  deriving DecidableEq, Repr

/-- The checks 1 to 7 of R204 on linear addresses. -/
def State.linChecks (s : State) (n : Nat) (k : Access) (addr : Nat → DWord) : List LaneCheck :=
  let va (l : Nat) : Nat := (addr l).toNat
  let need : Need := if k = .load then .read else .write
  let fails (c : Cause) (l : Nat) : Bool := s.accessFault s.ctx (va l) need == some c
  let walk (c : Cause) (l : Nat) : Option (Nat × BitVec 3) := if fails c l then some (va l, need.mask) else none
  let pa (l : Nat) : Nat := match s.translate s.ctx (va l) need with | .ok p => p | .error _ => 0
  let ro := if k = .load then [] else s.readonlyRanges s.ctx
  let always : List LaneCheck :=
    [⟨.align, noWalk, fun l => va l % n != 0⟩, ⟨.prot, noWalk, fun l => decide (2 ^ 48 ≤ va l)⟩,
     ⟨.page, walk .page, fails .page⟩, ⟨.prot, walk .prot, fun l => fails .prot l || onPages ro (va l)⟩]
  let writes : List LaneCheck := [⟨.rpin, noWalk, fun l => s.pinnedPa (pa l)⟩]
  let det : List LaneCheck :=
    [⟨.detx, noWalk, fun l => s.launch.lflags.getLsbD 0 &&
      (match s.launch.detTags.find? (pa l / 512) with | some b => b != s.block.index | none => false)⟩]
  always ++ (if k = .load then [] else writes) ++ (if k = .atomic then det else [])

/-- The physical address of a lane whose checks have passed. -/
def State.lanePa (s : State) (k : Access) (a : DWord) : Nat :=
  match s.translate s.ctx a.toNat (if k = .load then .read else .write) with | .ok p => p | .error _ => 0

/-- Keeps the translations that the lanes used (R366). -/
def State.cacheLanes (s : State) (lanes : List Nat) (addr : Nat → DWord) : State :=
  ((lanes.map fun l => (addr l).toNat / 65536).eraseDups).foldl (fun (s : State) p => s.cacheVa s.ctx (65536 * p)) s

/-- The team waits, and its word issues again. -/
def State.waitFor (s : State) (w : Wait) : State := s.setTeam { s.team with wait := w }

/-- The registers of an access of width code w (R200). -/
def dataRegs (t : VReg) (w : BitVec 2) : List Nat := if w = 3 then [t.toNat, t.toNat + 1] else [t.toNat]

/-- The value that a lane stores (R200). -/
def Team.storeData (t : Team) (r : VReg) (w : BitVec 2) (lane : Nat) : List Byte :=
  toBytesLE (widthBytes w.toNat) ((t.getV r lane).toNat + 2 ^ 32 * (if w = 3 then t.getVn (r.toNat + 1) lane else 0).toNat)

/-- A pending load that the word leaves; with an acquire, later accesses wait until its value is fixed (R202, R241). -/
def loadPend (s : State) (r : VReg) (w : BitVec 2) (items : List (Nat × Place × Option DWord)) (acq : Bool) : State :=
  (if acq then s.beginAcquire false else s).addPend (.v r.toNat (if w = 3 then 2 else 1)) (.load w.toNat items)

/-- A form that a rebrew slot may not use raises PROT there (R345). -/
def outsideRebrew (s : State) (k : Res) : Res := if s.team.inRebrew then .trap .prot 0 {} else k

/-- A form of lanes with an empty exec has no effect (R203). -/
def someLanes (s : State) (k : Res) : Res := if s.team.exec = 0 then .ok s else k

/-- The team's queued matrix work has still to write some bytes that an access names or, for a write, to read them: the access
issues when it has (R147, R153, R206). -/
def State.queueMeets (s : State) (ps : List Place) (n : Nat) (write : Bool) : Bool :=
  let queue := s.team.mqueue
  let (zsts, reads) := (queue.filter fun m => isZst m.instr, if write then queue.filter fun m => !isZst m.instr else [])
  let spans := zsts.flatMap MItem.spans ++ reads.flatMap MItem.spans
  let lines := s.block.spanLines spans
  ps.any fun p => match p with
    | .stash o => spans.any fun r => rangesMeet o n r.1 r.2
    | .lin pa => lines.contains (pa / 512)
    | .priv _ => false

/-- The wait for it. -/
def afterQueue (s : State) (ps : List Place) (n : Nat) (write : Bool) (k : Res) : Res :=
  if s.queueMeets ps n write then .moved (s.waitFor .matrix) else k

/-! Linear memory. -/

/-- ld (R205): each active lane's value, pending. The hint changes no value (R201). -/
def execLd (sw : Bool) (t : VReg) (b : SReg) (x : VReg) (w _h : BitVec 2) (acq : Bool) (s : State) : Out :=
  run s sw 1 { vr := [x.toNat], vw := dataRegs t w, sr := [b], lanes := some s.team.exec } fun s =>
    outsideRebrew s (someLanes s (
      let u := s.team
      let ls := lanesOf u.tsize u.exec
      let addr := u.linAddr b x
      checked u ls addr (s.linChecks (widthBytes w.toNat) .load addr)
        (afterQueue s (ls.map fun l => .lin (s.lanePa .load (addr l))) (widthBytes w.toNat) false
          (.ok (loadPend (s.cacheLanes ls addr) t w (ls.map fun l => (l, .lin (s.lanePa .load (addr l)), none)) acq)))))

/-- st (R184, R205): each lane's write is a store of its own, in ascending lane order; a release comes before them at dev (R202,
R241). -/
def execSt (sw : Bool) (t : VReg) (b : SReg) (x : VReg) (w h : BitVec 2) (rel : Bool) (s : State) : Out :=
  run s sw 1 { vr := x.toNat :: dataRegs t w, sr := [b], lanes := some s.team.exec } fun s =>
    outsideRebrew s (someLanes s (
      let u := s.team
      let ls := lanesOf u.tsize u.exec
      let addr := u.linAddr b x
      let n := widthBytes w.toNat
      checked u ls addr (s.linChecks n .store addr) (
        afterQueue s (ls.map fun l => .lin (s.lanePa .store (addr l))) n true (
          let s1 := s.cacheLanes ls addr
          .ok (ls.foldl (fun (s' : State) l => s'.putStore (.lin (s.lanePa .store (addr l)) (u.storeData t w l)) (h == 1))
            (if rel then s1.beginRelease 4 else s1))))))

/-! Stash. -/

/-- The stash offset of a lane (R199). -/
def Team.stashAddr (t : Team) (b : SReg) (x : VReg) (lane : Nat) : Nat :=
  (t.getS b).toNat % 2 ^ 20 + (t.getV x lane).toNat

/-- The bytes of the block's stash allocation (R180). -/
def State.stashSize (s : State) : Nat := 1024 * s.block.stashKiB

/-- The page of a mapped stash byte permits a write, as smap translated it (R211); a plain byte needs no permission. -/
def Block.mayWrite (b : Block) (off : Nat) : Bool :=
  match b.maps.find? fun m => decide (m.off ≤ off ∧ off < m.off + m.len) with
  | .none => true
  | .some m => (m.pages.find? fun p => p.page = (m.va + (off - m.off)) / 65536).all fun p => p.perm.getLsbD 1

/-- The virtual address of a mapped stash byte, if it is one. -/
def Block.mappedVa (b : Block) (off : Nat) : Option Nat :=
  (b.maps.find? fun m => decide (m.off ≤ off ∧ off < m.off + m.len)).map fun m => m.va + (off - m.off)

/-- The checks of a stash form (R199, R204). A write to a mapped byte needs a writable, unpinned page. -/
def State.stashChecks (s : State) (n : Nat) (b : SReg) (addr : Nat → Nat) (write : Bool) : List LaneCheck :=
  let base := (s.team.getS b).toNat
  let always : List LaneCheck :=
    [⟨.align, noWalk, fun l => base / 2 ^ 20 != 0 || addr l % n != 0⟩,
     ⟨.prot, noWalk, fun l => decide (s.stashSize < addr l + n)⟩]
  let ro := if write then s.readonlyRanges s.ctx else []
  let mapped : List LaneCheck :=
    [⟨.prot, noWalk, fun l => !s.block.mayWrite (addr l) || (s.block.mappedVa (addr l)).any (onPages ro)⟩,
     ⟨.rpin, noWalk, fun l => match s.block.place (addr l) with
        | .lin pa => s.pinnedPa pa
        | _ => false⟩]
  always ++ (if write then mapped else [])

/-- sld (R206): each active lane's value, pending. -/
def execSld (sw : Bool) (t : VReg) (b : SReg) (x : VReg) (w : BitVec 2) (acq : Bool) (s : State) : Out :=
  run s sw 1 { vr := [x.toNat], vw := dataRegs t w, sr := [b], lanes := some s.team.exec } fun s =>
    someLanes s (
      let u := s.team
      let ls := lanesOf u.tsize u.exec
      let addr := u.stashAddr b x
      let n := widthBytes w.toNat
      checked u ls (fun l => BitVec.ofNat 64 (addr l)) (s.stashChecks n b addr false)
        (afterQueue s (ls.map fun l => s.block.place (addr l)) n false
          (.ok (loadPend s t w (ls.map fun l => (l, s.block.place (addr l), none)) acq))))

/-- What a store to a place of a block writes: plain stash, or the mapped unit's bytes (R183, R236). -/
def Place.written (p : Place) (block : Nat) (data : List Byte) : Write :=
  match p with
  | .lin pa => .lin pa data
  | .stash off | .priv off => .stash block off data

/-- sst (R206): each lane's write is a store of its own, in ascending lane order; a release comes before them at blk (R202). -/
def execSst (sw : Bool) (t : VReg) (b : SReg) (x : VReg) (w : BitVec 2) (rel : Bool) (s : State) : Out :=
  run s sw 1 { vr := x.toNat :: dataRegs t w, sr := [b], lanes := some s.team.exec } fun s =>
    someLanes s (
      let u := s.team
      let ls := lanesOf u.tsize u.exec
      let addr := u.stashAddr b x
      let n := widthBytes w.toNat
      checked u ls (fun l => BitVec.ofNat 64 (addr l)) (s.stashChecks n b addr true)
        (afterQueue s (ls.map fun l => s.block.place (addr l)) n true
          (.ok (ls.foldl (fun (s' : State) l => s'.putStore ((s.block.place (addr l)).written u.block (u.storeData t w l)))
            (if rel then s.beginRelease 1 else s)))))

/-! Private memory. -/

/-- The private offset of a lane (R199). -/
def Team.privOffset (t : Team) (b : SReg) (x : VReg) (lane : Nat) : DWord := t.linAddr b x lane

/-- The address of a private word (R185). -/
def Team.privVa (t : Team) (o lane : Nat) : Nat := t.privbase + (o / 4 * t.tsize + lane) * 4

/-- The checks of a private form (R199, R204). -/
def privChecks (t : Team) (n : Nat) (addr : Nat → DWord) : List LaneCheck :=
  [⟨.align, noWalk, fun l => (addr l).toNat % 4 != 0⟩,
   ⟨.stacklim, noWalk, fun l => decide (t.privBytes < (addr l).toNat + n)⟩]

/-- pld (R207). Only its lane sees a private word (R186), so the value is fixed when the word issues. -/
def execPld (sw : Bool) (t : VReg) (b : SReg) (x : VReg) (w : BitVec 2) (s : State) : Out :=
  run s sw 1 { vr := [x.toNat], vw := dataRegs t w, sr := [b], lanes := some s.team.exec } fun s =>
    outsideRebrew s (someLanes s (
      let u := s.team
      let ls := lanesOf u.tsize u.exec
      let addr := u.privOffset b x
      let n := widthBytes w.toNat
      checked u ls addr (privChecks u n addr)
        (.ok (loadPend s t w (ls.map fun l =>
          let p : Place := .priv (u.privVa (addr l).toNat l)
          (l, p, if s.poisonedPlace s.cur p then none else some (s.placeValue s.cur p n (4 * u.tsize)))) false))))

/-- Writes one private word. -/
def Team.writePriv (t : Team) (va : Nat) (data : List Byte) : Team :=
  { t with privMem := (data.zipIdx).foldl (fun (m : Tab Byte) p => m.set (va + p.2) p.1) t.privMem }

/-- pst (R200, R207). -/
def execPst (sw : Bool) (t : VReg) (b : SReg) (x : VReg) (w : BitVec 2) (s : State) : Out :=
  run s sw 1 { vr := x.toNat :: dataRegs t w, sr := [b], lanes := some s.team.exec } fun s =>
    outsideRebrew s (someLanes s (
      let u := s.team
      let ls := lanesOf u.tsize u.exec
      let addr := u.privOffset b x
      checked u ls addr (privChecks u (widthBytes w.toNat) addr)
        (.ok (s.setTeam (ls.foldl (fun (t' : Team) l =>
          let d := u.storeData t w l
          let o := (addr l).toNat
          let t1 := t'.writePriv (u.privVa o l) (d.take 4)
          if w = 3 then t1.writePriv (u.privVa (o + 4) l) (d.drop 4) else t1) u)))))

/-! Prefetch, mapping and write-back. -/

/-- pref (R210): starts fills that change nothing a program can read. -/
def execPref (sw : Bool) (b : SReg) (x : VReg) (_h : BitVec 2) (s : State) : Out :=
  run s sw 1 { vr := [x.toNat], sr := [b], lanes := some s.team.exec } fun s => outsideRebrew s (.ok s)

/-- The 64 KiB pages of a range of linear addresses. -/
def pagesOf (va n : Nat) : List Nat := (List.range ((va + n - 1) / 65536 + 1 - va / 65536)).map (· + va / 65536)

/-- The fault of translating every page of a range (R211). -/
def State.rangeFault (s : State) (va n : Nat) (need : Need) : Option (Cause × Nat) :=
  let bad := (pagesOf va n).filterMap fun p =>
    let image := (List.range 128).findSome? fun i => if s.inImage s.ctx (65536 * p + 512 * i) then some Cause.prot else none
    (image.or (s.accessFault s.ctx (65536 * p) need)).map fun c => (c, max va (65536 * p))
  match bad.find? fun x => x.1 = .page with
  | some x => some x
  | none => bad.head?

/-- The pages of a range as smap keeps them (R211). -/
def State.mapPages (s : State) (ctx va n : Nat) : List MapPage :=
  (pagesOf va n).filterMap fun p => match s.lookup ctx (65536 * p) with
    | .ok e => some { page := p, frame := (e.pa + (65536 * p - e.va)) / 65536, perm := e.perm }
    | .error _ => none

/-- The pins of some mapped ranges are lifted. -/
def State.liftMaps (s : State) (ctx : Nat) (ms : List StashMap) : State :=
  s.liftPins ctx fun va => ms.any fun m => m.pages.any fun p => p.page == va / 65536

/-- What s61 holds where the operands of a form addressed by scalars fail a check: the first of some numbers that fails it, else
the last (R381, log 72). -/
def operandFault (xs : List (Nat × Bool)) : Detail :=
  { addr := BitVec.ofNat 64 (((xs.find? fun x => x.2).orElse fun _ => xs.getLast?).getD (0, true)).1 }

/-- smap (R211). The team's queued engine work on the range, which issued before it, comes first (R147). -/
def execSmap (sw : Bool) (a b c : SReg) (s : State) : Out :=
  run s sw 1 { sr := [a, b, c] } fun s =>
    outsideRebrew s (
      let t := s.team
      let off := (t.getS a).toNat
      let va := (t.getS b).toNat
      let len := (t.getS c).toNat
      let k := s.block
      if off % 512 ≠ 0 ∨ va % 512 ≠ 0 ∨ len % 512 ≠ 0 then
        .trap .align 0 (operandFault [(off, off % 512 != 0), (va, va % 512 != 0), (len, true)])
      else if len = 0 ∨ s.stashSize < off + len ∨ (k.maps.any fun m => rangesMeet off len m.off m.len)
          ∨ 8 ≤ k.maps.length ∨ 2 ^ 48 < va + len then .trap .prot 0 (operandFault [(va, decide (2 ^ 48 < va + len)), (off, true)])
      else match s.rangeFault va len .read with
        | some (cause, x) => .trap cause 0 { addr := BitVec.ofNat 64 x, walk := some (x, 1) }
        | none =>
          if t.stashBusy s.seq off len true then .moved (s.waitFor .unmap)
          else
          .ok (s.setBlock { k with maps := k.maps ++ [{ off := off, len := len, va := va, pages := s.mapPages s.ctx va len }] }))

/-- The stores of the block's core that lie in a mapped range have reached their home slices (R183, R212). -/
def State.mapClean (s : State) (b : Block) (m : StashMap) : Bool :=
  !s.stores.any fun w => w.core == b.core && m.pages.any fun p => w.what.onPage p.frame

/-- The range becomes plain stash again, with the last mapped values (R212). -/
def State.unmapRange (s : State) (id : Nat) (m : StashMap) : State :=
  let b := s.blockOf id
  let bytes := (List.range m.len).map fun i => match b.place (m.off + i) with
    | .lin pa => s.mem.read pa
    | _ => 0
  let s1 : State := { s with blocks := s.blocks.set id { b with stash := b.stash.writeBytes m.off bytes,
                                                                maps := b.maps.filter fun x => x.off != m.off } }
  s1.liftMaps (s.launchOf b.launch).ctx [m]

/-- A mapped range reads a poisoned line (R393). -/
def State.mapPoisoned (s : State) (b : Block) (m : StashMap) : Bool :=
  (b.spanLines [(m.off, m.len)]).any s.poisoned.contains

/-- sunmap (R212): holds the team until every dirty unit of the range has reached its home slice, and until the team's earlier
accesses to the range, its engine work's included, are over (R147, R153). -/
def execSunmap (sw : Bool) (a b : SReg) (s : State) : Out :=
  run s sw 1 { sr := [a, b] } fun s =>
    outsideRebrew s (
      let t := s.team
      match s.block.maps.find? fun m => m.off = (t.getS a).toNat ∧ m.len = (t.getS b).toNat with
      | none => .trap .prot 0 { addr := t.getS a }
      | some m =>
        if s.mapClean s.block m ∧ t.loadsFixed s.seq ∧ ¬ t.stashBusy s.seq m.off m.len true then
          if s.mapPoisoned s.block m then .moved (s.mchkTeam s.cur t.pc) else .ok (s.unmapRange t.block m)
        else .moved (s.waitFor .unmap))

/-- The physical pages of a range that have a translation (R213): the number of each, and of the page that it stands for. -/
def State.translatedPages (s : State) (ctx va n : Nat) : List (Nat × Nat) := (s.mapPages ctx va n).map fun p => (p.page, p.frame)

/-- The accepted stores of a core, and those still to be accepted, that write a line of a range (R213). -/
def State.storesIn (s : State) (core va n : Nat) : List Store :=
  let pages := s.translatedPages s.ctx va n
  s.stores.filter fun w => w.core == core && pages.any fun p => w.what.onPage p.2 && w.what.line?.any fun l =>
    rangesMeet (65536 * p.1 + l % 128 * 512) 512 va n

/-- cwb (R213): the core's stores in the range go to their home slices. It changes no value that an agent reads. -/
def execCwb (sw : Bool) (a b : SReg) (s : State) : Out :=
  run s sw 1 { sr := [a, b] } fun s =>
    outsideRebrew s (
      let va := (s.team.getS a).toNat
      let n := (s.team.getS b).toNat
      if n = 0 ∨ 2 ^ 20 < n ∨ 2 ^ 48 < va + n then .trap .prot 0 { addr := s.team.getS a }
      else .ok (s.performAll (s.storesIn s.team.core va n)))

/-! Fences. -/

/-- fen (R230): an acquire keeps later accesses waiting until the values of earlier loads and atomics are fixed; a release, until
the earlier accesses have performed at its scope. The team goes on (R274). -/
def execFen (sw : Bool) (p : BitVec 3) (o : BitVec 2) (s : State) : Out :=
  run s sw 1 {} fun s =>
    let s1 := if o.getLsbD 0 then s.beginAcquire true else s
    let s2 := if o.getLsbD 1 then s1.beginRelease p.toNat else s1
    .ok (if o.getLsbD 1 ∧ p = 5 then s2.setLaunch { s2.launch with peers := [] } else s2).bump

/-- The stores that a core has accepted and that its home slices have still to order. -/
def State.acceptedOn (s : State) (core : Nat) : List Store := s.stores.filter fun w => w.core == core && w.accepted

/-- ifen (R231): the core's stores become visible to fetches through the shared instruction level, and the L1 instruction lines of
the context on the core and the pipe's loop buffer are dropped (R296). -/
def execIfen (sw : Bool) (s : State) : Out :=
  run s sw 1 {} fun s =>
    let t := s.team
    let s1 := ((s.performAll (s.acceptedOn t.core)).refreshLevel (t.core / 48)).dropCode t.core (s.asid s.ctx)
    .ok { s1 with loopBuffers := s1.loopBuffers.erase t.pipe }

end Sys2Proof.Machine
end

