-- ==== Sys2Proof/Machine/Pricing.lean ====
section
/-! DEFINITION. What work is priced at: cycles and ns (R13, R221, R314), chains of rebrews (R354), copies (R233) and
matrix work (R159). -/
namespace Sys2Proof.Machine

/-- The frequency of an operating point, in tenths of a GHz (R13, R318). -/
def oppTenths (opp : Nat) : Nat :=
  match opp with | 0 => 40 | 1 => 32 | _ => 24

/-- Cycles at a share and an operating point, in ns, rounded up (R221, R314). -/
def cyclesToNs (cycles share opp : Nat) : Nat := ceilDiv (cycles * 16 * 10) (max share 1 * oppTenths opp)

/-- General slots of a block (R313). -/
def Kernel.slots (k : Kernel) : Nat := k.tpb * (k.tsize / 64 + k.spawn)

/-- Price(X, j, L) of R354, with L + 1 - j levels left: cycles and nJ. -/
def State.chainPrice (s : State) (ctx : Nat) (priced : List Nat) : Nat → Nat → Nat × Nat
  | 0, _ => (0, 0)
  | n + 1, x =>
    match s.desc ctx x with
    | .ok d => match s.recipe ctx x d with
      | some r => r.sources.foldl (fun (acc : Nat × Nat) y =>
          if priced.contains y.tensor then
            let p := s.chainPrice ctx priced n y.tensor
            (acc.1 + y.nr * y.nc * p.1, acc.2 + y.nr * y.nc * p.2)
          else acc) (r.cyc, r.nj)
      | none => (0, 0)
    | _ => (0, 0)

/-- DEPTH of a recomputable tensor. -/
def State.depthOf (s : State) (ctx x : Nat) : Nat :=
  match s.desc ctx x with
  | .ok d => match s.recipe ctx x d with | some r => r.depth | none => 0
  | _ => 0

/-- Pc and Pe of a priced set (R354). -/
def State.worstChain (s : State) (ctx : Nat) (priced : List Nat) : Nat × Nat :=
  priced.foldl (fun (acc : Nat × Nat) x =>
    let p := s.chainPrice ctx priced (s.depthOf ctx x) x
    (max acc.1 p.1, max acc.2 p.2)) (0, 0)

/-- Lines of 512 bytes that a count spans. -/
def lines512 (n : Nat) : Nat := ceilDiv n 512

/-- The unit cycles of a copy (R233), under a cost table; `brew` is what a read of a tile is charged when the launch has a
priced set (R354). -/
def copyCycles (c : CostTable) (stash : Nat) (brew : Option Nat) (k : CopyKind) : Nat :=
  match k with
  | .bytes d y =>
    16 + (if y then c.stash.toNat else c.hbm.toNat) + 2 * lines512 (if d || y then stash else 65536)
  | .multicast => 16 + c.hbm.toNat + 2 * lines512 stash
  | .tileToStash => 16 + (match brew with | some b => b | none => c.ll.toNat + c.hbm.toNat) + 2
  | .stashToTile => 16 + c.hbm.toNat + 2

/-- The unit cycles of a matrix-class item of a number of steps (R159). -/
def itemCycles (c : CostTable) (i : Instr) (steps : Nat) : Nat :=
  match i with
  | .zclr .. => c.alu.toNat
  | .zld .. | .zst .. | .zcvt .. => c.mstart.toNat + 32
  | .mmaH16 .. | .mmlH16 .. => c.mstart.toNat + steps
  | _ => c.mstart.toNat + steps * c.mstep.toNat

/-- What the launch of a team is charged for a read that may rebrew; none with an empty priced set (R354). -/
def State.brewCycles (s : State) (l : Launch) : Option Nat :=
  if l.priced.isEmpty then none
  else some (s.sys.costs.hbm.toNat + l.perCore * (s.kernelOf l).teams * (s.worstChain l.ctx l.priced).1)

/-- The price in ns of a team's copies, as a bwt.c that begins now takes it (R221). -/
def State.copyPrice (s : State) (t : Team) (cs : List Copy) : Nat :=
  let l := s.launchOf t.launch
  let b := s.blockOf t.block
  let items := (cs.map fun c => (c.id, c.kind)).eraseDups
  cyclesToNs ((items.map fun c => copyCycles s.sys.costs (1024 * b.stashKiB) (s.brewCycles l) c.2).sum) l.fig.ishare s.sys.opp

/-- The steps of a matrix-class form (R145, R146). -/
def stepsOf : Instr → Nat
  | .mmlBf16 _ _ _ _ _ n .. | .mmlF16 _ _ _ _ _ n .. | .mmlF8 _ _ _ _ _ n .. | .mmlF4 _ _ _ _ _ n .. | .mmlI8 _ _ _ _ _ n ..
  | .mmlH16 _ _ _ _ _ n .. | .tsl _ _ _ _ _ n .. => n.toNat
  | _ => 1

/-- The price in ns of a team's matrix items, each at its table's price (R159, R221). -/
def State.matrixPrice (s : State) (t : Team) (ms : List MItem) : Nat :=
  let l := s.launchOf t.launch
  cyclesToNs ((ms.map fun m => itemCycles s.sys.costs m.instr (stepsOf m.instr)).sum) l.fig.ishare s.sys.opp

end Sys2Proof.Machine
end

