-- ==== Sys2Proof/Machine/Barriers.lean ====
section
/-! DEFINITION. Barriers (R246, R271 to R275, R297), spawned teams (R266, R267, R298), register blocks (R270, R301), and the
team's timer (R302). -/
namespace Sys2Proof.Machine

/-! Barriers. -/

/-- A team that its kernel placed at dispatch (R267, R272). -/
def Team.dispatched (t : Team) : Bool := t.spawner.isNone && t.rebrew.isNone

/-- The blocks of a grid. -/
def Launch.gridBlocks (l : Launch) : Nat := l.grid.1 * l.grid.2.1 * l.grid.2.2

/-- A barrier as a team names it: level 0 block, 1 cluster, 2 grid (R272). -/
def State.barrier (s : State) (team level n : Nat) : Barrier :=
  let t := s.teamOf team
  let l := s.launchOf t.launch
  match level with
  | 0 => (s.blockOf t.block).bars.toList.getD n .start
  | 1 => (l.clusterBars.get [] ((s.blockOf t.block).index / 4)).getD n .start
  | _ => l.bars.toList.getD n .start

/-- Puts a barrier in the place of the one that a team names. -/
def State.setBarrier (s : State) (team level n : Nat) (b : Barrier) : State :=
  let t := s.teamOf team
  let l := s.launchOf t.launch
  let k := s.blockOf t.block
  match level with
  | 0 => { s with blocks := s.blocks.set t.block { k with bars := k.bars.setIfInBounds n b } }
  | 1 =>
    let old := (List.range 4).map fun i => (l.clusterBars.get [] (k.index / 4)).getD i .start
    s.setLaunchOf t.launch { l with clusterBars := l.clusterBars.set (k.index / 4) (old.set n b) }
  | _ => s.setLaunchOf t.launch { l with bars := l.bars.setIfInBounds n b }

/-- The participants of a barrier of a level that a team names, as their number (R272): the teams placed at dispatch, of
the blocks still to be placed as well, that have not retired. -/
def State.participants (s : State) (team level : Nat) : Nat :=
  let t := s.teamOf team
  let l := s.launchOf t.launch
  let g := (s.blockOf t.block).index / 4
  let blocks := match level with
    | 0 => 1
    | 1 => min 4 (l.gridBlocks - 4 * g)
    | _ => l.gridBlocks
  let gone := s.teams.filter fun e =>
    decide (e.2.status = TeamStatus.retired) && e.2.launch == t.launch && e.2.dispatched &&
      (match level with
        | 0 => e.2.block == t.block
        | 1 => (s.blockOf e.2.block).index / 4 == g
        | _ => true)
  (s.kernelOf l).tpb * blocks - gone.length

/-- A team's wait has ended, and its word counts as issued. -/
def Team.endHold (t : Team) (seq : Nat) : Team :=
  ({ t with wait := .none, waited := 0, timeout := 0, stamp := seq } : Team).advance seq t.afterWords t.afterSw

/-- The flip test (R273): the phase turns when every participant has arrived, and every waiter goes on, one that is switched out at
its restore (R409). -/
def State.flipTest (s : State) (team level n : Nat) : State :=
  let b := s.barrier team level n
  if b.arrived.length = s.participants team level ∧ b.arrived ≠ [] then
    let s1 := s.setBarrier team level n { phase := !b.phase, waiters := [], arrived := [] }
    b.waiters.foldl (fun (s : State) (w : Nat) =>
      let u := s.teamOf w
      if u.wait = .barrier level n ∧ u.status ≠ TeamStatus.saved then s.setTeamOf w (u.endHold s.seq) else s) s1
  else s

/-- The flip test that follows an event of a barrier, at the end of its cycle (R273). -/
def State.flipAfter (s : State) (team level n : Nat) : State :=
  if s.cycleTraps.isSome then s else s.flipTest team level n

/-- An arrival is recorded (R273). -/
def State.recordArrival (s : State) (team level n : Nat) : State :=
  let b := s.barrier team level n
  if b.arrived.contains team then s
  else (s.setBarrier team level n { b with arrived := b.arrived ++ [team] }).flipAfter team level n

/-- A release that an arrival belongs to has performed: the arrival is recorded (R246). -/
def State.settleRelease (s : State) (team : Nat) (r : Release) : State :=
  match r.arrive with
  | none => s
  | some (level, n) => if s.relDone team r then (s.dropRelease team r.id).recordArrival team level n else s

/-- A team's releases that have performed, and its acquires that are over, no longer hold its later accesses (R241). -/
def State.settleOrder (s : State) (team : Nat) : State :=
  let t := s.teamOf team
  if t.rels.isEmpty && t.acqs.isEmpty then s
  else s.setTeamOf team { t with rels := t.rels.filter fun r => r.arrive.isSome || !s.relDone team r,
                                 acqs := t.acqs.filter fun a => !t.acqDone a }

/-- Records the arrivals of a team whose releases have performed, and lets a spawned team begin (R246, R266). -/
def State.settleTeam (s : State) (team : Nat) : State :=
  let t := s.teamOf team
  let s0 := t.rels.foldl (fun (s : State) (r : Release) => s.passBy team r) s
  let s1 := (t.rels.foldl (fun (s : State) (r : Release) => s.settleRelease team r) s0).settleOrder team
  match t.wait with
  | .born sp rel => if s1.relNumberDone sp rel then s1.setTeamOf team { s1.teamOf team with wait := .none, stamp := s.seq } else s1
  | _ => s1

/-- What comes about by itself once releases have performed. -/
def State.settle (s : State) : State := s.teams.keys.foldl (fun (s : State) (id : Nat) => s.settleTeam id) s

/-- A participant arrives (R246, R273): a second arrival in one phase has no effect, and a spawned team's counts nothing
(R267). -/
def State.arriveAt (s : State) (level n : Nat) : State :=
  let t := s.team
  let b := s.barrier s.cur level n
  if ¬ t.dispatched ∨ b.arrived.contains s.cur ∨ t.rels.any (fun r => r.arrive == some (level, n)) then s
  else (s.beginRelease (match level with | 0 => 1 | 1 => 2 | _ => 4) (some (level, n))).settleTeam s.cur

/-- The team waits for the next flip (R273). -/
def State.waitAt (s : State) (level n timeout : Nat) (sw : Bool) : State :=
  let b := s.barrier s.cur level n
  (s.setBarrier s.cur level n { b with waiters := b.waiters ++ [s.cur] }).hold (.barrier level n) timeout 2 sw

/-- A word that a rebrew slot may not use (R345). -/
def notInRebrew (s : State) (k : Res) : Res := if s.team.inRebrew then .trap .illegal 0 {} else k

/-- bar.arr (R246, R297). -/
def execBarArr (sw : Bool) (l : BitVec 2) (n : BitVec 3) (s : State) : Out :=
  run s sw 1 {} fun s => notInRebrew s (.ok (s.arriveAt l.toNat n.toNat))

/-- bar.wt (R297). -/
def execBarWt (sw : Bool) (l : BitVec 2) (n : BitVec 3) (timeout : BitVec 32) (s : State) : Out :=
  run s sw 2 {} fun s => notInRebrew s (.moved (s.waitAt l.toNat n.toNat timeout.toNat sw))

/-- bar.sync (R273, R297): the arrival and the wait come before one flip test. -/
def execBarSync (sw : Bool) (l : BitVec 2) (n : BitVec 3) (timeout : BitVec 32) (s : State) : Out :=
  run s sw 2 {} fun s => notInRebrew s
    (.moved ((s.waitAt l.toNat n.toNat timeout.toNat sw).arriveAt l.toNat n.toNat))

/-- BARRIER_TIMEOUT (R273, R275): no flip has reached the team within its timeout. -/
def execBarrierTimeout (team : Nat) (s : State) : Out :=
  let t := s.teamOf team
  .next (match t.wait with
    | .barrier level n =>
      if t.waited < t.timeout ∨ t.status ≠ TeamStatus.live then s
      else
        let b := s.barrier team level n
        (s.setBarrier team level n { b with waiters := b.waiters.filter (· != team) }).asTeam team fun s => s.takeTrap .wait 0
    | _ => s)

/-! Spawned teams. -/

/-- The register words that a new team holds: block 0, zero in every lane (R41, R266). -/
def zeroBlock0 (tsize : Nat) : Vector (List Word) 64 :=
  Vector.ofFn fun i => if i.val < 8 then List.replicate tsize 0 else []

/-- The registers of a team that begins, with k0 all its lanes (R41, R266). -/
def Regs.begin (tsize tiles : Nat) : Regs :=
  { v := zeroBlock0 tsize, s := Vector.replicate 64 0, k := (Vector.replicate 8 (0 : Mask)).set 0 (allLanes tsize),
    exec := allLanes tsize, z := Vector.ofFn fun i => if i.val < tiles then List.replicate 1024 0 else [], cc := 0,
    fm := 0 }

/-- A slot of a core is free: no team has it. -/
def State.slotFree (s : State) (core f n : Nat) : Bool :=
  !s.teams.any fun e => decide (e.2.status = TeamStatus.live) && e.2.core == core
    && rangesMeet f n e.2.slot (e.2.tsize / 64)

/-- Teams bound to a pipe of a core. -/
def State.pipeLoad (s : State) (core pipe : Nat) : Nat :=
  (s.teams.filter fun e => decide (e.2.status = TeamStatus.live) && e.2.core == core && e.2.slot % 4 == pipe).length

/-- Blocks of a launch that are placed on a core. -/
def State.placedOn (s : State) (id core : Nat) : Nat :=
  (s.blocks.filter fun e => e.2.launch == id && e.2.core == core && !e.2.retired && !e.2.saved).length

/-- Team sizes in slots, the largest first. -/
def sortSizes (sizes : List Nat) : List Nat := [16, 8, 4, 2, 1].flatMap fun n => sizes.filter (· == n)

/-- Sizes in slots, the largest first, of the teams that live launches may yet place on a core: their blocks that are
neither placed nor retired, as far as their reservations there go (R264). One block of the launch that is placing is left
out. -/
def State.unplaced (s : State) (core : Nat) (placing : Option Nat) : List Nat :=
  let sizes := s.launches.flatMap fun e =>
    if e.2.phase = .live ∧ e.2.coreList.contains core then
      let saved := (s.blocks.filter fun b => b.2.launch == e.1 && b.2.saved && !b.2.retired).length
      let blocks := min (e.2.perCore - s.placedOn e.1 core) (e.2.gridBlocks - e.2.nextBlock + saved)
      List.replicate ((if placing = some e.1 then blocks - 1 else blocks) * (s.kernelOf e.2).tpb)
        ((s.kernelOf e.2).tsize / 64)
    else []
  sortSizes sizes

/-- Takes n consecutive slots out of the first run that has them. -/
def takeRun (n : Nat) : List Nat → Option (List Nat)
  | [] => none
  | r :: rs => if n ≤ r then some ((r - n) :: rs) else (takeRun n rs).map (r :: ·)

/-- Runs of free slots have room for teams of these sizes, the largest first. -/
def fitsRuns (runs : List Nat) (sizes : List Nat) : Bool :=
  (sizes.foldlM (fun (rs : List Nat) n => takeRun n rs) runs).isSome

/-- The lengths of the runs of free slots of a core, beside n slots from f on. -/
def State.freeRuns (s : State) (core f n : Nat) : List Nat :=
  (List.range 64).foldl (fun (rs : List Nat) i =>
    if s.slotFree core i 1 && !rangesMeet f n i 1 then (rs.headD 0 + 1) :: rs.drop 1 else 0 :: rs) []

/-- The first slot for a team of n slots (R260): of the free ones that leave room for teams of the sizes still to be
placed (R264), on the pipe with the fewest teams, and then the lowest. Where none leaves that room, of all free ones. -/
def State.pickSlot (s : State) (core n : Nat) (rest : List Nat) : Option Nat :=
  let free := (List.range (65 - n)).filter fun f => s.slotFree core f n
  let roomy := free.filter fun f => fitsRuns (s.freeRuns core f n) rest
  (if roomy.isEmpty then free else roomy).foldl (fun (best : Option Nat) f => match best with
    | none => some f
    | some b => if s.pipeLoad core (f % 4) < s.pipeLoad core (b % 4) then some f else best) none

/-- Bytes of a team's areas: private area, context image, spill area (R287, R362, R390). -/
def Kernel.teamBytes (k : Kernel) (lanes : Nat) (spill : Bool) : Nat :=
  lanes * k.privBytes + imageBytes lanes k.tiles + (if spill then 48 * 320 else 0)

/-- Bytes of a block image (log 30): a header with the barriers and the mapped ranges, a record for each team, the stash; its length is rounded up, so that the areas after it are aligned to 128 bytes (R185). -/
def Kernel.blockImageBytes (k : Kernel) : Nat := (512 + 320 * k.teams + 1024 * k.stashKiB + 127) / 128 * 128

/-- Where the areas of the i-th team of a block begin in the block's share of the pool piece: first those of the teams
placed at dispatch, then those of the spawns. -/
def Kernel.teamOffset (k : Kernel) (spill : Bool) (i : Nat) : Nat :=
  k.blockImageBytes + (if i < k.tpb then i * k.teamBytes k.tsize spill
    else k.tpb * k.teamBytes k.tsize spill + (i - k.tpb) * k.teamBytes 64 spill)

/-- The bytes of a block's share. -/
def Kernel.shareBytes (k : Kernel) (spill : Bool) : Nat := k.teamOffset spill k.teams

/-- A team with its areas at an address. -/
def Team.withAreas (t : Team) (va : Nat) : Team :=
  { t with privbase := va, imageVa := va + t.tsize * t.privBytes,
           spillBase := va + t.tsize * t.privBytes + imageBytes t.tsize t.ntile }

/-- The areas of a new spawned team: the first of its block's that no team has. -/
def State.spawnArea (s : State) : Nat :=
  let k := s.kernel
  let at_ (i : Nat) : Nat := s.block.imageVa + k.teamOffset s.spilling (k.tpb + i)
  let used (va : Nat) : Bool := s.teams.any fun e => e.2.block == s.team.block && e.2.privbase == va
    && decide (e.2.status = TeamStatus.live ∨ e.2.status = TeamStatus.saved)
  at_ (((List.range (k.tpb * k.spawn)).find? fun i => !used (at_ i)).getD 0)

/-- The spawned team as it begins (R266). -/
def State.spawned (s : State) (root slot rel : Nat) (pc : BitVec 48) : Team :=
  let t := s.team
  let k := s.kernel
  let r := Regs.begin 64 k.tiles
  let scalars := Vector.ofFn fun (i : Fin 64) =>
    if 1 ≤ i.val ∧ i.val ≤ 8 then t.regs.s[i] else if i.val = 62 then BitVec.ofNat 64 k.privBytes else 0
  ({ Team.vacant with
      status := .live, launch := t.launch, block := t.block, core := t.core, slot := slot, tsize := 64, index := t.index,
      spawner := some root, regs := { r with s := scalars }, pc := pc, held := 1, ntile := k.tiles,
      wait := .born s.cur rel, stamp := s.seq, privBytes := k.privBytes } : Team).withAreas s.spawnArea

/-- The number of a new team: one that no team has had. -/
def State.newTeam (s : State) : Nat := (s.teams.keys.foldl max 0) + 1

/-- The number of a new block. -/
def State.newBlock (s : State) : Nat := (s.blocks.keys.foldl max 0) + 1

/-- spawn (R266, R267, R298): a new team of the block, which begins once the release toward it has performed. -/
def execSpawn (sw : Bool) (o : BitVec 20) (s : State) : Out :=
  run s sw 1 { sr := (List.range 8).map fun i => BitVec.ofNat 6 (i + 1) } fun s =>
    let t := s.team
    let root := t.spawner.getD s.cur
    if t.inRebrew ∨ ¬ s.inCode (s.target o).toNat then .trap .illegal 0 {}
    else if s.kernel.spawn ≤ (s.teamOf root).spawns then .trap .spawn 0 {}
    else match s.pickSlot t.core 1 (s.unplaced t.core none) with
      | none => .trap .spawn 0 {}
      | some slot =>
        let id := s.newTeam
        let s1 := (s.beginRelease 1).setTeamOf id (s.spawned root slot s.seq (s.target o))
        let u := s1.teamOf root
        let s2 := s1.setTeamOf root { u with spawns := u.spawns + 1 }
        let b := s2.block
        .ok ((s2.setBlock { b with teams := b.teams ++ [id] }).settleTeam id)

/-! Register blocks. -/

/-- The registers of a block. -/
def blockRegs (n : Nat) : List Nat := (List.range 8).map (8 * n + ·)

/-- The registers of a block become these words. -/
def Team.setBlockRegs (t : Team) (n : Nat) (ws : List Word) : Team :=
  { t with regs := { t.regs with v := (blockRegs n).foldl (fun (v : Vector (List Word) 64) r => v.setIfInBounds r ws) t.regs.v } }

/-- Blocks that the team may hold: REGS of its kernel, or the blocks of its slice (R270, R344). -/
def State.blockBound (s : State) : Nat :=
  match s.team.rebrew with | some r => r.blocks | none => s.kernel.regs

/-- Register blocks held. -/
def Team.heldCount (t : Team) : Nat := ((List.range 8).filter t.held.getLsbD).length

/-- racq (R270, R301). -/
def execRacq (sw : Bool) (n : BitVec 3) (s : State) : Out :=
  run s sw 1 {} fun s =>
    let t := s.team
    if t.held.getLsbD n.toNat then .ok s
    else if s.blockBound ≤ t.heldCount then .trap .regblk 0 {}
    else .ok (s.setTeam { t.setBlockRegs n.toNat (List.replicate t.tsize 0) with
                          held := t.held ||| BitVec.twoPow 8 n.toNat })

/-- rrel (R301): counts as a write to each register of the block. -/
def execRrel (sw : Bool) (n : BitVec 3) (s : State) : Out :=
  run s sw 1 { vw := if s.team.held.getLsbD n.toNat then blockRegs n.toNat else [] } fun s =>
    let t := s.team
    if t.held.getLsbD n.toNat then
      .ok (s.setTeam { t.setBlockRegs n.toNat [] with held := t.held &&& ~~~(BitVec.twoPow 8 n.toNat) })
    else .ok s

/-! The timer. -/

/-- tset (R302): the sum stays below 2^64, a value that %tmr does not reach. -/
def execTset (sw : Bool) (a : SReg) (s : State) : Out :=
  run s sw 1 { sr := [a] } fun s => notInRebrew s (
    let t := s.team
    let x := t.getS a
    .ok (s.setTeam { t with timerArmed := x != 0, timerDue := false,
                            tdue := BitVec.ofNat 64 (min (2 ^ 64 - 1) (t.tmr.toNat + x.toNat)) }))

/-- TIMER_DUE (R302, R391): %tmr has reached the value set. -/
def execTimerDue (team : Nat) (s : State) : Out :=
  let t := s.teamOf team
  .next (if t.status = TeamStatus.live ∧ t.timerArmed ∧ t.tdue ≤ t.tmr then
    s.setTeamOf team { t with timerArmed := false, timerDue := true }
  else s)

/-- A due timer may be taken at the boundary that the team has reached (R166, R302); the repetitions of a rep have no
boundary between them, and a word whose timeout has begun to run has issued. -/
def Team.takesTimer (t : Team) : Bool :=
  t.timerDue && !t.inHandler && t.inv.isNone && t.rep.isNone && t.timeout == 0
    && decide (t.wait = .none ∧ t.status = TeamStatus.live)

/-- TIMER (R302, R380): the trap at the instruction that would have issued. -/
def execTimer (team : Nat) (s : State) : Out :=
  let t := s.teamOf team
  .next (if t.takesTimer then (s.setTeamOf team { t with timerDue := false }).asTeam team fun s => s.takeTrap .timer 0
    else s)

end Sys2Proof.Machine
end

