-- ==== Sys2Proof/Machine/Sha.lean ====
section
/-! DEFINITION. SHA-256, the hash that registration measures an image with (R371, R374). The manual names the hash and
does not print it; its rounds and its constants, roots of primes, are taken from FIPS 180-4 (log 31). -/
namespace Sys2Proof.Machine

/-- The greatest r below 2^n beyond `acc` with r^k ≤ x, found bit by bit. -/
def rootUpTo (k x : Nat) : Nat → Nat → Nat
  | 0, acc => acc
  | n + 1, acc => rootUpTo k x n (if (acc + 2 ^ n) ^ k ≤ x then acc + 2 ^ n else acc)

/-- The first 32 bits of the fractional part of the k-th root of p. -/
def rootBits (k p : Nat) : Word := BitVec.ofNat 32 (rootUpTo k (p * 2 ^ (32 * k)) 37 0)

/-- The primes below 312: the first 64. -/
def shaPrimes : List Nat := (List.range 312).filter fun p => decide (2 ≤ p) && (List.range 18).all fun d => d < 2 || p ≤ d || p % d != 0

/-- The round constants: cube roots of the first 64 primes. -/
def shaK : List Word := shaPrimes.map (rootBits 3)

/-- The two histories that a compression works on, each newest first: of the word that FIPS 180-4 calls a, and of the one
that it calls e. -/
abbrev ShaHist := List Word × List Word

/-- The initial hash: square roots of the first eight primes. -/
def shaInit : ShaHist := (((shaPrimes.take 4).map (rootBits 2)), (((shaPrimes.drop 4).take 4).map (rootBits 2)))

/-- The exclusive or of a word's rotations to the right by some distances. -/
def rotMix (ns : List Nat) (x : Word) : Word := ns.foldl (fun acc n => acc ^^^ x.rotateRight n) 0

/-- A word of the message schedule, from the words before it, newest first. -/
def shaNext (past : List Word) : Word :=
  let at_ (n : Nat) : Word := past.getD (n - 1) 0
  at_ 16 + at_ 7 + (rotMix [7, 18] (at_ 15) ^^^ at_ 15 >>> 3) + (rotMix [17, 19] (at_ 2) ^^^ at_ 2 >>> 10)

/-- One step of the compression: a round constant, with the oldest schedule word of the window used and a new one made. -/
def shaStep (x : ShaHist × List Word) (k : Word) : ShaHist × List Word :=
  let a (i : Nat) : Word := x.1.1.getD i 0
  let e (i : Nat) : Word := x.1.2.getD i 0
  let choice := e 2 ^^^ (e 0 &&& (e 1 ^^^ e 2))
  let majority := (a 0 &&& a 1) ||| (a 2 &&& (a 0 ||| a 1))
  let mixed := x.2.getD 15 0 + k + e 3 + choice + rotMix [6, 11, 25] (e 0)
  (((mixed + majority + rotMix [2, 13, 22] (a 0)) :: x.1.1.take 3, (a 3 + mixed) :: x.1.2.take 3),
   shaNext x.2 :: x.2.take 15)

/-- One block of sixteen words. -/
def shaBlock (h : ShaHist) (ws : List Word) : ShaHist :=
  let out := (shaK.foldl shaStep (h, ws.reverse)).1
  (List.zipWith (· + ·) out.1 h.1, List.zipWith (· + ·) out.2 h.2)

/-- Big-endian words of a byte string. -/
def shaWords : List Byte → List Word
  | a :: b :: c :: d :: bs => (a ++ b ++ c ++ d : Word) :: shaWords bs
  | _ => []

/-- The blocks of a padded message. -/
def shaBlocks (h : ShaHist) : Nat → List Word → ShaHist
  | 0, _ => h
  | n + 1, ws => shaBlocks (shaBlock h (ws.take 16)) n (ws.drop 16)

/-- SHA-256 of a byte string, as 32 bytes. -/
def sha256 (bs : List Byte) : List Byte :=
  let n := bs.length
  let zeros := (119 - n % 64) % 64
  let padded := bs ++ (0x80 : Byte) :: List.replicate zeros 0 ++ (toBytesLE 8 (8 * n)).reverse
  let ws := shaWords padded
  let h := shaBlocks shaInit (ws.length / 16) ws
  (h.1 ++ h.2).flatMap fun w => (toBytesLE 4 w.toNat).reverse

end Sys2Proof.Machine
end

