-- ==== Sys2Proof/Machine/Streams.lean ====
section
/-! DEFINITION. The command streams as the front cores hold them: the fields of a stream-table entry, a ring's delta state,
and the condition under which a ring's packets are handled (R360, R361, R369 to R371). -/
namespace Sys2Proof.Machine

/-- A field of a stream-table entry: n bytes from an offset (R369). -/
def State.streamField (s : State) (i off n : Nat) : Nat := s.streamTable.readLE (64 * i + off) n
/-- Writes a field of a stream-table entry. -/
def State.setStreamField (s : State) (i off n x : Nat) : State :=
  { s with streamTable := s.streamTable.writeBytes (64 * i + off) (toBytesLE n x) }
/-- EN. -/
def State.streamOn (s : State) (i : Nat) : Bool := bit (s.streamField i 32 2) 15
/-- The context-table index in CTX. -/
def State.streamCtx (s : State) (i : Nat) : Nat := bits (s.streamField i 32 2) 5 0
/-- ERR. -/
def State.streamErr (s : State) (i : Nat) : Nat := s.streamField i 35 1
/-- ENDPT. -/
def State.endpt (s : State) (i : Nat) : Nat := s.streamField i 36 8
/-- HBASE or NBASE. -/
def State.ringBase (s : State) (r : Ring) : Nat := s.streamField r.stream (if r.high then 0 else 8) 8
/-- Where HTAIL or NTAIL stands in its entry. -/
def tailOff (r : Ring) : Nat := if r.high then 16 else 20
/-- Where HHEAD or NHEAD stands in its entry. -/
def headOff (r : Ring) : Nat := if r.high then 24 else 28

/-- The context that a ring is bound to. -/
def State.ringCtx (s : State) (r : Ring) : Nat := s.streamCtx r.stream
/-- The key of a ring. -/
def ringKey (r : Ring) : Nat := 2 * r.stream + (if r.high then 1 else 0)
/-- The state of a ring beside its entry. -/
def State.ringOf (s : State) (r : Ring) : RingState := s.rings.get RingState.start (ringKey r)
/-- Replaces the state of a ring. -/
def State.setRing (s : State) (r : Ring) (x : RingState) : State := { s with rings := s.rings.set (ringKey r) x }

/-- A management endpoint is named (R361). -/
def State.managed (s : State) : Bool := s.sys.mgmtep != 0

/-- The front core reads a ring's packets: an endpoint is named, the stream is enabled, no error has stopped the ring, its front
core runs, and no FENCE holds the ring (R361, R369, R370, R395). -/
def State.ringRuns (s : State) (r : Ring) : Bool :=
  s.managed && decide (r.stream < 128) && s.streamOn r.stream && !(s.ringOf r).stopped
    && !s.haltedFronts.contains (r.stream / 32) && (s.ringOf r).hold.isNone

/-- The handling of a packet (R370): the ring keeps its fields for the packets after it, and the packet has its effect. -/
def packet (s : State) (r : Ring) (fields : Delta → Delta) (k : State → State) : Out :=
  .next (if s.ringRuns r then
    let x := s.ringOf r
    k (s.setRing r { x with delta := fields x.delta })
  else s)

/-- Writes ERR of a stream (R370). -/
def State.stopStream (s : State) (i code : Nat) : State := s.setStreamField i 35 1 code

/-- Stops a ring with an error code (R370). The stream's other ring goes on. -/
def State.stopRing (s : State) (r : Ring) (code : Nat) : State :=
  (s.setRing r { s.ringOf r with stopped := true }).stopStream r.stream code

end Sys2Proof.Machine
end

