-- ==== Sys2Proof/Machine/Charges.lean ====
section
/-! DEFINITION. What the cupping unit charges each word (R104, R159, R168, R233, R305, R314, R350, R364), as counters of a
skeleton, and the arithmetic of skeletons (R308, R309). -/
namespace Sys2Proof.Machine

/-- Combines two lists of counters, counter by counter. -/
def Counts.with (f : Nat → Nat → Nat) (a b : Counts) : Counts :=
  { nalu := f a.nalu b.nalu, ntrans := f a.ntrans b.ntrans, nstash := f a.nstash b.nstash, nl1 := f a.nl1 b.nl1,
    nll := f a.nll b.nll, nhbm := f a.nhbm b.nhbm, nmstart := f a.nmstart b.nmstart, nmstep := f a.nmstep b.nmstep,
    nfix := f a.nfix b.nfix, ne0 := f a.ne0 b.ne0, ne1 := f a.ne1 b.ne1, ne2 := f a.ne2 b.ne2, ne3 := f a.ne3 b.ne3,
    ne4 := f a.ne4 b.ne4, ne5 := f a.ne5 b.ne5, ne6 := f a.ne6 b.ne6 }

/-- Combines two skeletons, counter by counter. -/
def Skeleton.with (f : Nat → Nat → Nat) (a b : Skeleton) : Skeleton :=
  { plain := a.plain.with f b.plain, copies := a.copies.with f b.copies, matrix := a.matrix.with f b.matrix,
    nmb := f a.nmb b.nmb, nts := f a.nts b.nts, ni8 := f a.ni8 b.ni8, nh16 := f a.nh16 b.nh16, ncls := f a.ncls b.ncls,
    nwait := f a.nwait b.nwait, twait := f a.twait b.twait, nsys := f a.nsys b.nsys, rebrew := f a.rebrew b.rebrew,
    ntld := f a.ntld b.ntld, ncts := f a.ncts b.ncts, nrmat := f a.nrmat b.nrmat }

/-- One after the other. -/
def Skeleton.add (a b : Skeleton) : Skeleton := a.with (· + ·) b
/-- The greater of each counter (R308). -/
def Skeleton.max (a b : Skeleton) : Skeleton := a.with Max.max b
/-- n times. -/
def Skeleton.times (n : Nat) (a : Skeleton) : Skeleton := a.with (fun x _ => n * x) a

/-- What a kernel's charges depend on: passes of a vector form (R103), the bytes of the block's stash, whether the kernel
contains smap, and whether it declares every one of its `.tensor` arguments, and at least one, resident (R233). -/
structure Rates where
  passes : Nat
  stash : Nat
  smap : Bool
  allResident : Bool
  deriving DecidableEq, Repr

/-- Counters of an ordinary charge. -/
def plainly (c : Counts) : Skeleton := { plain := c }

/-- A charge for each of a number of passes. -/
def perPass (r : Rates) (c : Counts) : Skeleton := (plainly c).times r.passes

/-- A wait, charged at its timeout (R305, R308). -/
def waitCharge (timeout : BitVec 32) : Skeleton := { plain := { ne0 := 1 }, nwait := 1, twait := timeout.toNat }

/-- A copy at its limit (R233): its lines, its source start, whether each end is stash, and its number of targets. -/
def copyCharge (limit : Nat) (dst src : Bool) (targets : Nat) (start : Counts) : Skeleton :=
  let lines := (limit + 511) / 512
  let ends := (if dst then 1 else 0) + (if src then 1 else 0)
  { copies := start.with (· + ·)
      { nfix := 16 + 2 * lines, ne4 := lines * targets * ends, ne5 := lines * targets * (2 - ends),
        ne6 := lines * targets * (2 - ends) } }

/-- A matrix or ternary form of n steps, beside its energy (R159). -/
def stepsCharge (n : Nat) : Skeleton := { matrix := { nfix := 1, nmstart := 1, nmstep := n } }

/-- The charge of a word: one issue of its form with its passes. Its switch marker is not counted here; zclr's energy is counted
at E4 twice (log 34). -/
def charge (r : Rates) : Instr → Skeleton
  | .sdiv .. | .sdivU .. | .srem .. | .sremU .. => plainly { nfix := 20, ne1 := 1 }
  | .sadd .. | .ssub .. | .smul .. | .smulh .. | .smulhU .. | .scmp .. | .saddImm .. | .sand .. | .sor .. | .sxor ..
  | .sshl .. | .sshr .. | .ssar .. | .sandImm .. | .sorImm .. | .sshlImm .. | .sshrImm .. | .ssarImm .. | .smin ..
  | .smax .. | .sminU .. | .smaxU .. | .ssel .. | .sbfx .. | .sbfi .. | .spopc .. | .sclz .. | .smov .. | .smovi ..
  | .slui .. | .smovSpecial .. | .fmsetImm .. | .fmset .. | .fmget .. | .kand .. | .kor .. | .kxor .. | .kandn ..
  | .knot .. | .kmov .. | .kpop .. | .kfirst .. | .kset .. => plainly { nalu := 1, ne0 := 1 }
  | .vadd .. | .vsub .. | .vadds .. | .vsubs .. | .vaddsU .. | .vsubsU .. | .vmul .. | .vmulh .. | .vmulhU .. | .vand ..
  | .vor .. | .vxor .. | .vshl .. | .vshr .. | .vsar .. | .vmin .. | .vmax .. | .vminU .. | .vmaxU .. | .vabs ..
  | .vmad .. | .vdot4 .. | .vdot4U .. | .vcmpEq .. | .vcmpNe .. | .vcmpLt .. | .vcmpLe .. | .vcmpLtu .. | .vcmpLeu ..
  | .vsel .. | .vbfxU .. | .vbfxS .. | .vbfi .. | .vpopc .. | .vclz .. | .vmov .. | .vmovi .. | .vmovLane ..
  | .vaddImm .. => perPass r { nalu := 1, ne1 := 1 }
  | .fadd .. | .fsub .. | .fmul .. | .fma .. | .fmin .. | .fmax .. | .fcmpEq .. | .fcmpNe .. | .fcmpLt .. | .fcmpLe ..
  | .fcmpUn .. | .fcmpOrd .. | .fclass .. | .froundRn .. | .froundRz .. | .froundRu .. | .froundRd .. | .fround ..
  | .cvt .. | .pack2 .. | .pack4 .. | .unpack .. | .bscale .. | .bapply .. => perPass r { nalu := 1, ne2 := 1 }
  | .frcp .. | .frsq .. | .fsqrt .. | .fexp2 .. | .flog2 .. | .fsin .. | .fcos .. | .ftanh .. =>
    perPass r { ntrans := 1, ne3 := 1 }
  | .fdiv .. => perPass r { nfix := 24, ne3 := 2 }
  | .shflIdx .. | .shflXor .. | .shflUp .. | .shflDn .. | .bcast .. | .rdcAdd .. | .rdcMin .. | .rdcMax .. | .rdcMinU ..
  | .rdcMaxU .. | .scanAdd .. | .scanMin .. | .scanMax .. | .scanMinU .. | .scanMaxU .. =>
    perPass r { ntrans := 1, ne1 := 1 }
  | .rdcFadd .. | .rdcFmin .. | .rdcFmax .. | .scanFadd .. | .scanFmin .. | .scanFmax .. =>
    perPass r { ntrans := 1, ne2 := 1 }
  | .voteAny .. | .voteAll .. | .voteUni .. | .ballot .. => perPass r { ntrans := 1, ne0 := 1 }
  | .ld .. | .st .. | .amoAdd .. | .amoMin .. | .amoMax .. | .amoAnd .. | .amoOr .. | .amoXor .. | .amoXchg ..
  | .amoFadd .. | .amocas .. | .redAdd .. | .redMin .. | .redMax .. | .redAnd .. | .redOr .. | .redXor ..
  | .redFadd .. => perPass r { nhbm := 1, ne5 := 1, ne6 := 1 }
  | .sld .. | .sst .. => perPass r (if r.smap then { nhbm := 1, ne5 := 1, ne6 := 1 } else { nstash := 1, ne4 := 1 })
  | .pld .. | .pst .. => perPass r { nll := 1, nfix := 31, ne4 := 32, ne5 := 1 }
  | .tld .. => { rebrew := 1, ntld := 1 }
  | .tst .. => plainly (if r.allResident then { nll := 1, ne5 := 1 } else { nhbm := 1, ne5 := 1, ne6 := 1 })
  | .pref .. => perPass r { nalu := 1, ne5 := 1, ne6 := 1 }
  | .discard .. | .lastuse .. | .smap .. | .rput .. | .rdrop .. => plainly { nll := 1, ne5 := 1 }
  | .rmat .. => { plain := { nll := 1, ne5 := 1 }, rebrew := 1, nrmat := 1 }
  | .sunmap .. => plainly { nll := 1, nfix := 2 * (r.stash / 512), ne5 := r.stash / 512 }
  | .cwb .. => plainly { nhbm := 1, nfix := 2 * 2048, ne6 := 2048 }
  | .fen _ p _ => match p.toNat with
    | 0 => plainly { nalu := 1, ne0 := 1 }
    | 1 => plainly { nfix := 24, ne0 := 1 }
    | 2 => plainly { nfix := 120, ne0 := 1 }
    | 3 => plainly { nfix := 400, ne0 := 1 }
    | 4 => plainly { nfix := 800, ne1 := 1 }
    | _ => { plain := { nfix := 800, ne1 := 1 }, nsys := 1 }
  | .ifen .. => plainly { nfix := 400, ne0 := 1 }
  | .cpy _ y x _ _ _ => copyCharge (if y || x then r.stash else 65536) x y 1 (if y then { nstash := 1 } else { nhbm := 1 })
  | .cpym _ m _ _ _ => copyCharge r.stash true false ((List.range 4).filter m.getLsbD).length { nhbm := 1 }
  | .cpytTs .. => { copyCharge 512 true false 1 { nhbm := 1 } with rebrew := 1, ncts := 1 }
  | .cpytSt .. => copyCharge 512 false true 1 { nhbm := 1 }
  | .bclC .. | .bclM .. => plainly { nalu := 1, ne0 := 1 }
  | .bwtC _ _ timeout | .bwtM _ _ timeout => waitCharge timeout
  | .bqryC .. | .bqryM .. => plainly { ntrans := 1, ne0 := 1 }
  | .mmaBf16 .. | .mmaF16 .. | .mmaF8 .. | .mmaF4 .. => { stepsCharge 1 with nmb := 1 }
  | .mmaI8 .. => { stepsCharge 1 with ni8 := 1 }
  | .mmaH16 .. => { matrix := { nfix := 2, nmstart := 1 }, nh16 := 1 }
  | .tsa .. => { stepsCharge 1 with nts := 1 }
  | .mmlBf16 _ _ _ _ _ n _ _ | .mmlF16 _ _ _ _ _ n _ _ | .mmlF8 _ _ _ _ _ n _ _ | .mmlF4 _ _ _ _ _ n _ _ =>
    { stepsCharge n.toNat with nmb := n.toNat }
  | .mmlI8 _ _ _ _ _ n _ _ => { stepsCharge n.toNat with ni8 := n.toNat }
  | .mmlH16 _ _ _ _ _ n _ _ => { matrix := { nfix := 1 + n.toNat, nmstart := 1 }, nh16 := n.toNat }
  | .tsl _ _ _ _ _ n _ _ => { stepsCharge n.toNat with nts := n.toNat }
  | .zclr .. => { matrix := { nfix := 1, nalu := 1, ne4 := 2 } }
  | .zld .. | .zst .. => { matrix := { nfix := 33, nmstart := 1, ne4 := 32 } }
  | .zcvt .. => { matrix := { nfix := 33, nmstart := 1, ne2 := 32 } }
  | .barWt _ _ _ timeout | .barSync _ _ _ timeout | .cwait _ _ _ timeout => waitCharge timeout
  | .launch .. => { plain := { ne0 := 1 }, twait := 900 }
  | .br .. | .bcc .. | .bmz .. | .bmnz .. | .call .. | .calli .. | .jmp .. | .ret .. | .nop .. | .exit .. | .mif ..
  | .melse .. | .mend .. | .mbrk .. | .mcont .. | .lpb .. | .lpbW .. | .lpe .. | .barArr .. | .spawn .. | .racq ..
  | .rrel .. | .tset .. | .trap .. | .brk .. | .tret .. | .fqry .. | .sysr .. | .sysw .. | .tlbi .. | .tlbiId ..
  | .tlbiVa .. => plainly { nalu := 1, ne0 := 1 }
  | .rep .. | .inv .. => {}
  | .reg .. | .quote .. | .accept .. | .revoke .. | .pred .. | .fence .. | .fenceSatisfied .. | .signal ..
  | .streamTailWrite .. | .streamErrClear .. | .hostFabricWrite .. | .managementClaim .. | .systemRegisterWrite ..
  | .budgetWrite .. | .oppWrite .. | .oppLoweringApply .. | .stashcfgWrite .. | .stashcfgApply .. | .tlbinvIdentifier ..
  | .tlbinvPage .. | .tlbiDone .. | .areportWrite .. | .attestReportDone .. | .preemptSave .. | .preemptRestore ..
  | .preemptExport .. | .preemptImport .. | .quoteLapse .. | .placeBlock .. | .resultWrite .. | .storePerform ..
  | .atomicApply .. | .lineFill .. | .rebrewSlotStart .. | .sliceCycOverrun .. | .sliceNjOverrun .. | .copyLine ..
  | .matrixStep .. | .flushMarkerReport .. | .peerReport .. | .peerlate .. | .peerfail .. | .barrierTimeout .. | .batchWaitTimeout ..
  | .cwaitTimeout .. | .childLaunchDone .. | .timerDue .. | .timer .. | .userHandlerLimit .. | .privHandlerReturn ..
  | .emergencyBlockGrant .. | .machinePreempt .. | .restoreBlock .. | .teamRetire .. | .launchComplete ..
  | .costReplan .. | .thermalEmergency .. | .thermalEnd .. | .errorDetected .. | .quotingResume .. | .deviceReset ..
  | .illegalWord .. | .instructionFetch .. => {}

end Sys2Proof.Machine
end

