-- ==== Sys2Proof/Machine/Prefix.lean ====
section
/-! DEFINITION. The prefixes: rep with the stepping of its word (R36, R47, R48, R75), and inv with its routine, its runs
and its results (R76, R160 to R166, R406). -/
namespace Sys2Proof.Machine

/-! Words in their clauses. -/

/-- The clause of an address: its header's address, and the header. -/
def State.clauseOf (s : State) (va : Nat) : Option (Nat × Header) :=
  (s.clauseAt s.ctx va).bind fun h => ((s.code h).bind decodeHeader).map fun hd => (h, hd)

/-- The literals that the clause marks directly after a word. -/
def State.litsAt (s : State) (va : Nat) : List Word :=
  (List.range (s.literalsAfter va)).map fun i => (s.code (va + 4 + 4 * i)).getD 0

/-! rep. -/

/-- Register fields of the format of an ALU opcode, as the lowest bits of d, a, b and c (R33, R47). -/
def aluFields (op : Nat) : List Nat :=
  if op ∈ [0x08, 0x14, 0x15, 0x16, 0x23, 0x32] then [18, 12, 6, 0]
  else if op ∈ [0x0C, 0x0D, 0x1C, 0x36, 0x3F] then [18]
  else if op ∈ [0x01, 0x04, 0x05, 0x06, 0x09, 0x0A, 0x0E, 0x19, 0x1A, 0x1D, 0x1E, 0x2A, 0x30, 0x33, 0x37] then [18, 12]
  else [18, 12, 6]

/-- The step of a step code (R47). -/
def stepOf (c : BitVec 2) : Int := match c.toNat with | 0 => 0 | 1 => 1 | 2 => 2 | _ => -1

/-- The word with one field stepped; none when it leaves 0 to 63. -/
def stepField (w : Word) (lo : Nat) (by_ : Int) : Option Word :=
  let old := bits w.toNat (lo + 5) lo
  let v : Int := old + by_
  if 0 ≤ v ∧ v ≤ 63 then some (BitVec.ofNat 32 (w.toNat - old * 2 ^ lo + v.toNat * 2 ^ lo)) else none

/-- The word of repetition j (R47). -/
def repStep (r : RepState) (w : Word) : Option Word :=
  let codes := [(18, r.d), (12, r.a), (6, r.b), (0, r.c)]
  (codes.filter fun p => (aluFields (opOf w).toNat).contains p.1).foldl
    (fun acc p => acc.bind fun w => stepField w p.1 (r.j * stepOf p.2)) (some w)

/-- What a rep may stand before (R28, R36, R47, R75): a word of the same clause that is a form of 0x00 to 0x3F of the
clause's class, is well encoded, and has every field that a step code names. The prefix stands at word address p of the
clause at h; w is the word after it and lits are that word's literals. -/
def repAllowed (h : Nat) (hd : Header) (p : Nat) (w : Word) (lits : List Word) (d a b c : BitVec 2) : Bool :=
  let op := (opOf w).toNat
  let fields := aluFields op
  decide (p + 1 ≤ h + hd.n) && decide (op < 0x40) && admits hd.cls op
    && ([(18, d), (12, a), (6, b), (0, c)].all fun f => f.2 == 0 || fields.contains f.1)
    && (match decode w lits with | .ok _ => true | .error _ => false)

/-- The rep at the team's PC stands before such a word. -/
def State.repOk (s : State) (d a b c : BitVec 2) : Bool :=
  let va := s.team.pc.toNat
  match s.clauseOf va, s.code (va + 4) with
  | some (h, hd), some w => repAllowed (h / 4) hd (va / 4) w (s.litsAt (va + 4)) d a b c
  | _, _ => false

/-- rep (R47, R48): the next word issues n times, from the repetition that a tret restored. -/
def execRep (n : BitVec 6) (d a b c : BitVec 2) (s : State) : Out :=
  run s false 1 {} fun s =>
    let t := s.team
    if s.repOk d a b c then
      .moved (s.setTeam { t with rep := some { count := n.toNat + 1, d := d, a := a, b := b, c := c, j := t.repj },
                                 repj := 0 })
    else .trap .illegal 0 {}

/-! The routine of an inv. -/

/-- A word of a routine: its word address, whether it is a literal, and the word. -/
structure RWord where
  at_ : Nat
  lit : Bool
  w : Word
  deriving DecidableEq, Repr

/-- The words of a routine from word address a of the clause at h, with the word address after them; none when a header in
between is not of class ALU with a wait of 0 or ld, or when the words end before a literal (R76). -/
def routineWords (code : Nat → Option Word) : Nat → Nat → Header → Nat → Nat → Option (List RWord × Nat)
  | 0, _, _, _, _ => none
  | fuel + 1, h, hd, a, left =>
    let lit := decide (a ≤ h + hd.n) && hd.lmap.getLsbD (a - h - 1)
    if left = 0 then (if lit then none else some ([], a))
    else if h + hd.n < a then
      match (code a).bind decodeHeader with
      | none => none
      | some hd' => if hd'.cls ≠ 0 ∨ hd'.wait &&& 30 ≠ 0 then none else routineWords code fuel a hd' (a + 1) left
    else
      match code a, routineWords code fuel h hd (a + 1) (left - 1) with
      | some w, some (ws, e) => some ({ at_ := a, lit := lit, w := w } :: ws, e)
      | _, _ => none

/-- A word may have this many literals (R30): those that it requires, or among the forms of a routine the optional one of vmovi and of
vadd with an immediate (R63). -/
def takesLits (w : Word) (n : Nat) : Bool :=
  n == requiredLits w || n == 1 && ((opOf w).toNat == 0x1C || (opOf w).toNat == 0x1E)

/-- Each instruction of a routine is a well-encoded form of 0x10 to 0x33, with the literals that it takes and no more (R30, R76,
R161). -/
def routineForms : List RWord → Bool
  | [] => true
  | r :: rs =>
    let lits := (rs.takeWhile fun x => x.lit).map (·.w)
    (r.lit || decide (0x10 ≤ (opOf r.w).toNat ∧ (opOf r.w).toNat ≤ 0x33)
      && takesLits r.w lits.length && (match decode r.w lits with | .ok _ => true | .error _ => false)) && routineForms rs

/-- The instructions of a routine, each with its literals. -/
def routineInstrs : List RWord → List Instr
  | [] => []
  | r :: rs =>
    (match if r.lit then .error .literal else decode r.w ((rs.takeWhile fun x => x.lit).map (·.w)) with
      | .ok (.instr i) => [i]
      | _ => []) ++ routineInstrs rs

/-- The vector destinations of a routine's words: every form but the compares has one. -/
def routineDests (rs : List RWord) : List VReg :=
  (rs.filter fun r => !r.lit && opOf r.w != 0x17 && opOf r.w != 0x26).map fun r => dOf r.w

/-- The routine of an inv whose prefix stands at word address p of the clause at h (R36, R76, R161): its words and the word
address after it. -/
def routineOf (code : Nat → Option Word) (h : Nat) (hd : Header) (p : Nat) (len : Nat) (t lo hi x y : VReg) :
    Option (List RWord × Nat) :=
  if hd.cls ≠ 0 ∧ hd.cls ≠ 6 ∨ h + hd.n < p + 2 then none
  else match routineWords code (2 * len + 2) h hd (p + 2) len with
    | none => none
    | some (ws, e) =>
      let ds := routineDests ws
      if (ws.head?.any fun r => r.lit) ∨ ¬ routineForms ws ∨ ¬ ds.contains y ∨ [t, lo, hi, x].any ds.contains then none
      else some (ws, e)

/-- The routine of the inv at the team's PC, within the code that the team may reach. -/
def State.routine (s : State) (len : Nat) (t lo hi x y : VReg) : Option (List RWord × Nat) :=
  let va := s.team.pc.toNat
  match s.clauseOf va with
  | none => none
  | some (h, hd) =>
    match routineOf (fun i => s.code (4 * i)) (h / 4) hd (va / 4) len t lo hi x y with
    | some (ws, e) => if s.codeSpan.1 ≤ va ∧ 4 * e ≤ s.codeSpan.2 then some (ws, e) else none
    | none => none

/-! Runs. -/

/-- The FP32 patterns a, b, c stand in the order of DIR (R162). -/
def inOrder (dir : Bool) (a b c : Word) : Bool :=
  let (i, j, k) := (orderedImage a, orderedImage b, orderedImage c)
  if dir then decide (k ≤ j ∧ j ≤ i) else decide (i ≤ j ∧ j ≤ k)

/-- One lane of a shadow list. -/
def at32 (ws : List Word) (l : Nat) : Nat := (ws.getD l 0).toNat

/-- The point that a lane of the pass set runs at (R162). -/
def InvState.point (v : InvState) (l : Nat) : Nat :=
  match v.phase with
  | .low => at32 v.low l
  | .high => at32 v.high l
  | .bisect => at32 v.low l + (at32 v.high l - at32 v.low l) / 2

/-- Run(S, u) begins for the pass set (R162): x takes u, and control goes to the routine's first word. -/
def State.beginRun (s : State) (v : InvState) : State :=
  let t := s.team
  let t1 := (t.setV v.x v.pass fun l => fromOrdered (v.point l)).setExec v.pass
  s.setTeam { t1 with
    pc := v.at_ + 8,
    inv := some { v with pos := 0, begun := true, from_ := s.seq,
                         runs := v.runs.zipIdx.map fun p => if v.pass.getLsbD p.2 then p.1 + 1 else p.1 } }

/-- The team stands between two runs of its inv, where a pre-emption may take effect (R166). -/
def State.betweenRuns (s : State) (v : InvState) : State :=
  s.setTeam { s.team.setExec v.pass with pc := v.at_ + 8, inv := some { v with begun := false, pos := 0 } }

/-- Finish(lane) of R162 for the lanes of a mask. -/
def Team.finishLanes (t : Team) (v : InvState) (m : Mask) : Team :=
  let dist (f : List Word) (l : Nat) : Nat :=
    ((orderedImage (f.getD l 0) : Int) - (orderedImage (t.getV v.t l) : Int)).natAbs
  let near (l : Nat) : Bool := decide (dist v.fhigh l < dist v.flow l)
  let r (l : Nat) : Word := fromOrdered (if near l then at32 v.high l else at32 v.low l)
  let fr (l : Nat) : Word := if near l then v.fhigh.getD l 0 else v.flow.getD l 0
  (((t.setV v.lo m r).setV v.hi m fun l => fromOrdered (at32 v.high l)).setV v.x m r).setV v.y m fr

/-- The inv ends (R162 to R164, R406): the lanes that have finished take their results, which until here stood in the shadow
state alone (R165); the lanes of M keep their brackets in lo and hi, and MONO names them. -/
def State.endInversion (s : State) (v : InvState) : State :=
  let t := s.team.finishLanes v (v.exec &&& ~~~v.bad)
  let t1 := (t.setV v.lo v.bad fun l => fromOrdered (at32 v.low l)).setV v.hi v.bad fun l => fromOrdered (at32 v.high l)
  let after := BitVec.ofNat 48 (s.skipWords (v.at_.toNat + 8) v.len)
  let s1 := s.setTeam { t1.setExec (v.exec &&& t1.k0) with inv := none, pc := after }
  if v.bad = 0 then s1 else s1.takeTrapAt .mono v.bad {} v.at_ after

/-- The loop of R162 from its head: lanes that are done leave the pass set, and the others go on to a run at their midpoints. -/
def State.nextRound (s : State) (v : InvState) : State :=
  let done (l : Nat) : Bool := v.pass.getLsbD l &&
    (decide (at32 v.high l - at32 v.low l ≤ 2 ^ v.tol.toNat) || v.runs.getD l 0 == 33)
  let v1 : InvState := { v with pass := v.pass &&& ~~~maskOf s.team.tsize done, phase := .bisect }
  if v1.pass = 0 then s.endInversion v1 else s.betweenRuns v1

/-- Lanes of the pass set that fail a test go to M. -/
def InvState.drop (v : InvState) (n : Nat) (bad : Nat → Bool) : InvState :=
  let m := maskOf n fun l => v.pass.getLsbD l && bad l
  { v with pass := v.pass &&& ~~~m, bad := v.bad ||| m }

/-- A run has ended, its results written (R162): the values of y are taken, and the team stands before the next run. -/
def State.runEnd (s0 : State) (v : InvState) : State :=
  let s := s0.setTeam (s0.team.awaitWhere fun p => decide (v.from_ ≤ p.id))
  let t := s.team
  let n := t.tsize
  let y := (List.range n).map (t.getV v.y)
  match v.phase with
  | .low => s.betweenRuns { v with flow := y, phase := .high }
  | .high =>
    let bad (l : Nat) : Bool := isNan32 (v.flow.getD l 0) || isNan32 (y.getD l 0)
      || !inOrder v.dir (v.flow.getD l 0) (t.getV v.t l) (y.getD l 0)
    s.nextRound ({ v with fhigh := y } |>.drop n bad)
  | .bisect =>
    let bad (l : Nat) : Bool := isNan32 (y.getD l 0) || !inOrder v.dir (v.flow.getD l 0) (y.getD l 0) (v.fhigh.getD l 0)
    let mid (l : Nat) : Nat := at32 v.low l + (at32 v.high l - at32 v.low l) / 2
    let v1 := v.drop n bad
    let up (l : Nat) : Bool :=
      let a := orderedImage (y.getD l 0)
      let b := orderedImage (t.getV v.t l)
      v1.pass.getLsbD l && (if v.dir then decide (b < a) else decide (a < b))
    let down (l : Nat) : Bool := v1.pass.getLsbD l && !up l
    let take (p : Nat → Bool) (new old : List Word) : List Word :=
      (List.range n).map fun l => if p l then new.getD l 0 else old.getD l 0
    let mids := (List.range n).map fun l => BitVec.ofNat 32 (mid l)
    s.nextRound { v1 with low := take up mids v.low, flow := take up y v.flow,
                          high := take down mids v.high, fhigh := take down y v.fhigh }

/-- The words of a run of the inv have all issued. -/
def InvState.ended (v : InvState) : Bool := v.begun && decide (v.len ≤ v.pos)

/-- The results of the run have been written. -/
def Team.runLanded (t : Team) (v : InvState) : Bool := t.pend.all fun p => decide (p.id < v.from_) || p.landed

/-- inv (R161, R162): the checks at the prefix, then the two entry runs, of no lane where every one is refused, from which the others
follow. -/
def execInv (t lo hi : VReg) (tol : BitVec 5) (dir : Bool) (x y : VReg) (len : BitVec 4) (s : State) : Out :=
  let rt := s.routine (len.toNat + 1) t lo hi x y
  run s false 2 { vr := [t.toNat], vw := [lo.toNat, hi.toNat, x.toNat, y.toNat], lanes := some s.team.exec,
                  pre := if rt.isNone then some .illegal else none } fun s =>
    let u := s.team
    match rt with
    | none => .trap .illegal 0 {}
    | some (_, e) =>
      if u.exec = 0 then .moved (s.setTeam { u with pc := BitVec.ofNat 48 (4 * e) })
      else
        let zeros := List.replicate u.tsize (0 : Word)
        let image (r : VReg) : List Word := (List.range u.tsize).map fun l => BitVec.ofNat 32 (orderedImage (u.getV r l))
        let v : InvState :=
          { t := t, lo := lo, hi := hi, tol := tol, dir := dir, x := x, y := y, len := len.toNat + 1, at_ := u.pc,
            from_ := s.seq, lanes := u.exec, phase := .low, pass := u.exec, bad := 0, low := image lo, high := image hi,
            flow := zeros, fhigh := zeros, runs := List.replicate u.tsize 0, exec := u.exec, begun := false, pos := 0 }
        let bad (l : Nat) : Bool := isNan32 (u.getV t l) || isNan32 (u.getV lo l) || isNan32 (u.getV hi l)
          || decide (at32 v.high l < at32 v.low l)
        let v1 := v.drop u.tsize bad
        .moved (s.beginRun v1)

end Sys2Proof.Machine
end

