-- ==== Sys2Proof/Machine/Walk.lean ====
section
/-! DEFINITION. The cupping unit's walk of a code section (R57, R137, R168, R288, R289, R305, R308, R309, R347): the words in
their clauses and constructs, the words that a walk reaches, the faults that refuse an image, and the skeleton. Places are
word addresses in the section. -/
namespace Sys2Proof.Machine

/-- What a walk meets at a word address. -/
inductive Spot where
  | header
  | word (i : Instr)
  | rep (n : Nat) (i : Instr)
  /-- The words of the routine, and the place after it. -/
  | inv (ws : List RWord) (after : Nat)
  /-- The word raises ILLEGAL, or is a literal that no instruction takes. -/
  | illegal
  deriving DecidableEq, Repr

/-- A place in a code section: its clause, the word and its literals, the constructs that it lies in, innermost first, and
whether it changes the class of a MIX clause (R29, R288). -/
structure Site where
  at_ : Nat
  h : Nat
  hd : Header
  w : Word
  lits : List Word
  spot : Spot
  inside : List Nat := []
  mixed : Bool
  deriving DecidableEq, Repr

/-! Reading a section. -/

/-- The word at a place is marked as a literal of its clause. -/
def isLiteral (h : Nat) (hd : Header) (p : Nat) : Bool := decide (h < p ∧ p ≤ h + hd.n) && hd.lmap.getLsbD (p - h - 1)

/-- The literals that a clause marks directly after a place. -/
def literalsOf (code : Nat → Option Word) (h : Nat) (hd : Header) (p : Nat) : List Word :=
  ((List.range 15).takeWhile fun i => isLiteral h hd (p + 1 + i)).map fun i => (code (p + 1 + i)).getD 0

/-- The form of a word by its fields alone, with literals that no form refuses for being missing. -/
def shape (w : Word) : Option Instr := match decode w [1, 1] with | .ok (.instr i) => some i | _ => none

/-- What stands at a place of a clause (R28, R30, R36, R59, R75, R76). A routine must end within the words before `hi`. -/
def spotAt (code : Nat → Option Word) (hi h : Nat) (hd : Header) (p : Nat) (w : Word) : Spot :=
  let lits := literalsOf code h hd p
  if isLiteral h hd p ∨ ¬ admits hd.cls (opOf w).toNat then .illegal
  else match decode w lits with
    | .ok (.inv t lo h' _ _ x y len) =>
      match routineOf code h hd p (len.toNat + 1) t lo h' x y with
      | some (ws, e) => if e ≤ hi then .inv ws e else .illegal
      | none => .illegal
    | .ok (.instr (.rep n d a b c)) =>
      let w' := (code (p + 1)).getD 0
      let lits' := literalsOf code h hd (p + 1)
      if repAllowed h hd p w' lits' d a b c then
        match decode w' lits' with
        | .ok (.instr i) => .rep (n.toNat + 1) i
        | _ => .illegal
      else .illegal
    | .ok (.instr i) => .word i
    | .error _ => .illegal

/-- The class of a word in its clause; a prefix counts as the form it modifies (R29). -/
def classAt (code : Nat → Option Word) (h : Nat) (hd : Header) (p : Nat) (w : Word) : Nat :=
  if (opOf w).toNat ≠ 0x7E then opClass (opOf w).toNat
  else if isLiteral h hd (p + 1) then 0
  else opClass (opOf ((code (p + 1)).getD 0)).toNat

/-- The sites of the words of a clause from a place on; `last` is the class of the instruction before. -/
def clauseSites (code : Nat → Option Word) (hi h : Nat) (hd : Header) : Nat → Nat → Option Nat → List Site
  | 0, _, _ => []
  | n + 1, p, last =>
    let w := (code p).getD 0
    let lit := isLiteral h hd p
    let cls := classAt code h hd p w
    { at_ := p, h := h, hd := hd, w := w, lits := literalsOf code h hd p, spot := spotAt code hi h hd p w,
      mixed := !lit && hd.cls == 6 && (last.any fun c => c != cls) }
      :: clauseSites code hi h hd n (p + 1) (if lit then last else some cls)

/-- The sites of a section from a header on (R32): the walk steps 1 + N words, until a word that is no header. -/
def sitesFrom (code : Nat → Option Word) (hi : Nat) : Nat → Nat → List Site
  | 0, _ => []
  | n + 1, h =>
    match (code h).bind fun w => (decodeHeader w).map fun hd => (w, hd) with
    | none => []
    | some (w, hd) =>
      { at_ := h, h := h, hd := hd, w := w, lits := [], spot := .header, mixed := false }
        :: clauseSites code hi h hd hd.n (h + 1) none ++ sitesFrom code hi n (h + 1 + hd.n)

/-- A site holds an instruction word, which is neither a header nor a literal. -/
def Site.isWord (x : Site) : Bool := x.spot != .header && !isLiteral x.h x.hd x.at_

/-- The form of a site's word. -/
def Site.form (x : Site) : Option Instr := if x.isWord then shape x.w else none

/-- The constructs that are open after a site, innermost first, with whether each is a loop (R288). -/
def openAfter (x : Site) (open_ : List (Nat × Bool)) : List (Nat × Bool) :=
  match x.form, open_ with
  | some (.mif ..), _ => (x.at_, false) :: open_
  | some (.lpb ..), _ | some (.lpbW ..), _ => (x.at_, true) :: open_
  | some (.mend ..), (_, false) :: rest => rest
  | some (.lpe ..), (_, true) :: rest => rest
  | _, _ => open_

/-- Notes at each site the constructs that it lies in. -/
def nest : List (Nat × Bool) → List Site → List Site
  | _, [] => []
  | open_, x :: xs => { x with inside := open_.map (·.1) } :: nest (openAfter x open_) xs

/-- A section as a walk sees it: its sites in order, and the words that the kernel or the slice owns. -/
structure Section where
  sites : List Site
  lo : Nat
  hi : Nat
  /-- A slice: no direct transfer may leave its words, and its walk follows no spawn (R345, R347). -/
  slice : Bool
  deriving DecidableEq, Repr

/-- The words of a kernel or of a slice, from lo to hi, in a code of n words: a walk follows the paths within them (R308). -/
def sectionOf (code : Nat → Option Word) (n lo hi : Nat) (slice : Bool) : Section :=
  { sites := nest [] ((sitesFrom code hi n 0).filter fun x => decide (lo ≤ x.at_ ∧ x.at_ < hi)), lo := lo, hi := hi, slice := slice }

/-- The site at a place. -/
def Section.site (c : Section) (p : Nat) : Option Site := c.sites.find? fun x => x.at_ = p

/-- A header with constructs around it: the site of a place that is a header. -/
def Section.header (c : Section) (p : Nat) : Option Site := (c.site p).filter fun x => x.spot == .header

/-! Where control goes. -/

/-- The place that an offset from a word names (R35). A place before the first word of the code is none of its words: it is
given a number that no code reaches. -/
def offset20 (p : Nat) (o : BitVec 20) : Nat :=
  if (p : Int) + o.toInt < 0 then 2 ^ 32 else ((p : Int) + o.toInt).toNat

/-- The header after a site's clause. -/
def Site.nextClause (x : Site) : Nat := x.h + 1 + x.hd.n

/-- The place that a direct transfer, call, spawn, loop or skip names (R32). -/
def Site.target (x : Site) : Option Nat :=
  match x.form with
  | some (.br _ o) | some (.bcc _ _ o) | some (.bmz _ _ o) | some (.bmnz _ _ o) | some (.call _ o) | some (.mif _ _ o)
  | some (.melse _ o) | some (.lpe _ o) | some (.spawn _ o) => some (offset20 x.at_ o)
  | some (.lpb _ _ o _ _) | some (.lpbW _ o _ _) => some (x.at_ + o.toNat)
  | _ => none

/-- The headers of a kernel that a jmp at a place may reach (R289). -/
def Section.later (c : Section) (p : Nat) : List Nat :=
  (c.sites.filter fun x => x.spot == .header && decide (p < x.at_)).map (·.at_)

/-- The callee that a word names by a direct call. -/
def Site.callee (x : Site) : Option Nat := match x.spot with | .word (.call _ o) => some (offset20 x.at_ o) | _ => none

/-- The target of a spawn. -/
def Site.spawned (x : Site) : Option Nat := match x.spot with | .word (.spawn _ o) => some (offset20 x.at_ o) | _ => none

/-- Lanes may be held on the stack at a site: it lies in a construct, or the walk has come to it by calls from one
(R290). -/
def Site.holds (x : Site) (held : Bool) : Bool := held || !x.inside.isEmpty

/-- Where the path of a walk goes from a site, calls and spawns apart (R289 to R296). An exit goes on when lanes may be held
on the stack (R290). rput ends a slice, and outside one it raises ILLEGAL (R348, R350). -/
def Section.paths (c : Section) (held : Bool) (x : Site) : List Nat :=
  match x.spot with
  | .header => [x.at_ + 1]
  | .illegal => []
  | .rep _ i => [x.at_ + 1 + wordsOf i]
  | .inv _ e => [e]
  | .word i => match i with
    | .br _ o => [offset20 x.at_ o]
    | .bcc _ k o => if k = 0 then [offset20 x.at_ o] else [offset20 x.at_ o, x.nextClause]
    | .bmz _ _ o | .bmnz _ _ o => [offset20 x.at_ o, x.nextClause]
    | .jmp .. => c.later x.at_
    | .ret .. | .tret .. | .lpe .. | .rput .. => []
    | .exit .. => if x.holds held then [x.nextClause] else []
    | .lpb _ _ o _ _ | .lpbW _ o _ _ => [x.nextClause, x.at_ + o.toNat]
    | i => if transfers i then [x.nextClause] else [x.at_ + wordsOf i]

/-- Adds places to a list that does not hold them. -/
def addNew (s xs : List (Nat × Bool)) : List (Nat × Bool) := s ++ (xs.filter fun x => !s.contains x).eraseDups

/-- What follows a site directly in a walk: the paths from it and, with `calls`, the code that it calls or spawns; a spawned
team starts with an empty stack (R266). -/
def Section.follows (c : Section) (calls held : Bool) (x : Site) : List (Nat × Bool) :=
  (c.paths held x).map (·, held)
    ++ (if calls then x.callee.toList.map (·, x.holds held) ++ (if c.slice then [] else x.spawned.toList.map (·, false))
        else [])

/-- One pass over the section: what is reached from the places in a list. A place comes with whether lanes may be held on the
stack by the callers of its code. -/
def Section.sweep (c : Section) (calls : Bool) (s : List (Nat × Bool)) : List (Nat × Bool) :=
  c.sites.foldl (fun (s : List (Nat × Bool)) (x : Site) =>
    [false, true].foldl (fun (s : List (Nat × Bool)) held =>
      if s.contains (x.at_, held) then addNew s (c.follows calls held x) else s) s) s

/-- The places that a walk from some places reaches; with `calls`, callees and spawned code as well (R308). -/
def Section.reach (c : Section) (calls : Bool) : Nat → List (Nat × Bool) → List (Nat × Bool)
  | 0, s => s
  | n + 1, s =>
    let s' := c.sweep calls s
    if s'.length = s.length then s else c.reach calls n s'

/-- Passes that are enough for every place to be reached. -/
def Section.passes (c : Section) : Nat := 2 * c.sites.length + 1

/-- The sites that the walk of a section reaches from an entry. -/
def Section.walked (c : Section) (entry : Nat) : List Site :=
  let s := c.reach true c.passes [(entry, false)]
  c.sites.filter fun x => s.any fun p => p.1 == x.at_

/-! Faults (R57 reason 6, R288). -/

/-- The first word of the clause at a header has a form. -/
def Section.begins (c : Section) (h : Nat) (f : Instr → Bool) : Bool :=
  (c.header h).isSome && ((c.site (h + 1)).bind Site.form).any f

/-- melse. -/
def isMelse : Instr → Bool
  | .melse .. => true
  | _ => false
/-- mend. -/
def isMend : Instr → Bool
  | .mend .. => true
  | _ => false

/-- The clause before a header ends with an lpe whose offset reaches another header. -/
def Section.closes (c : Section) (exit body : Nat) : Bool :=
  (c.header exit).isSome &&
    match (c.sites.filter fun x => x.isWord && x.nextClause == exit).getLast? with
    | none => false
    | some x => match x.form with
      | some (.lpe _ o) => offset20 x.at_ o == body
      | _ => false

/-- The required timeout of a wait is missing or zero. -/
def noTimeout (lits : List Word) : Bool := match lits with | [] => true | l :: _ => l == 0

/-- A site that refuses the code it is walked in. -/
def Section.refuses (c : Section) (x : Site) : Bool :=
  let around (p : Nat) : Option Nat := (c.site p).bind fun y => y.inside.head?
  match x.form with
  | some (.br _ o) | some (.bcc _ _ o) | some (.bmz _ _ o) | some (.bmnz _ _ o) =>
    decide (o.toInt < 0) || around (offset20 x.at_ o) != x.inside.head?
  | some (.call _ o) | some (.spawn _ o) => (c.site (offset20 x.at_ o)).any fun y => !y.inside.isEmpty
  | some (.mif _ _ o) => !c.begins (offset20 x.at_ o) fun i => isMelse i || isMend i
  | some (.melse _ o) => !c.begins (offset20 x.at_ o) isMend
  | some (.lpb _ _ o _ _) | some (.lpbW _ o _ _) =>
    (match x.lits with | l :: _ => l == 0 | [] => false) || !c.closes (x.at_ + o.toNat) x.nextClause
  | some (.bwtC ..) | some (.bwtM ..) | some (.barWt ..) | some (.barSync ..) | some (.cwait ..) => noTimeout x.lits
  | _ => false

/-- A direct transfer, call or loop of a slice leaves its words (R347). -/
def Section.leaves (c : Section) (x : Site) : Bool :=
  c.slice && (match x.form with | some (.spawn ..) => false | _ => true)
    && x.target.any fun p => decide (p < c.lo ∨ c.hi ≤ p)

/-- Places that the direct calls of some sites target (R289). -/
def calleesOf (xs : List Site) : List Nat := (xs.filterMap Site.callee).eraseDups

/-- The callees of the code from a place on, down to its own calls; a calli may reach every callee (R305). -/
def Section.calleesFrom (c : Section) (all : List Nat) (f : Nat × Bool) : List (Nat × Bool) :=
  let s := c.reach false c.passes [f]
  (c.sites.flatMap fun x => [false, true].flatMap fun held =>
    if s.contains (x.at_, held) then
      (match x.spot with | .word (.calli ..) => all | _ => x.callee.toList).map (·, x.holds held)
    else []).eraseDups

/-- A chain of n more distinct callees leaves a place. -/
def chainOf (next : Nat × Bool → List (Nat × Bool)) : Nat → List Nat → Nat × Bool → Bool
  | 0, _, _ => true
  | n + 1, chain, f => (next f).any fun t => !chain.contains t.1 && chainOf next n (t.1 :: chain) t

/-- The walk of a section from an entry refuses the code (R57 reason 6, R347): it meets a site that does, or a chain of
distinct callees longer than the bound. -/
def Section.refused (c : Section) (entry depth : Nat) : Bool :=
  let xs := c.walked entry
  let all := calleesOf xs
  let roots := entry :: (if c.slice then [] else xs.filterMap Site.spawned)
  xs.any (fun x => c.refuses x || c.leaves x)
    || roots.any fun r => chainOf (c.calleesFrom all) (depth + 1) [] (r, false)

/-! The skeleton. -/

/-- A word with S set parks (R44). -/
def parkCharge (w : Word) : Skeleton := if swOf w then { nwait := 1 } else {}

/-- A clause header's wait leaves the ready set, and is charged nothing of its own (R308). -/
def headerCharge (hd : Header) : Skeleton := if hd.wait ≠ 0 then { nwait := 1 } else {}

/-- The class change of a MIX clause (R29). -/
def mixCharge (x : Site) : Skeleton := if x.mixed then { ncls := 1 } else {}

/-- The charge of an inv (R168): 33 runs for each pass of the team, with 3 cycles and three E1 operations added to each;
parks and waits of the routine as for ordinary code. -/
def invCharge (r : Rates) (c : Section) (ws : List RWord) : Skeleton :=
  let one : Rates := { r with passes := 1 }
  let body := (routineInstrs ws).foldl (fun (acc : Skeleton) i => acc.add (charge one i)) {}
  let parks := ws.foldl (fun (acc : Skeleton) x => if x.lit then acc else acc.add (parkCharge x.w)) {}
  let first := (ws.head?.map (·.at_)).getD 0
  let last := (ws.getLast?.map (·.at_)).getD 0
  let heads := (c.sites.filter fun x => x.spot == .header && decide (first < x.at_ ∧ x.at_ < last)).foldl
    (fun (acc : Skeleton) x => acc.add (headerCharge x.hd)) {}
  ((body.add (plainly { nfix := 3, ne1 := 3 })).times (33 * r.passes)).add ((parks.add heads).times 33)

/-- The greatest skeleton of a list. -/
def greatest (xs : List Skeleton) : Skeleton := xs.foldl Skeleton.max {}

/-- The charge of a path from a site on (R305): `tab` holds those of the places after it, and `callee` those of a callee,
by whether lanes may be held on the stack at the call. -/
def Section.pathCharge (c : Section) (r : Rates) (all : List Nat) (callee : Bool → Nat → Skeleton) (held : Bool)
    (tab : Tab Skeleton) (x : Site) : Skeleton :=
  let from_ (p : Nat) : Skeleton := Tab.get {} tab p
  let own (i : Instr) : Skeleton := ((charge r i).add (parkCharge x.w)).add (mixCharge x)
  let held' := x.holds held
  match x.spot with
  | .header => (headerCharge x.hd).add (from_ (x.at_ + 1))
  | .illegal => {}
  | .rep n i =>
    ((((charge r i).times n).add (mixCharge x)).add
      (parkCharge ((c.site (x.at_ + 1)).elim 0 (·.w)))).add (from_ (x.at_ + 1 + wordsOf i))
  | .inv ws e => ((invCharge r c ws).add (mixCharge x)).add (from_ e)
  | .word i => match i with
    | .call _ o => ((own i).add (callee held' (offset20 x.at_ o))).add (from_ x.nextClause)
    | .calli .. => ((own i).add (greatest (all.map (callee held')))).add (from_ x.nextClause)
    | .exit .. => (own i).add (if held' then from_ x.nextClause else {})
    | .lpb _ _ o bound _ | .lpbW _ o bound _ =>
      ((own i).add ((from_ x.nextClause).times bound.toNat)).add (from_ (x.at_ + o.toNat))
    | i => (own i).add (greatest ((c.paths held x).map from_))

/-- The charges of the paths from every place, the callees' being known. -/
def Section.table (c : Section) (r : Rates) (all : List Nat) (callee : Bool → Nat → Skeleton) (held : Bool) :
    Tab Skeleton :=
  c.sites.foldr (fun (x : Site) (tab : Tab Skeleton) => (x.at_, c.pathCharge r all callee held tab x) :: tab) []

/-- The charges of the paths from every place with so many calls still allowed; at none, a call raises DEPTH and its
callee adds nothing (R305). The second table is that of callees called with lanes held on the stack. -/
def Section.tables (c : Section) (r : Rates) (all : List Nat) : Nat → Tab Skeleton × Tab Skeleton
  | 0 => (c.table r all (fun _ _ => {}) false, c.table r all (fun _ _ => {}) true)
  | n + 1 =>
    let below := c.tables r all n
    let callee (held : Bool) (p : Nat) : Skeleton := Tab.get {} (if held then below.2 else below.1) p
    (c.table r all callee false, c.table r all callee true)

/-- A kernel contains a form (R233, R247). -/
def Section.contains (c : Section) (f : Instr → Bool) : Bool :=
  c.sites.any fun x => x.form.any f

/-- smap. -/
def isSmap : Instr → Bool
  | .smap .. => true
  | _ => false
/-- A barrier word of a level (R297). -/
def isBarrier (level : BitVec 2) : Instr → Bool
  | .barArr _ l _ | .barWt _ l _ _ | .barSync _ l _ _ => l == level
  | _ => false
/-- cpym. -/
def isCpym : Instr → Bool
  | .cpym .. => true
  | _ => false

/-- The tile that a word names (R137). -/
def tileOf : Instr → Option ZReg
  | .mmaBf16 _ z _ _ _ | .mmaF16 _ z _ _ _ | .mmaF8 _ z _ _ _ | .mmaF4 _ z _ _ _ | .mmaI8 _ z _ _ _
  | .mmaH16 _ z _ _ _ | .tsa _ z _ _ _ | .zclr _ z | .zld _ z _ | .zst _ z _ | .zcvt _ z _ => some z
  | .mmlBf16 _ z _ _ _ _ _ _ | .mmlF16 _ z _ _ _ _ _ _ | .mmlF8 _ z _ _ _ _ _ _ | .mmlF4 _ z _ _ _ _ _ _
  | .mmlI8 _ z _ _ _ _ _ _ | .mmlH16 _ z _ _ _ _ _ _ | .tsl _ z _ _ _ _ _ _ => some z
  | _ => none

/-- Tiles granted to each team: one more than the highest that the walked code names (R137). -/
def tilesNamed (xs : List Site) : Nat :=
  (xs.filterMap fun x => match x.spot with | .word i => tileOf i | _ => none).foldl
    (fun (m : Nat) (z : ZReg) => Max.max m (z.toNat + 1)) 0

/-- What the walk of a kernel records (R137, R247, R289, R308, R309). -/
def Section.measure (c : Section) (k : Kernel) : Kernel :=
  let xs := c.walked k.entry
  let all := calleesOf xs
  let r : Rates := { passes := 2 * (k.tsize / 64), stash := 1024 * k.stashKiB, smap := c.contains isSmap,
                     allResident := k.tensors != 0 && k.resident == k.tensors }
  let tab := (c.tables r all k.depth).1
  -- A spawned team has 64 lanes (R266).
  let tab1 := (c.tables { r with passes := 2 } all k.depth).1
  { k with skeleton := Tab.get {} tab k.entry,
           spawnSkeleton := greatest ((xs.filterMap Site.spawned).map (Tab.get {} tab1)),
           tiles := tilesNamed xs, callees := all,
           gridBarrier := c.contains (isBarrier 2),
           clusterNeeds := c.contains fun i => isBarrier 1 i || isCpym i }

end Sys2Proof.Machine
end

