-- ==== Sys2Proof/Machine/Registration.lean ====
section
/-! DEFINITION. Registration of a Lanber image (R32, R54 to R57, R371): the checks of R57 in the order of its table, each
with the bytes that it needs, and the result record. -/
namespace Sys2Proof.Machine

/-- The bytes that a check needs; reason 8 when one of them cannot be read (R57). -/
def State.checkBytes (s : State) (ctx va n : Nat) : Except Nat (List Byte) :=
  match s.readVirt ctx va n with | some bs => .ok bs | none => .error 8

/-- A check with its reason. -/
def refuseIf (p : Bool) (reason : Nat) : Except Nat Unit := if p then .error reason else .ok ()

/-- An entry of an image's directory (R55). -/
structure SectionEntry where
  type : Nat
  off : Nat
  len : Nat
  reserved : Nat
  deriving DecidableEq, Repr

/-- Reason 1 and reason 2: the header (R54); answers NSEC, LEN and NKER. -/
def checkHeader (b : List Byte) : Except Nat (Nat × Nat × Nat) := do
  let nsec := fieldLE b 6 2
  let len := fieldLE b 16 4
  let nker := fieldLE b 20 4
  refuseIf (fieldLE b 0 4 != 0x00424E4C || fieldLE b 4 2 != 1 || decide (nsec < 1 ∨ 15 < nsec ∨ nker < 1 ∨ 64 < nker
    ∨ 64 * 2 ^ 20 < len ∨ len < 64 + 16 * nsec) || fieldLE b 24 40 != 0) 1
  refuseIf (fieldLE b 8 8 != 0x5A39019200000041) 2
  return (nsec, len, nker)

/-- The entries of a directory. -/
def entriesOf (b : List Byte) (nsec : Nat) : List SectionEntry :=
  (List.range nsec).map fun i =>
    { type := fieldLE b (16 * i) 4, off := fieldLE b (16 * i + 4) 4, len := fieldLE b (16 * i + 8) 4,
      reserved := fieldLE b (16 * i + 12) 4 }

/-- The entries of one type. -/
def ofType (es : List SectionEntry) (t : Nat) : List SectionEntry := es.filter fun e => e.type = t

/-- The first entry of a type; an empty one where there is none. -/
def firstOf (es : List SectionEntry) (t : Nat) : SectionEntry := (ofType es t).headD { type := t, off := 0, len := 0, reserved := 0 }

/-- Reason 3: the directory (R55). -/
def directoryOk (es : List SectionEntry) (nsec len nker : Nat) : Bool :=
  let spans := (0, 64 + 16 * nsec) :: es.map fun e => (e.off, e.len)
  let code := firstOf es 1
  es.all (fun e => e.reserved == 0 && decide (1 ≤ e.type ∧ e.type ≤ 5 ∧ e.off % 64 = 0 ∧ e.off + e.len ≤ len))
    && (ofType es 1).length == 1 && decide ((ofType es 2).length ≤ 1) && (ofType es 3).length == 1
    && (ofType es 4).length == 1
    && ((List.range spans.length).all fun i => (List.range i).all fun j =>
        let a := spans.getD i (0, 0)
        let b := spans.getD j (0, 0)
        !rangesMeet a.1 a.2 b.1 b.2)
    && code.len % 4 == 0 && decide ((firstOf es 2).len ≤ 65536)
    && (firstOf es 3).len == (code.len / 4 + 7) / 8 && (firstOf es 4).len == 64 * nker

/-- The bits of a map that a walk of a code from a header on marks (R27, R32); none where a header is refused or a clause
passes the end. -/
def marksFrom (code : Nat → Option Word) (n : Nat) : Nat → Nat → Option Nat
  | 0, h => if h = n then some 0 else none
  | fuel + 1, h =>
    if h = n then some 0
    else match (code h).bind decodeHeader with
      | none => none
      | some hd => (marksFrom code n fuel (h + 1 + hd.n)).map fun m => 2 ^ h + m

/-- Reason 4: the clause map, with no bit beyond the last code word (log 71), and the direct targets (R32). -/
def clausesOk (code : Nat → Option Word) (n cmap : Nat) : Bool :=
  marksFrom code n (n + 1) 0 == some cmap
    && (sectionOf code n 0 n false).sites.all fun x => x.target.all fun t => decide (t < n) && cmap.testBit t

/-- A KDECL record (R56). -/
def kernelFrom (b : List Byte) : Kernel :=
  { Kernel.none with
    entry := fieldLE b 0 4, clen := fieldLE b 4 4, tsize := 64 * fieldLE b 8 2, tpb := fieldLE b 10 1,
    regs := fieldLE b 11 1, stashKiB := fieldLE b 12 2, privBytes := 4 * fieldLE b 14 2,
    gridMax := (fieldLE b 16 2, fieldLE b 18 2, fieldLE b 20 2), depth := fieldLE b 22 1, spawn := fieldLE b 23 1,
    launch := fieldLE b 24 1, flags := BitVec.ofNat 8 (fieldLE b 25 1), push := fieldLE b 26 2,
    childNs := fieldLE b 28 4, childNj := fieldLE b 32 4, yieldNs := fieldLE b 36 4,
    resident := BitVec.ofNat 64 (fieldLE b 40 8), tensors := BitVec.ofNat 64 (fieldLE b 48 8) }

/-- Reason 5: the fields of a KDECL record (R56, R57). -/
def kernelOk (k : Kernel) (n cmap : Nat) : Bool :=
  decide (k.entry < n) && cmap.testBit k.entry && decide (1 ≤ k.clen ∧ k.entry + k.clen ≤ n)
    && [64, 128, 256, 512, 1024].contains k.tsize
    && decide (1 ≤ k.tpb ∧ k.tpb ≤ 16 ∧ 1 ≤ k.regs ∧ k.regs ≤ 8 ∧ k.stashKiB ≤ 768 ∧ k.privBytes ≤ 65536
      ∧ 1 ≤ k.gridMax.1 ∧ 1 ≤ k.gridMax.2.1 ∧ 1 ≤ k.gridMax.2.2 ∧ k.depth ≤ 64 ∧ k.push ≤ 64)
    && k.flags &&& 0xF8 == 0 && k.flags &&& 6 != 0 && k.resident &&& ~~~k.tensors == 0

/-- The words of a code section, by word address. -/
def wordsAt (bs : List Byte) : Nat → Option Word :=
  let ws := ((List.range (bs.length / 4)).map fun i => BitVec.ofNat 32 (fieldLE bs (4 * i) 4)).toArray
  fun i => ws[i]?

/-- The section of a kernel. -/
def Kernel.section (k : Kernel) (code : Nat → Option Word) (n : Nat) : Section :=
  sectionOf code n k.entry (k.entry + k.clen) false

/-- Images that a context holds. -/
def State.imagesOf (s : State) (ctx : Nat) : List Image := s.images.filter fun m => m.ctx == ctx

/-- The checks of R57 on an image at an address, in order, and the image they admit. -/
def State.checkImage (s : State) (ctx addr : Nat) : Except Nat Image := do
  let (nsec, len, nker) ← checkHeader (← s.checkBytes ctx addr 64)
  let es := entriesOf (← s.checkBytes ctx (addr + 64) (16 * nsec)) nsec
  refuseIf (!directoryOk es nsec len nker) 3
  let codeBytes ← s.checkBytes ctx (addr + (firstOf es 1).off) (firstOf es 1).len
  let cmap := ofBytesLE (← s.checkBytes ctx (addr + (firstOf es 3).off) (firstOf es 3).len)
  let n := (firstOf es 1).len / 4
  let code := wordsAt codeBytes
  refuseIf (!clausesOk code n cmap) 4
  let decls ← s.checkBytes ctx (addr + (firstOf es 4).off) (firstOf es 4).len
  let ks := (List.range nker).map fun i => kernelFrom ((decls.drop (64 * i)).take 64)
  refuseIf (ks.any fun k => !kernelOk k n cmap) 5
  refuseIf (ks.any fun k => (k.section code n).refused k.entry k.depth) 6
  refuseIf (decide (256 ≤ (s.imagesOf ctx).length)) 7
  let all ← s.checkBytes ctx addr len
  let data := ofType es 2
  return { handle := (s.imagesOf ctx).length + 1, ctx := ctx, addr := addr, len := len,
           codeVa := addr + (firstOf es 1).off, codeWords := n, cmap := cmap, dataOff := (firstOf es 2).off,
           dataLen := (firstOf es 2).len, hasData := !data.isEmpty,
           kernels := ks.map fun k => (k.section code n).measure k, sha := sha256 all }

/-- The result record of a REG (R371). -/
def regRecord (handle reason : Nat) (sha : List Byte) : List Byte :=
  toBytesLE 8 handle ++ toBytesLE 1 reason ++ List.replicate 7 0 ++ sha ++ List.replicate 16 0

/-- Registers an image and writes the result record; a record that cannot be written is lost. -/
def State.register (s : State) (ctx addr res : Nat) : State :=
  match s.checkImage ctx addr with
  | .ok m =>
    let s1 := { s with images := s.images ++ [m] }
    (s1.writeVirt ctx res (regRecord m.handle 0 m.sha)).getD s1
  | .error reason => (s.writeVirt ctx res (regRecord 0 reason (List.replicate 32 0))).getD s

/-- REG (R57, R371). -/
def execReg (ring : Ring) (addr res : BitVec 64) (s : State) : Out :=
  packet s ring (fun d => { d with reg := (addr, res) }) fun s => s.register (s.ringCtx ring) addr.toNat res.toNat

end Sys2Proof.Machine
end

