-- ==== Sys2Proof/Machine/Quote.lean ====
section
/-! DEFINITION. The cupping unit's quotes (R312 to R325, R347, R354, R355, R362, R403): the priced set, placement, the
formula, the reasons of CANNOT_FIT, the quote record and its hold. -/
namespace Sys2Proof.Machine

/-- What a quote is asked for (R312), by a packet or by a launch instruction. -/
structure Request where
  ctx : Nat
  image : Nat
  kernel : Nat
  grid : Nat × Nat × Nat
  args : DWord
  cls : Nat
  lflags : BitVec 8
  ishare : Nat
  life : Nat
  peerNs : Nat
  qrec : Nat
  compl : Nat
  ring : Option Ring
  /-- A child's parent launch, and its depth. -/
  parent : Option Nat
  depth : Nat
  deriving DecidableEq, Repr

/-- Resources of one core: those that a need asks for, or those that are free. -/
structure Needs where
  slots : Nat
  lines : Nat
  stash : Nat
  tiles : Nat
  deriving DecidableEq, Repr

/-- What a core still offers a quote (R313, R323, R355). -/
structure Room where
  free : Needs
  share : Nat
  /-- No other launch holds the core's rebrew server. -/
  server : Bool
  deriving DecidableEq, Repr

/-! The priced set. -/

/-- The tensors that a kernel's `.tensor` arguments name, with whether each is declared resident (R403); none where a word
is out of range or cannot be read. -/
def State.argTensors (s : State) (ctx : Nat) (args : DWord) (k : Kernel) : Option (List (Nat × Bool)) :=
  ((List.range 64).filter fun i => k.tensors.getLsbD i).mapM fun i =>
    match s.readVirtLE ctx (args.toNat + 8 * i) 8 with
    | none => none
    | some w => if w < 2 ^ 20 then some (w, k.resident.getLsbD i) else none

/-- A tensor's descriptor is valid, and so is its recipe record when it is recomputable (R339, R403). -/
def State.tensorOk (s : State) (ctx x : Nat) : Bool :=
  match s.desc ctx x with
  | .ok d => !d.recomputable || (match s.recipe ctx x d with
    | none => false
    | some r => r.sources.all fun y => match s.desc ctx y.tensor with | .ok _ => true | _ => false)
  | _ => false

/-- A recomputable tensor of a context. -/
def State.isRecomputable (s : State) (ctx x : Nat) : Bool := match s.desc ctx x with | .ok d => d.recomputable | _ => false

/-- The recipe of a recomputable tensor. -/
def State.recipeOf (s : State) (ctx x : Nat) : Option Recipe :=
  match s.desc ctx x with | .ok d => s.recipe ctx x d | _ => none

/-- The recomputable tensors reached from a list through sources, those declared resident left out (R354). -/
def State.reachPriced (s : State) (ctx : Nat) (resident : List Nat) : Nat → List Nat → List Nat → List Nat
  | 0, _, acc => acc
  | _, [], acc => acc
  | n + 1, x :: todo, acc =>
    if acc.contains x || resident.contains x || !s.isRecomputable ctx x then s.reachPriced ctx resident n todo acc
    else
      let more := match s.recipeOf ctx x with | some r => r.sources.map (·.tensor) | none => []
      s.reachPriced ctx resident n (todo ++ more) (acc ++ [x])

/-- A recipe's slice (R345, R347): the image whose code holds ENTRY, ENTRY's word address there, and the slice's words. -/
def State.sliceOf (s : State) (ctx : Nat) (r : Recipe) : Option (Image × Nat × Section) :=
  (s.imageAt ctx r.entry).map fun m =>
    let lo := (r.entry - m.codeVa) / 4
    let words := (List.range m.codeWords).map fun i =>
      BitVec.ofNat 32 ((s.readVirtLE ctx (m.codeVa + 4 * i) 4).getD 0)
    let arr := words.toArray
    (m, lo, sectionOf (fun i => arr[i]?) m.codeWords lo (lo + r.slen) true)

/-- What the walk of a slice finds now (R347): its ENTRY is a header of an image of the context, its words lie in that image's
code, and the walk does not refuse them. With it, the image that holds ENTRY. -/
def State.walkSlice (s : State) (ctx : Nat) (r : Recipe) : Option (Nat × Bool) :=
  (s.sliceOf ctx r).map fun (m, lo, c) =>
    (m.handle, s.isHeader ctx r.entry && decide (lo + r.slen ≤ m.codeWords) && !c.refused lo r.cdepth)

/-- The result that is kept for a recipe record and an image (R347). -/
def State.keptSlice (s : State) (ctx record image : Nat) : Option Bool :=
  (s.slices.find? fun x => x.ctx == ctx && x.record == record && x.image == image).map (·.bounded)

/-- The slice of a recomputable tensor is bounded (R347): the result that is kept for its record and its image, or else what the
walk finds. -/
def State.sliceOk (s : State) (ctx x : Nat) : Bool :=
  match s.desc ctx x with
  | .ok d => match s.recipe ctx x d with
    | none => false
    | some r => match s.walkSlice ctx r with
      | none => false
      | some (image, ok) => (s.keptSlice ctx d.recipe image).getD ok
  | _ => false

/-- The result of the walk of a tensor's slice is kept, where none is (R347). -/
def State.keepSlice (s : State) (ctx x : Nat) : State :=
  match s.desc ctx x with
  | .ok d => match (s.recipe ctx x d).bind (s.walkSlice ctx) with
    | some (image, ok) =>
      if (s.keptSlice ctx d.recipe image).isSome then s
      else { s with slices := { ctx := ctx, record := d.recipe, image := image, bounded := ok } :: s.slices }
    | none => s
  | _ => s

/-- The priced set of a request (R354), the tensors declared resident, and every tensor it names, or reason 1. -/
def State.pricedSet (s : State) (q : Request) (k : Kernel) : Except Nat (List Nat × List Nat × List Nat) :=
  match s.argTensors q.ctx q.args k with
  | none => .error 1
  | some named =>
    let xs := named.filter fun x => x.1 != 0
    let resident := ((xs.filter fun x => x.2).map (·.1)).eraseDups
    let todo := (xs.filter fun x => !x.2).map (·.1)
    let set := s.reachPriced q.ctx resident (65 + 4 * s.ttLen q.ctx) todo []
    if (xs.map (·.1) ++ set).all (s.tensorOk q.ctx) then
      .ok (set, resident, (xs.map (·.1) ++ set).eraseDups)
    else .error 1

/-- Bytes of last-level capacity that a tensor's tiles take (R191). -/
def State.tensorBytes (s : State) (ctx x : Nat) : Nat :=
  match s.desc ctx x with | .ok d => 512 * ceilDiv d.rows 16 * d.tileCols | _ => 0

/-- The last-level cache, in bytes (R12). -/
def llCapacity : Nat := 768 * 2 ^ 20

/-- Per-mille of the last-level capacity, rounded up (R317). -/
def perMille (bytes : Nat) : Nat := ceilDiv (1000 * bytes) llCapacity

/-! Needs and loads. -/

/-- What one block needs of its core (R313, R317). -/
def Kernel.needs (k : Kernel) : Needs :=
  { slots := k.slots, lines := 16 * k.regs * k.slots, stash := k.stashKiB, tiles := k.tiles * k.teams }

/-- What a held rebrew server adds on each core: four slots' worth of the greatest needs of the set (R355). -/
def State.serverNeeds (s : State) (ctx : Nat) (priced : List Nat) : Needs :=
  let rs := priced.filterMap (s.recipeOf ctx)
  let top (f : Recipe → Nat) : Nat := (rs.map f).foldl max 0
  { slots := 0, lines := 4 * 16 * top (·.blocks), stash := 4 * top (·.stashKiB), tiles := 4 * top (·.tiles) }

/-- The chains of a priced set may run on partner cores (R355). -/
def State.needsPairs (s : State) (ctx : Nat) (priced : List Nat) : Bool :=
  priced.any fun x => decide (4 < s.depthOf ctx x)

/-- Sums of needs. -/
def Needs.plus (a b : Needs) : Needs :=
  { slots := a.slots + b.slots, lines := a.lines + b.lines, stash := a.stash + b.stash, tiles := a.tiles + b.tiles }
/-- What is left of a. -/
def Needs.minus (a b : Needs) : Needs :=
  { slots := a.slots - b.slots, lines := a.lines - b.lines, stash := a.stash - b.stash, tiles := a.tiles - b.tiles }
/-- n times. -/
def Needs.times (n : Nat) (a : Needs) : Needs :=
  { slots := n * a.slots, lines := n * a.lines, stash := n * a.stash, tiles := n * a.tiles }
/-- a is enough for b. -/
def Needs.covers (a b : Needs) : Bool :=
  decide (b.slots ≤ a.slots ∧ b.lines ≤ a.lines ∧ b.stash ≤ a.stash ∧ b.tiles ≤ a.tiles)

/-- How many times a room covers a need, at most m (R313). -/
def Needs.holds (free need : Needs) (m : Nat) : Nat :=
  let part (f n : Nat) : Nat := if n = 0 then m else f / n
  min m (min (min (part free.slots need.slots) (part free.lines need.lines))
    (min (part free.stash need.stash) (part free.tiles need.tiles)))

/-- What a launch has reserved of each of its cores. -/
def QuoteRec.needs (f : QuoteRec) : Needs := { slots := f.slots, lines := f.rlines, stash := f.stashk, tiles := f.tiles }

/-- Quotes and launches that hold a reservation of the device (R320): children run in their parents' (R268). -/
def State.holders (s : State) : List Launch :=
  (s.launches.vals).filter fun l => (l.phase == .open || l.phase == .live) && l.parent.isNone

/-- Children of a launch that hold part of its reservation: live, or to be accepted. -/
def State.liveChildren (s : State) (id : Nat) : List Launch :=
  (s.launches.vals).filter fun l => (l.phase == .live || l.phase == .open) && l.parent == some id

/-- Stash of a core that a quote may count, in KiB (R181). -/
def State.stashRoom (s : State) (core : Nat) : Nat := 128 * min (s.stashSplit.get 4 core) s.sys.stashcfg.toNat

/-- What a core offers a quote beside the load (R313). -/
def State.roomOf (s : State) (core : Nat) : Room :=
  let on := s.holders.filter fun l => l.coreList.contains core
  let used := on.foldl (fun (n : Needs) (l : Launch) => n.plus l.fig.needs) ⟨0, 0, 0, 0⟩
  { free := Needs.minus ⟨64, 4080, s.stashRoom core, 32⟩ used, share := 16 - (on.map fun l => l.fig.ishare).sum,
    server := on.all fun l => l.priced.isEmpty }

/-- What a parent's reservation offers a child on a core (R327). -/
def State.roomIn (s : State) (id core : Nat) : Room :=
  let l := s.launchOf id
  let own := Needs.times (s.placedOn id core) (s.kernelOf l).needs
  let kids := (s.liveChildren id).filter fun c => c.coreList.contains core
  let used := kids.foldl (fun (n : Needs) (c : Launch) => n.plus c.fig.needs) own
  { free := Needs.minus l.fig.needs used, share := l.fig.ishare,
    server := !l.priced.isEmpty && kids.all fun c => c.priced.isEmpty }

/-! Placement (R313, R319). -/

/-- The base die that serves a core (R11, R362): compute die and base die bear the same number. -/
def State.admitsCore (s : State) (ctx core : Nat) : Bool := (s.ctxDies ctx).testBit (coreDie core) && !s.fenced.getLsbD core

/-- The cores that a request may take, in the order in which the cupping unit tries them. -/
def State.candidates (s : State) (q : Request) : List Nat :=
  match q.parent with
  | some p => (s.launchOf p).coreList.filter fun c => !s.fenced.getLsbD c
  | none =>
    ((Config.corePreference s.nextQid ++ List.range 192).filter fun c => decide (c < 192)).eraseDups.filter (s.admitsCore q.ctx)

/-- Groups of u consecutive cores, all of which are in a list, in the order of their first members in it. -/
def unitsOf (u : Nat) (cs : List Nat) : List (List Nat) :=
  ((cs.map fun c => c / u).eraseDups.map fun g => (List.range u).map fun i => g * u + i).filter fun g => g.all cs.contains

/-- Of the units that hold at least one block, with their counts, those to reserve, and Bc (R313): the greatest Pc, and then
the least cores. A choice of units has Bc the least of their counts, and takes no more units than hold the grid. -/
def chooseUnits (blocks u : Nat) (us : List (List Nat × Nat)) : Option (List Nat × Nat) :=
  let option (b : Nat) : List Nat × Nat :=
    let n := ceilDiv blocks (u * b)
    let first := us.filter fun x => x.2 = b
    let rest := us.filter fun x => decide (b < x.2)
    (((first.take 1 ++ rest ++ first.drop 1).take n).flatMap (·.1), b)
  ((us.map (·.2)).eraseDups.map option).foldl (fun best x => match best with
    | none => some x
    | some y =>
      if y.1.length * y.2 < x.1.length * x.2 ∨ (y.1.length * y.2 = x.1.length * x.2 ∧ x.1.length < y.1.length) then some x
      else some y) none

/-- The cores and Bc of a request, or the reason that none fit (log 33). -/
def State.place (s : State) (q : Request) (blocks : Nat) (need server : Needs) (uses pairs clusters : Bool) :
    Except Nat (List Nat × Nat) :=
  let room (c : Nat) : Room := match q.parent with | some p => s.roomIn p c | none => s.roomOf c
  let cs := s.candidates q
  let shared (c : Nat) : Bool := decide (max q.ishare 1 ≤ (room c).share)
  let served (c : Nat) : Bool := !uses || (room c).server
  let count (c : Nat) : Nat :=
    if (room c).free.covers server then ((room c).free.minus server).holds need (if clusters then 1 else blocks) else 0
  let roomy (c : Nat) : Bool := decide (1 ≤ count c)
  let fit := cs.filter fun c => shared c && served c && roomy c
  let u := if clusters then 4 else if pairs then 2 else 1
  if cs.isEmpty then .error 12
  else if !cs.any shared then .error 6
  else if !cs.any served then .error 13
  else if !cs.any roomy then .error 15
  else if fit.isEmpty then .error (if (cs.filter fun c => shared c && served c).isEmpty then 13 else 15)
  else match chooseUnits blocks u ((unitsOf u fit).map fun g => (g, (g.map count).foldl min blocks)) with
    | none => .error (if clusters then 5 else 13)
    | some x => .ok x

/-! The pool (R362). -/

/-- Bytes of a launch's main piece: the images and areas of every block it can hold at once (log 30). -/
def Kernel.mainBytes (k : Kernel) (lflags : BitVec 8) (held : Nat) : Nat := held * k.shareBytes (lflags.getLsbD 2)

/-- What a request takes from its context's entry: what the entry holds now, or what the parent took (R362). -/
def State.entryFor (s : State) (q : Request) : CtxEntry :=
  match q.parent with
  | some p => (s.launchOf p).entry
  | none => { uhand := s.uhand q.ctx, brPage := s.brPage q.ctx, rsList := s.rsList q.ctx, pool := s.pool q.ctx,
              poolLen := s.poolLen q.ctx }

/-- The place of a piece in a pool that overlaps no other: what the machine tries first, else the first free one. -/
def placePiece (e : CtxEntry) (n bytes align : Nat) (taken : List Piece) : Option Piece :=
  let pool := e.pool
  let fits (p : Piece) : Bool := decide (pool ≤ p.va ∧ p.va + p.bytes ≤ pool + e.poolLen)
    && taken.all fun t => !rangesMeet p.va p.bytes t.va t.bytes
  let try_ := (pool + Config.poolPlace n / align * align) :: pool :: taken.map fun t => ceilDiv (t.va + t.bytes) align * align
  (try_.map fun va => ({ va := va, bytes := bytes } : Piece)).find? fits

/-- Pieces that launches of a context hold. -/
def State.poolTaken (s : State) (ctx : Nat) : List Piece :=
  (s.launches.filter fun e => e.2.ctx == ctx && (e.2.phase == .open || e.2.phase == .live)).flatMap fun e => e.2.pieces

/-- The pieces of a launch: the main piece, and the data copy when the image has a DATA section. -/
def State.placePieces (s : State) (ctx : Nat) (e : CtxEntry) (m : Image) (k : Kernel) (lflags : BitVec 8) (held : Nat) : Option (List Piece) :=
  let taken := s.poolTaken ctx
  match placePiece e (2 * s.nextQid) (k.mainBytes lflags held) 512 taken with
  | none => none
  | some p =>
    if m.hasData then (placePiece e (2 * s.nextQid + 1) m.dataLen 65536 (p :: taken)).map fun d => [p, d]
    else some [p]

/-! The formula. -/

/-- Cycles of some counters under a cost table (R314). -/
def Counts.cycles (n : Counts) (c : CostTable) : Nat :=
  c.alu.toNat * n.nalu + c.trans.toNat * n.ntrans + c.stash.toNat * n.nstash + c.l1.toNat * n.nl1 + c.ll.toNat * n.nll
    + c.hbm.toNat * n.nhbm + c.mstart.toNat * n.nmstart + c.mstep.toNat * n.nmstep + n.nfix

/-- Energy of some counters in 0.1 pJ. -/
def Counts.energy (n : Counts) (c : CostTable) : Nat :=
  c.e0.toNat * n.ne0 + c.e1.toNat * n.ne1 + c.e2.toNat * n.ne2 + c.e3.toNat * n.ne3 + c.e4.toNat * n.ne4
    + c.e5.toNat * n.ne5 + c.e6.toNat * n.ne6

/-- Cycles of the reads that may rebrew (R233, R354): with a priced set, HBM and T chains each, the HBM of a cpyt.ts being
among its copy charges; without one, the resident or the compressed rate. tld has a count of its own
(log 34). -/
def Skeleton.rebrewCycles (k : Skeleton) (c : CostTable) (uses allResident : Bool) (t pc : Nat) : Nat :=
  if uses then (k.ntld + k.nrmat) * c.hbm.toNat + k.rebrew * (t * pc)
  else k.ntld * (if allResident then c.ll.toNat else c.ll.toNat + c.hbm.toNat) + k.ncts * c.ll.toNat

/-- Their energy in 0.1 pJ. -/
def Skeleton.rebrewEnergy (k : Skeleton) (c : CostTable) (uses allResident : Bool) (pe : Nat) : Nat :=
  if uses then (k.ntld + k.nrmat) * (c.e5.toNat + c.e6.toNat) + k.rebrew * (10000 * pe)
  else k.ntld * (if allResident then c.e5.toNat else c.e5.toNat + c.e6.toNat)

/-- Ct, beside the rebrew cycles (R314). -/
def Skeleton.cycles (k : Skeleton) (c : CostTable) : Nat :=
  k.plain.cycles c + k.copies.cycles c + k.matrix.cycles c + k.ncls

/-- A team's energy in 0.1 pJ, beside the rebrews; the step energies are fixed fractions of MMAE, rounded up to a whole pJ
(R310). -/
def Skeleton.energy (k : Skeleton) (c : CostTable) : Nat :=
  let mm := c.mmae.toNat
  k.plain.energy c + k.copies.energy c + k.matrix.energy c
    + 10 * (mm * k.nmb + c.tsae.toNat * k.nts + ceilDiv (5 * mm) 6 * k.ni8 + ceilDiv mm 4 * k.nh16)

/-- The counters of a skeleton in a row: what a team counts, without SPAWNW and CHILD. -/
def Skeleton.counters (k : Skeleton) : List Nat :=
  let of_ (n : Counts) : List Nat := [n.nalu, n.ntrans, n.nstash, n.nl1, n.nll, n.nhbm, n.nmstart, n.nmstep, n.nfix, n.ne0,
    n.ne1, n.ne2, n.ne3, n.ne4, n.ne5, n.ne6]
  of_ k.plain ++ of_ k.copies ++ of_ k.matrix ++ [k.nmb, k.nts, k.ni8, k.nh16, k.ncls, k.nwait, k.twait, k.nsys, k.rebrew,
    k.ntld, k.ncts, k.nrmat]

/-- The skeleton of a team with those of the spawns it may make (R305), its waits and system words among them (log 34). -/
def Kernel.whole (k : Kernel) : Skeleton := k.skeleton.add (k.spawnSkeleton.times k.spawn)

/-- What the skeleton's hash covers (R309): the counters of a team, those of SPAWNW, and CHILD. -/
def Kernel.hashed (k : Kernel) : List Nat :=
  k.skeleton.counters ++ (k.spawnSkeleton.times k.spawn).counters ++ [k.launch]

/-- Wb (R314): the worst case of a block in ns, for cycles ct at share s and the operating point opp. -/
def worstBlock (tpp ct nwait twait nsys peerNs s opp : Nat) : Nat :=
  let f := oppTenths opp
  ceilDiv (tpp * ((ct + 608 * (nwait + 1)) * 160 + (twait + nsys * peerNs) * (s * f))) (s * f)

/-- POWER (R317). -/
def powerOf (stat cores slots s llshare : Nat) : Nat :=
  ceilDiv (cores * (stat * slots + 20800 * s) + 64 * 540 * llshare) 64000

/-- E_q in nJ (R316), from the dynamic energy in 0.1 pJ. -/
def quotedEnergy (dyn child stat cores slots tq : Nat) : Nat :=
  ceilDiv (64 * dyn + 640000 * child + 10 * stat * cores * slots * tq) 640000

/-- The operating point of a QUOTE (R313, R325): the slower of the one in force and the one requested. -/
def State.quoteOpp (s : State) : Nat := if s.sys.oppPending then s.sys.oppAsked else s.sys.opp

/-- POWER of every accepted and open quote (R322). -/
def State.committedPower (s : State) : Nat := (s.holders.map fun l => l.fig.power).sum

/-- Last-level capacity that resident tensors hold: of the device, or of the parent's share (R319, R327). -/
def State.residentsFit (s : State) (q : Request) (bytes : Nat) : Bool :=
  match q.parent with
  | none => decide (((s.holders.map fun l => l.residentBytes).sum) + bytes ≤ llCapacity)
  | some p =>
    let l := s.launchOf p
    decide (perMille bytes + perMille l.residentBytes + ((s.liveChildren p).map fun c => perMille c.residentBytes).sum
      ≤ l.fig.llshare)

/-- Quotes that are open on the device. -/
def State.openQuotes (s : State) : Nat := (s.launches.filter fun e => e.2.phase == .open && e.2.parent.isNone).length

/-- The first of the reasons that apply, if any (R319). -/
def leastReason (rs : List (Bool × Nat)) : Option Nat :=
  ((rs.filter fun r => r.1).map (·.2)).foldl (fun best r => match best with
    | none => some r
    | some b => some (min b r)) none

/-- The fields of a request are in range (R312). -/
def Request.inRange (q : Request) : Bool :=
  let ext (n : Nat) : Bool := decide (1 ≤ n ∧ n ≤ 65535)
  ext q.grid.1 && ext q.grid.2.1 && ext q.grid.2.2 && q.args.toNat % 64 == 0 && decide (q.cls ≤ 1)
    && q.lflags &&& 0xF8 == 0 && decide (q.ishare ≤ 16 ∧ q.life ≤ 200) && q.qrec % 64 == 0 && q.compl % 8 == 0

/-- Blocks of a grid. -/
def gridCount (g : Nat × Nat × Nat) : Nat := g.1 * g.2.1 * g.2.2

/-- When a quote lapses (R312, R318). -/
def State.expiryOf (s : State) (q : Request) : Nat := s.ns + 1000 * (if q.life = 0 then 200 else q.life)

/-- A quote (R313 to R319): the launch that its record describes, or the reason of CANNOT_FIT. -/
def State.compute (s : State) (q : Request) : Except Nat Launch := do
  let some m := s.imageOf q.ctx q.image | throw 1
  let some k := m.kernels[q.kernel]? | throw 1
  refuseIf (!q.inRange) 1
  let (priced, resident, named) ← s.pricedSet q k
  refuseIf (!k.flags.getLsbD (1 + q.cls) || (k.flags.getLsbD 0 && !q.lflags.getLsbD 0)) 2
  let blocks := gridCount q.grid
  refuseIf (decide (k.gridMax.1 < q.grid.1 ∨ k.gridMax.2.1 < q.grid.2.1 ∨ k.gridMax.2.2 < q.grid.2.2 ∨ 2 ^ 32 ≤ blocks)) 3
  let uses := !priced.isEmpty
  let need := k.needs
  let server := if uses then s.serverNeeds q.ctx priced else ⟨0, 0, 0, 0⟩
  refuseIf (!Needs.covers ⟨64, 4080, 768, 32⟩ (need.plus server)) 4
  let clusters := q.lflags.getLsbD 1 || k.clusterNeeds
  let bytes := (resident.map (s.tensorBytes q.ctx)).sum
  let early := [(!s.residentsFit q bytes, 8), (decide (q.parent.isNone ∧ 64 ≤ s.openQuotes), 10),
    (!priced.all (s.sliceOk q.ctx), 14)]
  match s.place q blocks need server uses (uses && s.needsPairs q.ctx priced) clusters with
  | .error r => throw ((leastReason ((true, r) :: (clusters || k.gridBarrier, 5) :: early)).getD r)
  | .ok (cores, bc) =>
    let pc := cores.length * bc
    let room (c : Nat) : Room := match q.parent with | some p => s.roomIn p c | none => s.roomOf c
    let share := if q.ishare = 0 then (cores.map fun c => (room c).share).foldl min 16 else q.ishare
    let c := s.sys.costs
    let sk := k.whole
    let allRes := k.tensors != 0 && k.resident == k.tensors
    let chain := s.worstChain q.ctx priced
    let opp := match q.parent with | some p => (s.launchOf p).fig.opp | none => s.quoteOpp
    let ct := sk.cycles c + sk.rebrewCycles c uses allRes (bc * k.teams) chain.1
    let wb := worstBlock (ceilDiv (bc * k.tpb) 4) ct sk.nwait sk.twait sk.nsys q.peerNs share opp
    let teams := blocks * k.tpb
    let kids := teams * (1 + k.spawn) * k.launch
    let tq := 1200 + ceilDiv blocks pc * wb + 400 + (if q.cls = 1 then k.yieldNs else 0) + kids * k.childNs
    let held := (need.times bc).plus server
    let stat := c.stat.toNat
    let eq := quotedEnergy (teams * (sk.energy c + sk.rebrewEnergy c uses allRes chain.2)) (kids * k.childNj) stat
      cores.length held.slots tq
    let ll := max (ceilDiv (1000 * cores.length) 192) (perMille bytes)
    let power := powerOf stat cores.length held.slots share ll
    let pieces := s.placePieces q.ctx (s.entryFor q) m k q.lflags pc
    let late := [(k.gridBarrier && decide (pc < blocks), 5),
      (decide (q.parent.isNone ∧ s.sys.budget.toNat < s.committedPower + 110 + power), 7),
      (decide (2 ^ 48 ≤ tq ∨ 2 ^ 48 ≤ eq), 9), (pieces.isNone, 11)]
    match leastReason (early ++ late) with
    | some r => throw r
    | none =>
      let fig : QuoteRec :=
        { tq := tq, eq := eq, cores := cores.length, slots := held.slots, tiles := held.tiles, rlines := held.lines,
          stashk := held.stash, llshare := ll, power := power, ishare := share, opp := opp, status := 0,
          expiry := s.expiryOf q, skel := Config.skeletonHash k.hashed,
          reason := 0, state := 0, plan := s.sys.plan.toNat }
      let ps := pieces.getD []
      return { Launch.none with
        phase := .open, ctx := q.ctx, image := q.image, kernel := q.kernel, grid := q.grid, entry := s.entryFor q, args := q.args,
        yieldClass := q.cls == 1, lflags := q.lflags, peerNs := q.peerNs, qrec := q.qrec, compl := q.compl, ring := q.ring,
        parent := q.parent, depth := q.depth, fig := fig, stat := stat, perCore := bc, coreList := cores,
        clusters := clusters, yieldLeft := k.yieldNs, pieces := ps,
        dataVa := if m.hasData then (ps.getD 1 ⟨0, 0⟩).va else 0,
        named := named, priced := priced, residents := resident, residentBytes := bytes }

/-! The record. -/

/-- The 64 bytes of a quote record (R318). -/
def QuoteRec.bytes (f : QuoteRec) (id cls : Nat) : List Byte :=
  toBytesLE 8 id ++ toBytesLE 8 f.tq ++ toBytesLE 8 f.eq ++ toBytesLE 2 f.cores ++ toBytesLE 1 f.slots
    ++ toBytesLE 1 f.tiles ++ toBytesLE 2 f.rlines ++ toBytesLE 2 f.stashk ++ toBytesLE 2 f.llshare ++ toBytesLE 2 f.power
    ++ toBytesLE 1 f.ishare ++ toBytesLE 1 f.opp ++ toBytesLE 1 cls ++ toBytesLE 1 f.status ++ toBytesLE 8 f.expiry
    ++ toBytesLE 8 f.skel.toNat ++ toBytesLE 1 f.reason ++ toBytesLE 1 f.state ++ toBytesLE 2 f.plan ++ toBytesLE 4 0

/-- The figures of a record that says CANNOT_FIT (R318): zero in bytes 8 to 37; its EXPIRY, CLASS, SKEL and PLAN are those of
any record (log 33). -/
def State.refusedFigures (s : State) (q : Request) (reason : Nat) : QuoteRec :=
  let skel := match (s.imageOf q.ctx q.image).bind fun m => m.kernels[q.kernel]? with
    | some k => Config.skeletonHash k.hashed
    | none => 0
  { status := 1, reason := reason, state := 2, plan := s.sys.plan.toNat, expiry := s.expiryOf q, skel := skel }

/-- The slices of a request's priced set are walked when it is first formed, and the results kept (R347). -/
def State.keepSlices (s : State) (q : Request) : State :=
  match (s.imageOf q.ctx q.image).bind fun m => m.kernels[q.kernel]? with
  | none => s
  | some k => match s.pricedSet q k with
    | .ok (priced, _, _) => priced.foldl (fun (s : State) x => s.keepSlice q.ctx x) s
    | .error _ => s

/-- A QUOTE is read: its record is written and, when it fits, its hold taken (R318, R320). -/
def State.quote (s : State) (q : Request) : State :=
  let id := s.nextQid
  let l := match s.compute q with
    | .ok l => l
    | .error r => { Launch.none with ctx := q.ctx, qrec := q.qrec, fig := s.refusedFigures q r }
  let s1 := { s.keepSlices q with nextQid := id + 1 }.setLaunchOf id l
  (s1.writeVirt q.ctx q.qrec (l.fig.bytes id q.cls)).getD s1

/-- The request of a QUOTE packet (R371). -/
def State.requestOf (s : State) (r : Ring) (f : QuoteFields) : Request :=
  let c := f.ctrl.toNat
  { ctx := s.ringCtx r, image := f.image.toNat, kernel := f.kernel.toNat,
    grid := (bits f.grid.toNat 15 0, bits f.grid.toNat 31 16, bits f.grid.toNat 47 32), args := f.args, cls := bits c 7 0,
    lflags := BitVec.extractLsb' 8 8 f.ctrl, ishare := bits c 23 16, life := bits c 31 24, peerNs := f.peerns.toNat,
    qrec := f.qrec.toNat, compl := f.compl.toNat, ring := some r, parent := none, depth := 0 }

/-- QUOTE (R312, R313). The front cores read none while a fence holds them (R394). -/
def execQuote (ring : Ring) (f : QuoteFields) (s : State) : Out :=
  if s.quotingPaused then .next s
  else packet s ring (fun d => { d with quote := f }) fun s => s.quote (s.requestOf ring f)

/-- A quote's reservation returns (R320): its record is rewritten with a status and a state. -/
def State.closeQuote (s : State) (id : Nat) (phase : LaunchPhase) (status state : Nat) : State :=
  let l := s.launchOf id
  (s.setLaunchOf id { l with phase := phase, pieces := [], fig := { l.fig with status := status, state := state } }).rewriteQuote id

/-- QUOTE_LAPSE (R320): the first ns after EXPIRY has come. -/
def execQuoteLapse (id : Nat) (s : State) : Out :=
  let l := s.launchOf id
  .next (if l.phase = .open ∧ l.parent.isNone ∧ l.fig.expiry < s.ns then s.closeQuote id .lapsed 2 2 else s)

end Sys2Proof.Machine
end

