-- ==== Sys2Proof/Machine/Accept.lean ====
section
/-! DEFINITION. Acceptance (R21, R23, R53, R320, R321, R340, R341, R362, R367, R373): the resident set and its pins, the data
copy, and the start of a launch; ACCEPT and REVOKE (R371). -/
namespace Sys2Proof.Machine

/-! The resident set (R367). -/

/-- A range of the resident set: where it lies, and what its use needs of its pages. -/
structure Range where
  va : Nat
  bytes : Nat
  needs : List Need
  deriving DecidableEq, Repr

/-- The blocks of a COMPRESSED tensor (R192). -/
def State.blocksOfTensor (s : State) (ctx x : Nat) (d : Desc) : List Range :=
  (List.range (ceilDiv d.rows 16 * d.tileCols)).filterMap fun i =>
    (s.blockRange ctx d ⟨x, i / d.tileCols, i % d.tileCols⟩).map fun p => ⟨p.va, p.bytes, [.read]⟩

/-- The memory that describes and holds a tensor's tiles: its rows, its index table with its blocks where they are asked for, or its
materialised copies and their bitmap (R173, R192, R337, R341). -/
def State.tensorRanges (s : State) (ctx x : Nat) (blocks : Bool) : List Range :=
  match s.desc ctx x with
  | .ok d =>
    let tiles := ceilDiv d.rows 16 * d.tileCols
    if d.recomputable then
      match s.recipe ctx x d with
      | none => []
      | some r => if r.mat = 0 then [] else [⟨r.mat, 512 * tiles, [.read, .write]⟩, ⟨r.map, ceilDiv tiles 8, [.read, .write]⟩]
    else if d.compressed then ⟨d.index, 4 * tiles, [.read]⟩ :: (if blocks then s.blocksOfTensor ctx x d else [])
    else [⟨d.base, d.rows * d.pitch, [.read]⟩]
  | _ => []

/-- What the pins of a recomputable tensor hold in place beside its sources (R341): its record's page and its slice. -/
def State.recipeRanges (s : State) (ctx x : Nat) : List Range :=
  match s.desc ctx x with
  | .ok d => match s.recipe ctx x d with
    | some r => [⟨d.recipe, 64, [.read]⟩, ⟨r.entry, 4 * r.slen, [.exec]⟩]
    | none => []
  | _ => []

/-- The resident-range list at an address of a context (R367): at most 64 entries, up to one of length zero. -/
def State.listedRanges (s : State) (ctx at_ : Nat) : List Range :=
  if at_ = 0 then []
  else ((List.range 64).map fun i =>
      ((s.readVirtLE ctx (at_ + 16 * i) 8).getD 0, (s.readVirtLE ctx (at_ + 16 * i + 8) 8).getD 0)).takeWhile
        (fun e => e.2 != 0) |>.map fun e => ⟨e.1, e.2, []⟩

/-- The resident set of a launch (R367). A child has neither quote record nor completion word of its own (R327), and an imported
launch brings neither with it (R392). -/
def State.residentSet (s : State) (l : Launch) : List Range :=
  let ctx := l.ctx
  let image := match s.imageOf ctx l.image with
    | some m => [⟨m.addr, m.len, []⟩, ⟨m.codeVa, 4 * m.codeWords, [.exec]⟩] ++
        (if m.hasData then [⟨m.addr + m.dataOff, m.dataLen, [.read]⟩] else [])
    | none => []
  let records : List Range := if l.ring.isNone then [] else [⟨l.qrec, 64, [.write]⟩, ⟨l.compl, 8, [.write]⟩]
  let sources := l.priced.flatMap fun x => (s.sourcesOf ctx 8 x).map (·.1)
  image ++ records ++ [⟨l.args.toNat, 4096, [.read]⟩, ⟨l.entry.brPage, 4160, [.read, .write]⟩]
    ++ l.pieces.map (fun p => ⟨p.va, p.bytes, [.read, .write]⟩)
    ++ l.residents.flatMap (s.tensorRanges ctx · true)
    ++ (l.priced.flatMap fun x => s.recipeRanges ctx x ++ s.tensorRanges ctx x false)
    ++ sources.flatMap (s.tensorRanges ctx · false)
    ++ [⟨s.ttBase ctx, 64 * s.ttLen ctx, [.read]⟩] ++ s.listedRanges ctx l.entry.rsList

/-- Every page of a range has a valid translation with the permissions that its use needs. -/
def State.rangeOk (s : State) (ctx : Nat) (r : Range) : Bool :=
  (List.range (if r.bytes = 0 then 0 else (r.va % 65536 + r.bytes - 1) / 65536 + 1)).all fun i =>
    let va := r.va / 65536 * 65536 + 65536 * i
    decide (va < 2 ^ 48) && (match s.lookup ctx va with
      | .ok e => r.needs.all fun n => n.allowed e.perm
      | .error _ => false)

/-- The launch can run (R367): its resident set is in place, and its resident tensors have valid descriptors. -/
def State.residentOk (s : State) (l : Launch) : Bool :=
  (s.residentSet l).all (s.rangeOk l.ctx)
    && l.residents.all fun x => match s.desc l.ctx x with | .ok _ => true | _ => false

/-! The start of a launch. -/

/-- The features of a launch (R373). -/
def featuresOf (lflags : BitVec 8) : List DWord := [1, 1, 0x7F, 0xFFF, 0x1F, 768, 32, BitVec.setWidth 64 lflags]

/-- Gives the launch its copy of the data section (R53). -/
def State.copyData (s : State) (l : Launch) : State :=
  match s.imageOf l.ctx l.image with
  | none => s
  | some m =>
    if m.hasData then
      match s.readVirt l.ctx (m.addr + m.dataOff) m.dataLen with
      | some bs => (s.writeVirt l.ctx l.dataVa bs).getD s
      | none => s
    else s

/-- The lives of those tensors of a list begin that no live launch prices yet (R340): a tile is ABSENT then, unless tst or cpyt.st
has installed it (R342), and its map bit is read anew (R337). -/
def State.beginLives (s : State) (priced : List Nat) : State :=
  let begins (t : TileLine) : Bool := priced.contains t.name.tensor && !s.tensorLives t.name.tensor
  { s with tiles := (s.tiles.filter fun t => !begins t || t.stored && t.state == .present).map fun (t : TileLine) =>
      if begins t then { t with mapRead := false } else t }

/-- A quote is accepted (R321): the hold becomes the reservation, and the resident set is pinned. When it is not in place the
launch ends at once, a host breach (R367). -/
def State.commit (s : State) (id : Nat) : State :=
  let l := s.launchOf id
  let pins := (s.residentSet l).map fun r => ({ va := r.va, bytes := r.bytes } : Piece)
  let l1 : Launch := { l with phase := .live, accepted := s.ns, pins := pins, features := featuresOf l.lflags,
                              fig := { l.fig with state := 1 } }
  let s0 := pins.foldl (fun (s : State) p => s.pinRange l.ctx p) (s.beginLives l.priced)
  let s1 := (s0.setLaunchOf id l1).copyData l1
  if s.residentOk l then s1 else s1.endWith id .host .unmap

/-! ACCEPT and REVOKE. -/

/-- LASTA of a stream (R369): the outcome and the QID. -/
def State.writeLasta (s : State) (i outcome : Nat) (qid : DWord) : State :=
  s.setStreamField i 44 8 (outcome * 2 ^ 62 + qid.toNat % 2 ^ 62)

/-- The handling of an ACCEPT (R321). -/
def State.acceptQuote (s : State) (r : Ring) (qid : DWord) (decline : Bool) : State :=
  let id := qid.toNat
  let l := s.launchOf id
  if l.phase ≠ .open ∨ l.ctx ≠ s.ringCtx r ∨ l.parent.isSome then s.writeLasta r.stream 2 qid
  else if l.fig.expiry < s.ns ∨ l.fig.opp < s.sys.opp then (s.closeQuote id .lapsed 2 2).writeLasta r.stream 2 qid
  else if decline then (s.closeQuote id .declined 0 3).writeLasta r.stream 1 qid
  else
    let s1 := ((s.commit id).rewriteQuote id).writeLasta r.stream 0 qid
    let x := s1.ringOf r
    s1.setRing r { x with accepted := x.accepted ++ [id] }

/-- ACCEPT (R23, R321, R371). The front cores read none while a fence holds them (R394). -/
def execAccept (ring : Ring) (qid : BitVec 64) (flags : BitVec 32) (s : State) : Out :=
  if s.quotingPaused then .next s
  else packet s ring (fun d => { d with accept := (qid, flags) }) fun s => s.acceptQuote ring qid (flags.getLsbD 0)

/-- The handling of a REVOKE (R371): an open quote is declined and a live launch ends. It has no effect on a child that has
still to be accepted, nor on a launch that has only its completion left (R375). -/
def State.revoke (s : State) (ctx id : Nat) : State :=
  let l := s.launchOf id
  if l.ctx ≠ ctx then s
  else match l.phase with
    | .open => if l.parent.isSome then s else s.closeQuote id .declined 0 3
    | .live => if s.allRetired id then s else s.endWith id .host .revoke
    | _ => s

/-- REVOKE (R371). -/
def execRevoke (ring : Ring) (lid : BitVec 64) (s : State) : Out :=
  packet s ring (fun d => { d with revoke := lid }) fun s => s.revoke (s.ringCtx ring) lid.toNat

end Sys2Proof.Machine
end

