-- ==== Sys2Proof/Machine/Front.lean ====
section
/-! DEFINITION. The front cores (R369 to R371): the reading of a ring's next packet, and the packets PRED, FENCE and
SIGNAL. -/
namespace Sys2Proof.Machine

/-! PRED, FENCE and SIGNAL. -/

/-- The test of a PRED (R371): 0 equal, 1 not equal, 2 less unsigned, 3 greater or equal. -/
def predTest (code : Nat) (x value : DWord) : Bool :=
  match code with
  | 0 => x == value
  | 1 => x != value
  | 2 => decide (x.toNat < value.toNat)
  | _ => decide (value.toNat ≤ x.toNat)

/-- The ring's place in its arms: none once both are at their end, when the delta state is again the one the PRED
left (R371). -/
def RingState.settleArms (x : RingState) : RingState :=
  match x.arms with
  | some a => if a.first = 0 ∧ a.second = 0 then { x with arms := none, delta := a.left } else x
  | none => x

/-- A packet of an arm has been passed. -/
def RingState.passPacket (x : RingState) : RingState :=
  match x.arms with
  | some a =>
    let a1 : PredArms := if 0 < a.first then { a with first := a.first - 1 } else { a with second := a.second - 1 }
    ({ x with arms := some a1 } : RingState).settleArms
  | none => x

/-- The next packet of the ring is skipped. -/
def RingState.skips (x : RingState) : Bool := match x.arms with | some a => if 0 < a.first then !a.taken else a.taken | none => false

/-- PRED (R371): reads the word and sets the arms, or stops the ring with ERR 7. -/
def execPred (ring : Ring) (addr mask value : BitVec 64) (ctrl : BitVec 32) (s : State) : Out :=
  if s.ringRuns ring ∧ (s.readVirtLE (s.ringCtx ring) addr.toNat 8).isNone then .next (s.stopRing ring 7)
  else packet s ring (fun d => { d with pred := (addr, mask, value, ctrl) }) fun s =>
    let x := s.ringOf ring
    let w := BitVec.ofNat 64 ((s.readVirtLE (s.ringCtx ring) addr.toNat 8).getD 0)
    let arms : PredArms := { first := bits ctrl.toNat 15 8, second := bits ctrl.toNat 23 16,
                             taken := predTest (bits ctrl.toNat 1 0) (w &&& mask) value, left := x.delta }
    s.setRing ring ({ x with arms := some arms } : RingState).settleArms

/-- The completion words of launches have been written: none of them is live (R281). -/
def State.allDone (s : State) (ids : List Nat) : Bool := ids.all fun i => (s.launchOf i).phase != .live

/-- FENCE (R371): holds the ring until the named launches have completed. LID 0 names every launch accepted earlier on the
ring. -/
def execFence (ring : Ring) (lid : BitVec 64) (s : State) : Out :=
  packet s ring (fun d => { d with fence := lid }) fun s =>
    let x := s.ringOf ring
    let ids := if lid = 0 then x.accepted
      else if (s.launchOf lid.toNat).ctx = s.ringCtx ring then [lid.toNat] else []
    if s.allDone ids then s else s.setRing ring { x with hold := some ids }

/-- FENCE_SATISFIED (R371). -/
def execFenceSatisfied (ring : Ring) (s : State) : Out :=
  let x := s.ringOf ring
  .next (match x.hold with
    | some ids => if s.allDone ids then s.setRing ring { x with hold := none } else s
    | none => s)

/-- SIGNAL (R371): a write in the stream's context, or a message to its endpoint. -/
def execSignal (ring : Ring) (addr value : BitVec 64) (ctrl : BitVec 32) (s : State) : Out :=
  packet s ring (fun d => { d with signal := (addr, value, ctrl) }) fun s =>
    if ctrl.getLsbD 0 then { s with hostWrites := s.hostWrites ++ [(BitVec.ofNat 64 (s.endpt ring.stream), addr, value)] }
    else (s.writeVirt (s.ringCtx ring) addr.toNat (toBytesLE 8 value.toNat)).getD s

/-! Packets in a ring. -/

/-- The widths of a packet type's fields in bytes (R371); none for a type that is not assigned. -/
def packetFields (type : Nat) : Option (List Nat) :=
  match type with
  | 1 => some [8, 8]
  | 2 => some [8, 4, 8, 8, 4, 4, 8, 8]
  | 3 => some [8, 4]
  | 4 => some [8]
  | 5 => some [8, 8, 8, 4]
  | 6 => some [8]
  | 7 => some [8, 8, 4]
  | _ => none

/-- The fields that a ring keeps for a type (R370). -/
def Delta.values (d : Delta) (type : Nat) : List Nat :=
  match type with
  | 1 => [d.reg.1.toNat, d.reg.2.toNat]
  | 2 => [d.quote.image.toNat, d.quote.kernel.toNat, d.quote.grid.toNat, d.quote.args.toNat, d.quote.ctrl.toNat,
          d.quote.peerns.toNat, d.quote.qrec.toNat, d.quote.compl.toNat]
  | 3 => [d.accept.1.toNat, d.accept.2.toNat]
  | 4 => [d.revoke.toNat]
  | 5 => [d.pred.1.toNat, d.pred.2.1.toNat, d.pred.2.2.1.toNat, d.pred.2.2.2.toNat]
  | 6 => [d.fence.toNat]
  | _ => [d.signal.1.toNat, d.signal.2.1.toNat, d.signal.2.2.toNat]

/-- A reserved bit of a field is set, or an alignment of R371 is broken (R370). -/
def reservedSet (type : Nat) (v : List Nat) : Bool :=
  let f (i : Nat) : Nat := v.getD i 0
  match type with
  | 1 => f 0 % 64 != 0
  | 2 => decide (2 ^ 8 ≤ f 1 ∨ 2 ^ 48 ≤ f 2)
  | 3 => decide (2 ≤ f 1)
  | 5 => f 0 % 8 != 0 || decide (2 ^ 24 ≤ f 3) || bits (f 3) 7 2 != 0
  | 7 => f 0 % 8 != 0 || decide (2 ≤ f 2)
  | _ => false

/-- Bytes of the fields that a mask sets. -/
def fieldBytes (ws : List Nat) (mask : Nat) : Nat := ((ws.zipIdx.filter fun p => mask.testBit p.2).map (·.1)).sum

/-- The values of a packet's fields: those sent, in ascending bit order with no padding, and those kept (R370). -/
def fieldValues (ws kept : List Nat) (mask : Nat) (body : List Byte) : List Nat :=
  ws.zipIdx.map fun p =>
    if mask.testBit p.2 then fieldLE body (fieldBytes ws (mask % 2 ^ p.2)) p.1 else kept.getD p.2 0

/-- What a lane does next. -/
inductive LaneAct where
  | idle
  /-- It stops a ring with an error. -/
  | stop (r : Ring) (code : Nat)
  /-- It skips a packet of so many words. -/
  | skip (r : Ring) (words : Nat)
  /-- It handles a packet of a type, of so many words, with these fields. -/
  | run (r : Ring) (words type : Nat) (fields : List Nat)
  deriving DecidableEq, Repr

/-- The size of a stream's rings in bytes. -/
def State.ringSize (s : State) (i : Nat) : Nat := 2 ^ s.streamField i 34 1
/-- HHEAD or NHEAD. -/
def State.ringHead (s : State) (r : Ring) : Nat := s.streamField r.stream (headOff r) 4
/-- HTAIL or NTAIL. -/
def State.ringTail (s : State) (r : Ring) : Nat := s.streamField r.stream (tailOff r) 4

/-- n bytes of a ring from an offset, wrapping (R369); none when one cannot be read. -/
def State.ringBytes (s : State) (r : Ring) (off n : Nat) : Option (List Byte) :=
  let size := s.ringSize r.stream
  (List.range n).mapM fun i => (s.readVirt (s.ringCtx r) (s.ringBase r + (off + i) % size) 1).map (·.headD 0)

/-- The lane's reading of the packet at a ring's head (R370); the checks come in the order of the packet's parts. -/
def State.readPacket (s : State) (r : Ring) : LaneAct :=
  let rsize := s.streamField r.stream 34 1
  let size := s.ringSize r.stream
  let at_ := s.ringHead r
  let ready := (s.ringTail r + size - at_ % size) % size
  if rsize < 12 ∨ 20 < rsize ∨ s.ringBase r % 64 ≠ 0 then .stop r 5
  else if ready < 4 then .idle
  else match s.ringBytes r at_ 4 with
    | none => .stop r 5
    | some hb =>
      let h := ofBytesLE hb
      let mask := bits h 15 0
      let type := bits h 31 28
      let words := bits h 23 16
      match packetFields type with
      | none => .stop r 1
      | some ws =>
        if bits h 27 24 ≠ 0 ∨ 2 ^ ws.length ≤ mask then .stop r 3
        else if 4 * words ≠ 4 + fieldBytes ws mask then .stop r 2
        else if ready < 4 * words then .idle
        else match s.ringBytes r (at_ + 4) (4 * words - 4) with
          | none => .stop r 5
          | some body =>
            let x := s.ringOf r
            let v := fieldValues ws (x.delta.values type) mask body
            if reservedSet type v then .stop r 3
            else if type = 5 ∧ x.arms.isSome then .stop r 4
            else if x.skips then .skip r words
            else if s.quotingPaused ∧ (type = 2 ∨ type = 3) then .idle
            else .run r words type v

/-- A ring holds something to read. -/
def State.ringWaits (s : State) (r : Ring) : Bool := s.ringRuns r && s.ringHead r != s.ringTail r

/-- What a ring offers its lane. -/
def State.ringAct (s : State) (r : Ring) : LaneAct := if s.ringWaits r then s.readPacket r else .idle

/-- What the lane of a stream does next (R369): the high ring first; a ring whose packet waits holds only itself. -/
def State.laneAct (s : State) (i : Nat) : LaneAct :=
  if s.ringAct ⟨i, true⟩ = .idle then s.ringAct ⟨i, false⟩ else s.ringAct ⟨i, true⟩

/-- The lane has passed a packet of so many words: its head moves on, and so does the ring's place in the arms that it
stood in before. -/
def State.passPacket (s : State) (r : Ring) (words : Nat) (inArms : Bool) : State :=
  let s1 := s.setStreamField r.stream (headOff r) 4 ((s.ringHead r + 4 * words) % s.ringSize r.stream)
  if inArms then s1.setRing r (s1.ringOf r).passPacket else s1

/-- The handling of a packet of a type with its fields (R371). -/
def State.handle (s : State) (r : Ring) (type : Nat) (v : List Nat) : Out :=
  let d (i : Nat) : BitVec 64 := BitVec.ofNat 64 (v.getD i 0)
  let w (i : Nat) : BitVec 32 := BitVec.ofNat 32 (v.getD i 0)
  match type with
  | 1 => execReg r (d 0) (d 1) s
  | 2 => execQuote r ⟨d 0, w 1, d 2, d 3, w 4, w 5, d 6, d 7⟩ s
  | 3 => execAccept r (d 0) (w 1) s
  | 4 => execRevoke r (d 0) s
  | 5 => execPred r (d 0) (d 1) (d 2) (w 3) s
  | 6 => execFence r (d 0) s
  | _ => execSignal r (d 0) (d 1) (w 2) s

/-- The lane of a stream reads and handles its next packet (R369, R370, R371). A packet that stops its ring stays at the
head. -/
def State.lane (s : State) (i : Nat) : Out :=
  match s.laneAct i with
  | .idle => .next s
  | .stop r code => .next (s.stopRing r code)
  | .skip r words => .next (s.passPacket r words true)
  | .run r words type v =>
    match s.handle r type v with
    | .next s1 => .next (if (s1.ringOf r).stopped = false then s1.passPacket r words (s.ringOf r).arms.isSome else s1)
    | o => o

/-- The place of a lane's next packet in the order of R23: REVOKE, ACCEPT, QUOTE, PRED, FENCE, SIGNAL, REG; last, one that has
no effect. -/
def State.laneRank (s : State) (i : Nat) : Nat :=
  match s.laneAct i with
  | .run _ _ type _ => [7, 6, 2, 1, 0, 3, 4, 5].getD type 7
  | _ => 7

/-- The lanes of one front core whose packets fall due in one cycle handle them in the order of R23, equal types by stream. -/
def State.lanes (s : State) (streams : List Nat) : Out :=
  let mine := (List.range 128).filter fun i => streams.contains i && streams.head?.any fun j => i / 32 == j / 32
  let order := (List.range 8).flatMap fun k => mine.filter fun i => s.laneRank i == k
  order.foldl (fun (o : Out) i => match o with | .next s1 => s1.lane i | o => o) (.next s)

end Sys2Proof.Machine
end

