-- ==== Sys2Proof/Machine/Tiles.lean ====
section
/-! DEFINITION. Tile lines as programs name them: tile loads and stores, discard and last use (R172, R189 to R191, R197,
R208, R209), the states of recomputable tiles with rmat and rdrop (R341, R342, R349), line fills, and eviction. -/
namespace Sys2Proof.Machine

/-! What every form that names a tile shares. -/

/-- The launch ends because the host changed what it had to leave alone (R176, R336, R341, R367). -/
def hostUnmap (s : State) : Res := .moved (s.endWith s.team.launch .host .unmap (some s.cur) s.team.pc)

/-- A body that acts on a tile: PROT for tensor 0, an identifier beyond the table, an invalid descriptor, and a tile
outside the tensor (R173, R176). -/
def onTile (s : State) (n : TileName) (k : State → Desc → Res) : Res :=
  match s.desc s.ctx n.tensor with
  | .unmapped => hostUnmap s
  | .invalid => .trap .prot 0 {}
  | .ok d => if d.hasTile n.row n.col then k (s.cacheDesc s.ctx n.tensor) d else .trap .prot 0 {}

/-- A body that acts on the tile that three scalars name, once for the team and not at all with an empty exec (R208). -/
def namedTile (s : State) (a b c : SReg) (k : State → Desc → TileName → Res) : Res :=
  let t := s.team
  let n : TileName := ⟨(t.getS a).toNat, (t.getS b).toNat, (t.getS c).toNat⟩
  someLanes s (
    if 2 ^ 20 ≤ n.tensor ∨ 2 ^ 16 ≤ n.row ∨ 2 ^ 16 ≤ n.col then .trap .prot 0 {}
    else onTile s n fun s d => k s d n)

/-- A fault of a tile's backing pages, else the body (R204, checks 4 and 5). -/
def tileChecked (s : State) (d : Desc) (n : TileName) (need : Need) (k : Res) : Res :=
  match s.tileFault s.ctx d n need with
  | some (c, det) => .trap c 0 det
  | none => k

/-- The launch's tile accesses are charged at the resident rate (R233). -/
def State.residentRate (s : State) (l : Launch) : Bool :=
  let k := s.kernelOf l
  l.priced.isEmpty && k.tensors != 0 && k.tensors &&& ~~~k.resident == 0

/-- Notes that an access at the resident rate reached a tensor that is not declared resident (R233, R329). -/
def State.noteRate (s : State) (n : TileName) : State :=
  let l := s.launch
  if s.residentRate l ∧ ¬ l.residents.contains n.tensor then s.setLaunch { l with unpricedAccess := true } else s

/-- A slice may read only tiles of its source windows (R345). -/
def State.inWindows (s : State) (t : Team) (n : TileName) : Bool :=
  match t.rebrew with
  | none => true
  | some r => match s.desc s.ctx r.name.tensor with
    | .ok d => match s.recipe s.ctx r.name.tensor d with
      | some q => q.sources.any fun x => x.covers r.name.row r.name.col n
      | none => false
    | _ => false

/-! Fills. -/

/-- What a miss leads to. -/
inductive FillRes where
  /-- The line is installed. -/
  | done (s : State)
  /-- A chain brews the tile. -/
  | brews (s : State)
  /-- It fails; what it has read of the map bit stays known (R337). -/
  | fault (s : State) (c : Cause) (d : Detail)
  /-- A pinned page cannot be reached: a host breach. -/
  | unmapped

/-- Sends a rebrew request for an ABSENT tile, or raises RDEPTH (R343, R354). -/
def State.askBrew (s : State) (team : Nat) (x : TileLine) (r : Recipe) : FillRes :=
  let u := s.teamOf team
  let l := s.launchOf u.launch
  let level := match u.rebrew with | some q => q.level + 1 | none => 1
  let core := match u.rebrew with | some q => q.server | none => u.core
  let top := match s.brews.find? fun q => q.core == core && q.running && q.level == 1 with
    | some q => q.depth
    | none => r.depth
  let depth := if u.rebrew.isSome then top else r.depth
  let det : Detail := { tile := some x.name, addr := x.name.word }
  let s1 := s.setTile x
  if ¬ l.priced.contains x.name.tensor then .fault s1 .rdepth { det with unpriced := true }
  else if depth < level then .fault s1 .rdepth det
  else
    let q : BrewReq := { ctx := l.ctx, launch := u.launch, name := x.name, level := level, depth := depth, core := core,
                         running := false }
    .brews { s.setTile { x with state := .brewing } with brews := s.brews ++ [q] }

/-- A read that waits for a chain of another launch is noted (R343). -/
def State.noteJoin (s : State) (team : Nat) (n : TileName) : State :=
  let id := (s.teamOf team).launch
  if s.brews.any fun q => q.name == n && q.launch != id then s.setLaunchOf id { s.launchOf id with joined := true } else s

/-- The live launches of a context of whose recomputable tensors a tensor is a source (R340, R341). -/
def State.pinners (s : State) (ctx tensor : Nat) : List Nat :=
  (s.launches.filter fun e => e.2.phase == .live && e.2.ctx == ctx
    && e.2.priced.any fun x => (s.sourcesOf ctx 8 x).any fun y => y.1 == tensor).map (·.1)

/-- The chain's first touch of a block of a COMPRESSED source pins the block's pages (R341). -/
def State.pinBlock (s : State) (ctx : Nat) (d : Desc) (n : TileName) : State :=
  match if d.compressed then s.blockRange ctx d n else none, s.pinners ctx n.tensor with
  | some p, id :: ids =>
    let add (l : Launch) : Launch := { l with pins := p :: l.pins }
    (id :: ids).foldl (fun (s : State) i => s.setLaunchOf i (add (s.launchOf i))) (s.pinRange ctx p)
  | _, _ => s

/-- The fill of a recomputable tile from its materialised copy (R342). A copy that the host has taken away ends the launch; one in
a context image cannot be read (log 66). -/
def State.fillCopy (s : State) (ctx : Nat) (d : Desc) (r : Recipe) (x : TileLine) : FillRes :=
  match s.fillRead ctx (r.copyAt d x.name) 512 with
  | .error (c, det) =>
    if c = .mchk ∨ (det.walk.any fun w => s.inImage ctx w.1) then .fault (s.setTile x) c { det with walk := none } else .unmapped
  | .ok bs => .done (s.setTile { x with state := .present, stored := false,
                                        words := lineWords (d.clip x.name.row x.name.col bs) })

/-- A miss of a team on a tile of a tensor with this descriptor (R173, R197, R342). A launch that does not price a recomputable
tensor has RDEPTH on every miss (R354); for one that does, a record or a bitmap that cannot be read is a pin that the host has
broken. -/
def State.fillWith (s : State) (team : Nat) (n : TileName) (d : Desc) : FillRes :=
  let l := s.launchOf (s.teamOf team).launch
  let ctx := l.ctx
  let priced := l.priced.contains n.tensor
  let lost : FillRes := if priced then .unmapped else .fault s .rdepth { tile := some n, addr := n.word, unpriced := true }
  if d.recomputable then
    match s.recipe ctx n.tensor d with
    | none => lost
    | some r => match s.withMap ctx d r n with
      | none => lost
      | some x =>
        match x.state with
        | .present => .done s
        | .brewing => .brews (s.noteJoin team n)
        | .absent => if x.map && priced then s.fillCopy ctx d r x else s.askBrew team x r
  else if (s.tileLine n).isSome then .done s
  else
    match if d.compressed then s.expandTile ctx d n else s.gatherTile ctx d n with
    | .error f => .fault s f.1 f.2
    | .ok bs => .done ((s.pinBlock ctx d n).setTile
        { ctx := ctx, name := n, state := .present, map := false, mapRead := false, words := lineWords bs, dirty := false,
          lastUse := false, recomputable := false })

/-- A miss of a team on a tile, with the descriptor that its access has used (R177), or the one that the word now finds. -/
def State.fillBy (s : State) (team : Nat) (n : TileName) (used : Option Desc) : FillRes :=
  match used, s.desc (s.launchOf (s.teamOf team).launch).ctx n.tensor with
  | some d, _ | none, .ok d => s.fillWith team n d
  | none, .unmapped => .unmapped
  | none, .invalid => .fault s .prot {}

/-- A discard or rdrop of a tile that the team has issued has still to drop the line. -/
def State.dropsTile (s : State) (team : Nat) (n : TileName) : Bool :=
  s.stores.any fun w => w.team == team && match w.what with
    | .discard _ m d => m == n && (d.compressed || d.recomputable)
    | .rdrop _ m _ => m == n
    | _ => false

/-- A pending tile load that misses: its line is not there, or, for a slice that has not noted it yet, it brews (R404). -/
def State.missingRead (s : State) (t : Team) : Option (Pend × TileName × Desc) :=
  t.pend.findSome? fun p => match p.src with
    | .tile n d none =>
      if (s.coreTile t.core n).isSome ∨ s.brewing n ∧ t.rebrew.all (·.nested.contains p.id) then none else some (p, n, d)
    | _ => none

/-- An issued rmat whose tile has gone ABSENT with M = 0, and which has to rebrew it (R349). -/
def State.missingCopy (s : State) (team : Nat) : Option (Store × TileName × Desc) :=
  s.stores.findSome? fun w => match w.what with
    | .rmat ctx n d => if w.team = team ∧ ¬ s.brewing n ∧ s.mustRebrew ctx n d then some (w, n, d) else none
    | _ => none

/-- LINE_FILL (R197, R342): the miss that a team waits for, or of a pending tile load or an issued rmat, is served. A fault of the
fill path is raised at the team's word. -/
def execLineFill (team : Nat) (s0 : State) : Out :=
  let s := s0.at team
  let u := s.team
  let unmap (s : State) : State := s.endWith u.launch .host .unmap (some team) u.pc
  .next (match u.wait with
    | .tile n =>
      if s.tileOwned n (some (team, s.seq)) ∨ s.dropsTile team n then s
      else match s.fillBy team n none with
        | .done s1 => s1
        | .brews s1 => s1.setTeamOf team ({ s1.teamOf team with wait := .brewing n }.nest none)
        | .fault s1 c d => s1.setTeamOf team { s1.teamOf team with wait := .none, due := some { cause := c, lanes := u.exec, detail := d } }
        | .unmapped => unmap s
    | _ => match s.missingRead u, s.missingCopy team with
      | some (p, n, d), _ => (match s.fillWith team n d with
        | .done s1 => s1
        | .brews s1 => s1.setTeamOf team ((s1.teamOf team).nest (some p.id))
        | .fault s1 c d =>
          let t := s1.teamOf team
          s1.setTeamOf team { t with pend := t.pend.filter fun q => q.id != p.id, due := t.due.or (some { cause := c, lanes := u.exec, detail := d }) }
        | .unmapped => unmap s)
      | none, some (w, n, d) => (match s.fillWith team n d with
        | .done s1 | .brews s1 => s1
        | .fault s1 c d =>
          let t := s1.teamOf team
          (s1.dropStore w.id).setTeamOf team { t with due := t.due.or (some { cause := c, lanes := u.exec, detail := d }) }
        | .unmapped => unmap s)
      | none, none => s)

/-! Loads and stores of tiles. -/

/-- The wait of a read whose miss rebrews: for its chain to start, or for the one that brews the tile. -/
def State.missWait (s : State) (n : TileName) : State :=
  let s1 := s.noteJoin s.cur n
  s1.setTeam { s1.team.openRead none with wait := if s.brewing n then .brewing n else .tile n }

/-- A read of a tile by the issuing team does not miss: its core sees the line, or an earlier store of the team will make it. -/
def State.hitsTile (s : State) (n : TileName) : Bool :=
  (s.coreTile s.team.core n).isSome || s.stores.any fun w => w.team == s.cur && match w.what with
    | .tile _ m _ _ | .discard _ m _ => m == n
    | _ => false

/-- A read of a tile by the issuing team rebrews it, or joins a chain (R274, R342): the tile is recomputable and brews, or is ABSENT
with M = 0, once the drops of it that the team has issued have been made. Where the record or the bitmap cannot be read, the miss
tells. -/
def State.readRebrews (s : State) (n : TileName) (d : Desc) : Bool :=
  let rdrops := s.stores.any fun w => w.team == s.cur && match w.what with | .rdrop _ m _ => m == n | _ => false
  d.recomputable && (if s.dropsTile s.cur n then rdrops || s.mapUnset s.ctx n d
    else !s.hitsTile n && (s.brewing n || s.mapUnset s.ctx n d))

/-- A read of a tile whose miss rebrews leaves the ready set (R274); a drop of the line that the team has issued comes first. Any
other goes on, and its result is pending (R208). -/
def readTile (s : State) (n : TileName) (d : Desc) (k : Res) : Res :=
  if ¬ s.readRebrews n d then k
  else if s.dropsTile s.cur n then .moved (s.waitFor (.tile n))
  else .moved (s.missWait n)

/-- The words that a tile store writes (R208). -/
def Team.tileData (t : Team) (d : VReg) : List Word :=
  (List.range 128).map fun q => t.getVn (d.toNat + q / 32) (q % 32)

/-- The four registers of a tile. -/
def tileRegs (d : VReg) : List Nat := (List.range 4).map (d.toNat + ·)

/-- The pending tile load that the word leaves. One that has waited for a chain returns the line that the chain installed
(R342). -/
def State.loadTile (s : State) (d : VReg) (n : TileName) (x : Desc) : State :=
  let id := s.seq
  let s0 := s.addPend (.v d.toNat 4) (.tile n x none)
  let s1 := s0.setTeam (s0.team.openRead (some id))
  if s.team.keeps = some n then
    let s2 := s1.setTeam (s1.team.nest (some id))
    match s2.team.pend.find? fun p => p.id = id with
    | some p => s2.fixWhere s.cur p fun _ => true
    | none => s2
  else s1

/-- tld (R208, R345). -/
def execTld (sw : Bool) (d : VReg) (a b c : SReg) (s : State) : Out :=
  run s sw 1 { vw := tileRegs d, sr := [a, b, c], lanes := some s.team.exec } fun s =>
    namedTile s a b c fun s x n =>
      if ¬ s.inWindows s.team n then .trap .prot 0 {}
      else tileChecked s x n .read (
        let s1 := s.noteRate n
        readTile s1 n x (.ok (s1.loadTile d n x)))

/-- The checks of a store to a tile: its pages, READONLY and COMPRESSED, and the pins (R204, R341). -/
def tileStoreChecked (s : State) (d : Desc) (n : TileName) (k : Res) : Res :=
  tileChecked s d n .write (
    if d.readonly ∨ d.compressed then .trap .prot 0 {}
    else if s.pinnedTensor n.tensor d.recomputable then .trap .rpin 0 {}
    else k)

/-- tst (R208). -/
def execTst (sw : Bool) (d : VReg) (a b c : SReg) (s : State) : Out :=
  run s sw 1 { vr := tileRegs d, sr := [a, b, c], lanes := some s.team.exec } fun s =>
    outsideRebrew s (namedTile s a b c fun s x n =>
      tileStoreChecked s x n
        (.ok ((s.noteRate n).putStore (.tile s.ctx n (lineWords (x.clip n.row n.col (lineBytes (s.team.tileData d)))) x))))

/-- discard (R189, R190): as the home slice orders it, an ordinary tile reads as zero from then on, and the cached line of any other
is dropped. The home slice orders it at a moment of its own, as it does a store (log 13). -/
def execDiscard (sw : Bool) (a b c : SReg) (s : State) : Out :=
  run s sw 1 { sr := [a, b, c], lanes := some s.team.exec } fun s =>
    outsideRebrew s (namedTile s a b c fun s x n =>
      tileChecked s x n .write (
        if x.readonly ∧ ¬ x.compressed then .trap .prot 0 {}
        else if ¬ x.compressed ∧ ¬ x.recomputable ∧ s.pinnedTensor n.tensor false then .trap .rpin 0 {}
        else .ok (s.putStore (.discard s.ctx n x))))

/-- lastuse (R191): the line becomes the first candidate for eviction. -/
def execLastuse (sw : Bool) (a b c : SReg) (s : State) : Out :=
  run s sw 1 { sr := [a, b, c], lanes := some s.team.exec } fun s =>
    outsideRebrew s (namedTile s a b c fun s x n => .ok (s.putStore (.lastUse s.ctx n x)))

/-! Materialising and dropping. -/

/-- A recipe record that cannot be read: the host has broken a pin of a launch that prices the tensor; any other has RDEPTH (R354). -/
def lostRecipe (s : State) (n : TileName) : Res :=
  if s.launch.priced.contains n.tensor then hostUnmap s
  else .trap .rdepth 0 { tile := some n, addr := n.word, unpriced := true }

/-- rmat (R349): the line is written to its materialised copy, and M becomes 1; an ABSENT tile is filled or rebrewed first. -/
def execRmat (sw : Bool) (a b c : SReg) (s : State) : Out :=
  run s sw 1 { sr := [a, b, c], lanes := some s.team.exec } fun s =>
    outsideRebrew s (namedTile s a b c fun s x n =>
      if ¬ x.recomputable then .trap .prot 0 {}
      else match s.recipe s.ctx n.tensor x with
        | none => lostRecipe s n
        | some r =>
          if r.mat = 0 then .trap .prot 0 {}
          else match s.recipeFault s.ctx x n true with
            | some (c, det) => .trap c 0 det
            | none => readTile s n x (.ok (s.putStore (.rmat s.ctx n x))))

/-- rdrop (R349): the tile becomes ABSENT and M becomes 0. -/
def execRdrop (sw : Bool) (a b c : SReg) (s : State) : Out :=
  run s sw 1 { sr := [a, b, c], lanes := some s.team.exec } fun s =>
    outsideRebrew s (namedTile s a b c fun s x n =>
      if ¬ x.recomputable then .trap .prot 0 {}
      else match s.recipeFault s.ctx x n false with
        | some (c, det) => .trap c 0 det
        | none => .ok (s.putStore (.rdrop s.ctx n x)))

/-! Eviction. -/

/-- A live launch declares a tensor resident (R191, R324, R342). -/
def State.heldResident (s : State) (tensor : Nat) : Bool :=
  s.launches.any fun e => e.2.phase == .live && e.2.residents.contains tensor

/-- A line may be evicted: no live launch declares it resident, no read awaits it, and no engine owns it. -/
def State.evictable (s : State) (x : TileLine) : Bool :=
  x.state == .present && !s.heldResident x.name.tensor && !s.awaited x.name none && !s.tileOwned x.name none

/-- The lines of memory that a poisoned line is written back to are poisoned in turn (R393). -/
def State.spreadPoison (s : State) (x : TileLine) (d : Desc) : State :=
  let lines := (d.segments x.name.row x.name.col).filterMap fun p => match s.translate x.ctx p.2 .write with
    | .ok pa => some (pa / 512)
    | .error _ => none
  if x.poisoned then { s with poisoned := lines ++ s.poisoned } else s

/-- The last-level cache drops a line, or writes it back (R173, R189, R191, R197, R342): in each slice one of a last use first.
What can no longer be reached is lost (log 69). -/
def State.evict (s : State) (n : TileName) : State :=
  match s.tileLine n with
  | none => s
  | some x =>
    let first := s.tiles.any fun y => y.lastUse && y.name.home == n.home && s.evictable y
    if ¬ s.evictable x ∨ first ∧ ¬ x.lastUse then s
    else if x.recomputable then s.setTile { x with state := .absent, words := [], lastUse := false }
    else match s.desc x.ctx n.tensor with
      | .ok d => (if x.dirty then (s.scatterTile x.ctx d n (lineBytes x.words)).spreadPoison x d else s).dropTile n
      | _ => s.dropTile n

end Sys2Proof.Machine
end

