-- ==== Sys2Proof/Machine/Copy.lean ====
section
/-! DEFINITION. The copy engine (R215 to R219) and the batches of copies and of matrix work (R154, R155, R220 to
R222). -/
namespace Sys2Proof.Machine

/-! Issue. -/

/-- A copy that joins the team's open batch (R220). -/
def State.addCopy (s : State) (kind : CopyKind) (dst src count : Nat) (targets : List Nat)
    (tile : Option (TileName × Desc) := none) : State :=
  let t := s.team
  let mk (bs : List Nat) : Copy :=
    { id := s.seq, kind := kind, at_ := t.pc, dst := dst, src := src, count := count, done := 0, targets := bs,
      tile := tile.map (·.1), desc := tile.map (·.2), batch := none, fault := none }
  let new := if count = 0 then [] else if kind = .multicast then targets.map fun b => mk [b] else [mk []]
  let t1 : Team := { t with copies := t.copies ++ new, copen := true }
  (s.setTeam (if kind = .tileToStash then t1.openRead (some s.seq) else t1)).bump

/-- The checks of cpy and cpym that the operands decide (R215, R216), then the copy. -/
def copyChecked (s : State) (dstStash srcStash : Bool) (a b n : Nat) (k : Res) : Res :=
  let limit := if dstStash || srcStash then s.stashSize else 65536
  let beyond (stash : Bool) (x : Nat) : Bool :=
    if stash then decide (s.stashSize < x + n) else decide (2 ^ 48 ≤ x ∨ 2 ^ 48 < x + n)
  if a % 4 ≠ 0 ∨ b % 4 ≠ 0 ∨ n % 4 ≠ 0 ∨ (dstStash ∧ 2 ^ 20 ≤ a) ∨ (srcStash ∧ 2 ^ 20 ≤ b) then
    .trap .align 0 (operandFault [(a, a % 4 != 0 || dstStash && decide (2 ^ 20 ≤ a)), (b, b % 4 != 0 || srcStash && decide (2 ^ 20 ≤ b)),
      (n, true)])
  else if limit < n ∨ beyond dstStash a ∨ beyond srcStash b ∨ (dstStash = srcStash ∧ rangesMeet a n b n) then
    .trap .prot 0 (operandFault [(a, beyond dstStash a), (b, beyond srcStash b), (a, true)])
  else k

/-- cpy (R215): x says that the destination is stash, y that the source is. -/
def execCpy (sw : Bool) (y x : Bool) (a b c : SReg) (s : State) : Out :=
  run s sw 1 { sr := [a, b, c] } fun s =>
    let t := s.team
    let dst := (t.getS a).toNat
    let src := (t.getS b).toNat
    let n := (t.getS c).toNat
    outsideRebrew s (copyChecked s x y dst src n (.ok (s.addCopy (.bytes x y) dst src n [])))

/-- The resident block of a rank in the issuing block's cluster group (R216, R265). -/
def State.groupBlock (s : State) (rank : Nat) : Option Nat :=
  (List.find? (fun e => e.2.launch == s.team.launch && e.2.index == s.block.index / 4 * 4 + rank
    && !e.2.retired && !e.2.saved) s.blocks).map (·.1)

/-- cpym (R216). -/
def execCpym (sw : Bool) (m : BitVec 4) (a b c : SReg) (s : State) : Out :=
  run s sw 1 { sr := [a, b, c] } fun s =>
    let t := s.team
    let dst := (t.getS a).toNat
    let src := (t.getS b).toNat
    let n := (t.getS c).toNat
    let ranks := (List.range 4).filter fun i => m.getLsbD i
    outsideRebrew s (copyChecked s true false dst src n (
      match ranks.mapM s.groupBlock with
      | some bs => if s.launch.clusters then .ok (s.addCopy .multicast dst src n bs) else .trap .prot 0 { addr := t.getS a }
      | none => .trap .prot 0 { addr := t.getS a }))

/-- The checks of cpyt that its operands decide, in the order of R204 (R217), then the copy. -/
def tileCopy (s : State) (a b c : SReg) (k : Nat → Desc → TileName → Res) : Res :=
  let t := s.team
  let off := (t.getS a).toNat
  let x := (t.getS b).toNat
  let rc := (t.getS c).toNat
  let n : TileName := ⟨x, rc / 65536, rc % 65536⟩
  if off % 128 ≠ 0 ∨ 2 ^ 20 ≤ off then .trap .align 0 { addr := t.getS a }
  else if 2 ^ 32 ≤ rc ∨ 2 ^ 20 ≤ x ∨ s.stashSize < off + 512 then .trap .prot 0 { addr := t.getS a }
  else onTile s n fun _ d => k off d n

/-- cpyt.ts (R217, R345). -/
def execCpytTs (sw : Bool) (a b c : SReg) (s : State) : Out :=
  run s sw 1 { sr := [a, b, c] } fun s =>
    tileCopy s a b c fun off d n =>
      if ¬ s.inWindows s.team n then .trap .prot 0 {}
      else .ok (s.addCopy .tileToStash off 0 512 [] (some (n, d)))

/-- cpyt.st (R217). -/
def execCpytSt (sw : Bool) (a b c : SReg) (s : State) : Out :=
  run s sw 1 { sr := [a, b, c] } fun s =>
    outsideRebrew s (tileCopy s a b c fun off d n =>
      if d.readonly ∨ d.compressed then .trap .prot 0 {}
      else if s.pinnedTensor n.tensor d.recomputable then .trap .rpin 0 {}
      else .ok (s.addCopy .stashToTile 0 off 512 [] (some (n, d))))

/-! Batches. -/

/-- Closed batches that are incomplete. -/
def Team.closedCopies (t : Team) : Nat := (t.copies.filterMap (·.batch)).eraseDups.length

/-- The oldest closed batch of copies that is incomplete. -/
def Team.oldestBatch (t : Team) : Option Nat :=
  (t.copies.filterMap (·.batch)).foldl (fun (m : Option Nat) b => some (m.elim b (min b))) none

/-- bcl.c (R220). -/
def execBclC (sw : Bool) (d : SReg) (s : State) : Out :=
  run s sw 1 { sw := [d] } fun s =>
    let t := s.team
    if 255 ≤ t.closedCopies ∧ t.copies.any (fun c => c.batch.isNone) then .moved (s.waitFor (.room (t.oldestBatch.getD 0)))
    else
      let t1 : Team := { t with
        copies := t.copies.map fun (c : Copy) => { c with batch := some (c.batch.getD t.cnext) },
        cnext := t.cnext + 1, copen := false }
      .ok (s.setTeam (t1.setS d (BitVec.ofNat 64 (t.cnext % 256))))

/-- bcl.m (R154). -/
def execBclM (sw : Bool) (d : SReg) (s : State) : Out :=
  run s sw 1 { sw := [d] } fun s =>
    let t := s.team
    let t1 : Team := { t with
      mqueue := t.mqueue.map fun (m : MItem) => { m with batch := some (m.batch.getD t.mnext) },
      mnext := t.mnext + 1, mopen := false }
    .ok (s.setTeam (t1.setS d (BitVec.ofNat 64 (t.mnext % 256))))

/-- The batch that s[a][7:0] names, counted from the team's first; one before it is negative (R221). -/
def batchNamed (next b : Nat) : Int := (next : Int) - 1 - (((next : Int) - 1 - (b % 256 : Nat)) % 256)

/-- A batch number is covered by a wait for batch n. -/
def inBatch (n : Int) (b : Option Nat) : Bool :=
  match b with | some x => decide ((x : Int) ≤ n) | none => false

/-- The copies that a wait for batch n covers. -/
def Team.coveredCopies (t : Team) (n : Int) : List Copy := t.copies.filter fun c => inBatch n c.batch

/-- The matrix items that a wait for batch n covers. -/
def Team.coveredItems (t : Team) (n : Int) : List MItem := t.mqueue.filter fun m => inBatch n m.batch

/-- Goes on with a wait whose timeout has begun, after a restore (R409), or begins it. -/
def State.beginWait (s : State) (w : Wait) (timeout n : Nat) (sw : Bool) : State :=
  let t := s.team
  s.setTeam { t with wait := w, timeout := timeout, afterWords := n, afterSw := sw }

/-- bwt.c (R221). A fault of a covered copy is raised in place of the wait's completion, as soon as it has been found (R219). -/
def execBwtC (sw : Bool) (a : SReg) (timeout : BitVec 32) (s : State) : Out :=
  run s sw 2 { sr := [a] } fun s =>
    let t := s.team
    let n := batchNamed t.cnext (t.getS a).toNat
    let cs := t.coveredCopies n
    match faultOf cs with
    | some (c, cause, d) => .moved (s.raiseCopy c cause d)
    | none => if cs.isEmpty then .ok s else .moved (s.beginWait (.batchC n (s.copyPrice t cs)) timeout.toNat 2 sw)

/-- bwt.m (R155, R221). -/
def execBwtM (sw : Bool) (a : SReg) (timeout : BitVec 32) (s : State) : Out :=
  run s sw 2 { sr := [a] } fun s =>
    let t := s.team
    let n := batchNamed t.mnext (t.getS a).toNat
    let ms := t.coveredItems n
    if ms.isEmpty then .ok s
    else .moved (s.beginWait (.batchM n (s.matrixPrice t ms)) timeout.toNat 2 sw)

/-- bqry.c (R222): the state of the batches at issue, pending. -/
def execBqryC (sw : Bool) (d : SReg) (s : State) : Out :=
  run s sw 1 { sw := [d] } fun s => .ok (s.addPend (.s d) (.scalar (s.team.batchWord false)))

/-- bqry.m (R222). -/
def execBqryM (sw : Bool) (d : SReg) (s : State) : Out :=
  run s sw 1 { sw := [d] } fun s => .ok (s.addPend (.s d) (.scalar (s.team.batchWord true)))

/-- BATCH_WAIT_TIMEOUT (R221, R275): WAIT, unless the batch has completed. The machine is blamed when the price of the
awaited work was within the timeout. -/
def execBatchWaitTimeout (team : Nat) (s : State) : Out :=
  let t := s.teamOf team
  let expire (price : Nat) (open_ : Bool) : State :=
    if t.waited < t.timeout ∨ ¬ open_ ∨ t.status ≠ TeamStatus.live then s
    else if price ≤ t.timeout then
      s.asTeam team fun s => s.takeTrap .wait 0 { party := .machine, record := some .englate }
    else s.asTeam team fun s => s.takeTrap .wait 0
  .next (match t.wait with
    | .batchC n price => expire price (!(t.coveredCopies n).isEmpty && (faultOf (t.coveredCopies n)).isNone)
    | .batchM n price => expire price (!(t.coveredItems n).isEmpty)
    | _ => s)

/-! The engine. -/

/-- Puts a copy's new record in the place of its old one. -/
def State.setCopy (s : State) (team : Nat) (c : Copy) : State :=
  let t := s.teamOf team
  s.setTeamOf team { t with copies := t.copies.map fun q => if q.id = c.id ∧ q.targets = c.targets then c else q }

/-- The copy stops with a fault (R219). It keeps the lines that it has taken only where the privileged handler may resume it
(R187). -/
def State.stopCopy (s : State) (team : Nat) (c : Copy) (cause : Cause) (d : Detail) : State :=
  s.setCopy team { c with fault := some (cause, d), brewing := false, owned := if d.translation then c.owned else c.done }

/-- The copy has written a piece; with its last it is complete and goes (R218). -/
def State.copied (s : State) (team : Nat) (c : Copy) (len : Nat) : State :=
  if c.done + len = c.count then
    let t := s.teamOf team
    s.setTeamOf team { t with copies := t.copies.filter fun q => !(q.id == c.id && q.targets == c.targets) }
  else s.setCopy team { c with done := c.done + len, owned := max c.owned (c.done + len) }

/-- The faults that a piece of a copy meets in the pages it touches (R219): the source's, then the destination's. Mapped stash keeps
the translations of its smap (R211). -/
def State.pieceFault (s : State) (t : Team) (c : Copy) (off len : Nat) : Option FillFault :=
  let ctx := (s.launchOf t.launch).ctx
  let b := s.blockOf (match c.kind, c.targets with | .multicast, x :: _ => x | _, _ => t.block)
  let bytes (base : Nat) : List Nat := (List.range len).map (base + off + ·)
  let src := match c.kind with
    | .bytes _ false | .multicast => bytes c.src
    | _ => []
  let dst := match c.kind with
    | .bytes false _ => bytes c.dst
    | _ => []
  let mapped := match c.kind with
    | .bytes true _ | .multicast | .tileToStash => bytes c.dst
    | _ => []
  let vas := dst ++ mapped.filterMap b.mappedVa
  let ro := if vas.isEmpty then [] else s.readonlyRanges ctx
  let missing (need : Need) (xs : List Nat) (want : Cause) : Option FillFault :=
    (xs.find? fun a => s.accessFaultOn (some t.pipe) ctx a need == some want).map fun a =>
      (want, { addr := BitVec.ofNat 64 a, walk := some (a, need.mask) })
  let plain (want : Cause) (xs : List Nat) (p : Nat → Bool) : Option FillFault :=
    (xs.find? p).map fun a => (want, { addr := BitVec.ofNat 64 a })
  (missing .read src .page).or <| (missing .write dst .page).or <| (missing .read src .prot).or <|
    (missing .write dst .prot).or <| (plain .prot mapped fun o => !b.mayWrite o).or <| (plain .prot vas (onPages ro)).or <|
      (plain .rpin dst fun a => match s.translateOn (some t.pipe) ctx a .write with | .ok pa => s.pinnedPa pa | .error _ => false).or <|
      plain .rpin mapped fun o => match b.place o with | .lin pa => s.pinnedPa pa | _ => false

/-- The words of a piece's destination and of its source. -/
def State.piecePlaces (s : State) (team : Nat) (c : Copy) (off len : Nat) : List Place × List Place :=
  let t := s.teamOf team
  let words := (List.range (len / 4)).map fun i => off + 4 * i
  (words.filterMap (s.dstPlace t c), words.filterMap (s.srcPlace t c))

/-- An own earlier store that a piece's words, or a copy's tile, wait for (R188). -/
def State.beforePiece (_s : State) (team : Nat) (c : Copy) (ps : List Place) (w : Store) : Bool :=
  w.team == team && decide (w.id < c.id) && (ps.any (w.what.meetsBytes · 4) || c.tile.isSome && w.what.tile? == c.tile)

/-- A piece waits (R169, R187, R188, R241): for an earlier release or acquire, load, atomic, store or engine work of the team that
meets its bytes, or for a line that another engine owns. -/
def State.pieceBusy (s : State) (team : Nat) (c : Copy) (off len : Nat) : Bool :=
  let t := s.teamOf team
  let (dsts, srcs) := s.piecePlaces team c off len
  let stash (p : Place) : Bool := match p with | .stash _ => true | _ => false
  let here := c.kind != .multicast || c.targets == [t.block]
  let lines (ps : List Place) : List Nat := (ps.filterMap Place.line?).eraseDups
  let reads (st : Bool) (at_ : Nat) : Bool := st && t.stashBusy c.id (at_ + off) len false
  !s.ordered team c.id
    || (t.pend.any fun p => decide (p.id < c.id) && p.src.unfixed.any fun x => dsts.any fun q => x.2.meets p.src.bytes q 4)
    || (dsts ++ srcs).any (fun p => t.atomMeets c.id p 4)
    || s.stores.any (s.beforePiece team c ((if here then dsts else dsts.filter fun p => !stash p) ++ srcs))
    || (match c.kind with
        | .bytes d y => d && t.stashBusy c.id (c.dst + off) len true || reads y c.src
        | .multicast => here && t.stashBusy c.id (c.dst + off) len true
        | .tileToStash => t.stashBusy c.id (c.dst + off) len true
        | .stashToTile => reads true c.src)
    || ((lines dsts).any fun l => s.lineOwned l team c.id || s.sourceHeld l team c.id)
    || (lines srcs).any fun l => s.lineOwned l team c.id

/-- The team's own earlier stores to what a piece touches are ordered, as its engine's recall has it (R188). -/
def State.recallPiece (s : State) (team : Nat) (c : Copy) (off len : Nat) : State :=
  let (dsts, srcs) := s.piecePlaces team c off len
  s.performAll (s.stores.filter (s.beforePiece team c (dsts ++ srcs)))

/-- A copy's source is stash. -/
def CopyKind.fromStash : CopyKind → Bool
  | .bytes _ y => y
  | .stashToTile => true
  | _ => false

/-- A byte of a copy's source, as its home slice has it, or the stash or its mapped unit (R188, R215, R244). -/
def State.copyByte (s : State) (team : Nat) (kind : CopyKind) (p : Place) : Byte :=
  match p with
  | .lin pa => if kind.fromStash then s.placeByte team p 0 else s.mem.read pa
  | p => s.placeByte team p 0

/-- The bytes of a piece of a copy of bytes. -/
def State.pieceData (s : State) (team : Nat) (c : Copy) (off len : Nat) : List Byte :=
  let t := s.teamOf team
  (List.range len).map fun i => match s.srcPlace t c (off + i) with
    | some p => s.copyByte team c.kind p
    | none => 0

/-- A piece of a copy reads a poisoned line (R393). -/
def State.piecePoisoned (s : State) (t : Team) (c : Copy) (off len : Nat) : Bool :=
  (List.range len).any fun i => match s.srcPlace t c (off + i) with | some (.lin pa) => s.poisonedAt pa | _ => false

/-- One destination line of a copy of bytes. -/
def State.copyPiece (s : State) (team : Nat) (c : Copy) (off len : Nat) : State :=
  let t := s.teamOf team
  match s.pieceFault t c off len with
  | some (cause, d) => s.stopCopy team c cause d
  | none =>
    if s.pieceBusy team c off len then s
    else if s.piecePoisoned t c off len then s.mchkTeam team c.at_
    else
      let block := match c.kind, c.targets with | .multicast, x :: _ => x | _, _ => t.block
      let data := s.pieceData team c off len
      match s.dstPlace t c off with
      | some p => (s.writeEngine block p data).copied team c len
      | none => s

/-- One destination line of a cpyt.ts: the tile is filled or brewed first when its line is missing (R217, R342). -/
def State.copyFromTile (s : State) (team : Nat) (c : Copy) (n : TileName) (off len : Nat) : State :=
  let t := s.teamOf team
  let ctx := (s.launchOf t.launch).ctx
  match ((c.desc.bind fun d => s.tileFault ctx d n .read).or (s.pieceFault t c off len)) with
  | some (cause, d) => s.stopCopy team c cause d
  | none =>
    if s.tileOwned n (some (team, c.id)) ∨ s.pieceBusy team c off len then s
    else if s.poisonedTile n then s.mchkTeam team c.at_
    else match s.tileLine n with
      | some x =>
        let data := ((lineBytes x.words).drop off).take len
        (match s.dstPlace t c off with
          | some p => (s.writeEngine t.block p data).copied team { c with brewing := false } len
          | none => s)
      | none =>
        match s.fillBy team n c.desc with
        | .done s1 => s1
        | .brews s1 =>
          let s2 := s1.setCopy team { c with brewing := true }
          if c.brewing then s2 else s2.setTeamOf team ((s2.teamOf team).nest (some c.id))
        | .fault s1 cause d => s1.stopCopy team c cause d
        | .unmapped => s.endWith t.launch .host .unmap (some team) c.at_

/-- The tile that a cpyt.st writes (R187, R217). -/
def State.copyToTile (s : State) (team : Nat) (c : Copy) (n : TileName) : State :=
  let t := s.teamOf team
  let ctx := (s.launchOf t.launch).ctx
  match c.desc with
  | some d =>
    (match (s.tileFault ctx d n .write).or (s.pieceFault t c 0 512) with
      | some (cause, det) => s.stopCopy team c cause det
      | none =>
        let earlier := t.tileSource n c.id || t.pend.any fun p => p.awaitsTile n && decide (p.id < c.id)
        if earlier ∨ s.tileHeld n team ∨ s.tileOwned n (some (team, c.id)) ∨ s.pieceBusy team c 0 512 then s
        else if s.piecePoisoned t c 0 512 then s.mchkTeam team c.at_
        else match s.install ctx d n (lineWords (s.pieceData team c 0 512)) with
          | some s1 => s1.copied team c 512
          | none => s.endWith t.launch .host .unmap (some team) c.at_)
  | none => s

/-- The rank of a cpym's target in its group; 0 for every other copy. -/
def State.copyRank (s : State) (c : Copy) : Nat :=
  match c.targets with | b :: _ => (s.blockOf b).index % 4 | [] => 0

/-- The copy of a team with a number n ÷ 4, for a cpym the one of the target of rank n mod 4. -/
def State.copyOf? (s : State) (team n : Nat) : Option Copy :=
  (s.teamOf team).copies.find? fun c => c.id = n / 4 ∧ s.copyRank c = n % 4

/-- COPY_LINE (R187, R188, R218, R219): the engine writes the next destination line of a copy, and takes it where it has not. -/
def execCopyLine (team n : Nat) (s : State) : Out :=
  .next (match s.copyOf? team n with
    | none => s
    | some c =>
      if c.fault.isSome then s
      else match c.left with
        | [] => s
        | (off, len) :: _ =>
          let s1 := s.recallPiece team c off (if c.kind = .stashToTile then 512 else len)
          match c.kind, c.tile with
          | .tileToStash, some x => s1.copyFromTile team c x off len
          | .stashToTile, some x => s1.copyToTile team c x
          | _, _ => s1.copyPiece team c off len)

/-- The copy engine takes the next destination line of a copy, in ascending order, unless another engine owns it, or own earlier
work has still to write it (R169, R187). -/
def State.takeLine (s : State) (team n : Nat) : State :=
  let t := s.teamOf team
  match s.copyOf? team n with
  | none => s
  | some c =>
    if c.fault.isSome then s
    else match c.kind, c.tile with
      | .stashToTile, some x => if s.tileOwned x (some (team, c.id)) then s else s.setCopy team { c with owned := 512 }
      | _, _ =>
        match c.from_ (max c.owned c.done) with
        | [] => s
        | (off, len) :: _ =>
          if (s.dstLine t c off).any fun l => s.lineOwned l team c.id then s else s.setCopy team { c with owned := off + len }

end Sys2Proof.Machine
end

