-- ==== Sys2Proof/Machine/Children.lean ====
section
/-! DEFINITION. Child grids (R268, R269, R299, R300, R327, R333): launch, the acceptance of the child, cwait and its
timeout. -/
namespace Sys2Proof.Machine

/-! launch. -/

/-- The request of a child launch record (R299, R327); none where the record is not valid. The child runs at its parent's
class, share and system-scope allowance. -/
def State.childRequest (s : State) (b : List Byte) : Option Request :=
  let l := s.launch
  let kernel := fieldLE b 0 1
  let flags := fieldLE b 1 1
  let nker := match s.imageOf l.ctx l.image with | some m => m.kernels.length | none => 0
  if nker ≤ kernel ∨ 4 ≤ flags ∨ fieldLE b 2 6 ≠ 0 ∨ fieldLE b 14 2 ≠ 0 ∨ fieldLE b 24 40 ≠ 0 then none
  else some { ctx := l.ctx, image := l.image, kernel := kernel, grid := (fieldLE b 8 2, fieldLE b 10 2, fieldLE b 12 2),
              args := BitVec.ofNat 64 (fieldLE b 16 8), cls := if l.yieldClass then 1 else 0,
              lflags := BitVec.ofNat 8 flags, ishare := l.fig.ishare, life := 0, peerNs := l.peerNs, qrec := 0, compl := 0,
              ring := none, parent := some s.team.launch, depth := l.depth + 1 }

/-- The child's quote, when the record, the depth, the team's bound and the child budget allow it (R299, checks 3 to 5). -/
def State.childQuote (s : State) (b : List Byte) : Option Launch :=
  let k := s.kernel
  match s.childRequest b with
  | none => none
  | some q =>
    if 10 ≤ s.launch.depth ∨ k.launch ≤ s.team.launches then none
    else match s.compute q with
      | .ok c => if c.fig.tq ≤ k.childNs ∧ c.fig.eq ≤ k.childNj then some c else none
      | .error _ => none

/-- The child is reserved within its parent's reservation, and the team holds until it has been accepted (R299): launch is a
release at dev scope toward the child (R268). -/
def State.reserveChild (s : State) (c : Launch) (d : SReg) (sw : Bool) : State :=
  let id := s.nextQid
  let l := s.launch
  let s1 := ({ s with nextQid := id + 1 } : State).setLaunchOf id c
  let s2 := s1.setLaunch { l with children := l.children ++ [id] }
  let s3 := s2.setTeam { s2.team with launches := s2.team.launches + 1 }
  (s3.beginRelease 4).hold (.launching id d s3.seq) 0 1 sw

/-- Every access of the issuing team has performed at dev, and no release or acquire of it is open (R299). -/
def State.earlierDone (s : State) : Bool :=
  let t := s.team
  s.blkDone s.cur s.seq && !(s.stores.any fun w => w.team == s.cur) && s.ordered s.cur s.seq && t.acqs.isEmpty && t.rels.isEmpty

/-- launch (R299). The record is read after the team's earlier accesses, and once no engine owns its line (R187). -/
def execLaunch (sw : Bool) (d a : SReg) (s : State) : Out :=
  run s sw 1 { sr := [a], sw := [d] } fun s => notInRebrew s (
    let x := s.team.getS a
    let va := x.toNat
    if va % 64 ≠ 0 then .trap .align 0 { addr := x }
    else if 2 ^ 48 ≤ va then .trap .prot 0 { addr := x }
    else match s.accessFault s.ctx va .read with
      | some c => .trap c 0 { addr := x, walk := some (va, 1) }
      | none =>
        let pa := s.lanePa .load x
        if ¬ s.earlierDone ∨ s.lineOwned (pa / 512) s.cur s.seq then .moved (s.waitFor .earlier)
        else if s.poisonedAt pa then .moved (s.mchkTeam s.cur s.team.pc)
        else match s.childQuote ((List.range 64).map fun i => s.placeByte s.cur (.lin pa) i) with
          | none => .trap .launch 0 {}
          | some c => .moved (s.reserveChild c d sw))

/-- CHILD_LAUNCH_DONE (R299): the child is accepted once the release toward it has performed, and its identifier is
written. -/
def execChildLaunchDone (team : Nat) (s : State) : Out :=
  let t := s.teamOf team
  .next (match t.wait with
    | .launching child d rel =>
      if s.relNumberDone team rel ∧ (s.launchOf child).phase = .open then
        let s1 := (s.dropRelease team rel).commit child
        let u := s1.teamOf team
        s1.setTeamOf team ((u.setS d (BitVec.ofNat 64 child)).endHold s1.seq)
      else s
    | _ => s)

/-! cwait. -/

/-- cwait (R300): the child's completion word, or the wait for it. -/
def execCwait (sw : Bool) (d a : SReg) (timeout : BitVec 32) (s : State) : Out :=
  run s sw 2 { sr := [a], sw := [d] } fun s => notInRebrew s (
    let id := (s.team.getS a).toNat
    if ¬ s.launch.children.contains id then .trap .launch 0 {}
    else match (s.launchOf id).completion with
      | some w => .ok (s.setTeam (s.team.setS d w))
      | none => .moved (s.beginWait (.child id d) timeout.toNat 2 sw))

/-- Who is blamed for the expiry of a cwait (R333): the party of the child's record; the caller while the child is within its
quote; the machine when it has overrun without a record. -/
def State.cwaitParty (s : State) (child : Nat) : Party :=
  let c := s.launchOf child
  if ¬ c.breaches.isEmpty then c.decidingParty
  else if s.ns - c.accepted ≤ c.fig.tq + c.handlerNs then .caller else .machine

/-- CWAIT_TIMEOUT (R275, R300): WAIT, unless the child has completed. -/
def execCwaitTimeout (team : Nat) (s : State) : Out :=
  let t := s.teamOf team
  .next (match t.wait with
    | .child id _ =>
      if t.waited < t.timeout ∨ (s.launchOf id).completion.isSome ∨ t.status ≠ TeamStatus.live then s
      else s.asTeam team fun s => s.takeTrap .wait 0 { party := s.cwaitParty id }
    | _ => s)

end Sys2Proof.Machine
end

