-- ==== Sys2Proof/Machine/Schedule.lean ====
section
/-! DEFINITION. The scheduler's placement of blocks (R41, R56, R137, R256, R263 to R265), the retirement of teams and blocks
(R186, R280), and the completion of a launch (R269, R281, R328, R332). -/
namespace Sys2Proof.Machine

/-! Placement. -/

/-- A number put into an ascending list. -/
def insertNat (x : Nat) : List Nat → List Nat
  | [] => [x]
  | y :: ys => if x ≤ y then x :: y :: ys else y :: insertNat x ys

/-- First slots for so many teams of n slots on a core, each chosen beside those before it, with room left for the others
(R260). -/
def State.pickSlots (s : State) (core n : Nat) (rest : List Nat) : Nat → Option (List Nat)
  | 0 => some []
  | k + 1 => match s.pickSlot core n (sortSizes (List.replicate k n ++ rest)) with
    | none => none
    | some f =>
      let u : Team := { Team.vacant with status := .live, core := core, slot := f, tsize := 64 * n }
      ((s.setTeamOf s.newTeam u).pickSlots core n rest k).map (insertNat f)

/-- The coordinates of a block in a grid, x first (R264). -/
def coordOf (g : Nat × Nat × Nat) (i : Nat) : Nat × Nat × Nat := (i % g.1, i / g.1 % g.2.1, i / (g.1 * g.2.1))

/-- A share of a launch's main piece that no placed or saved block has. -/
def State.freeShare (s : State) (id : Nat) : Option Nat :=
  let l := s.launchOf id
  let bytes := (s.kernelOf l).shareBytes (l.lflags.getLsbD 2)
  let base := (l.pieces.headD ⟨0, 0⟩).va
  ((List.range (l.coreList.length * l.perCore)).map fun i => base + i * bytes).find? fun va =>
    !s.blocks.any fun e => e.2.launch == id && !e.2.retired && e.2.imageVa == va

/-- The scalars of a team at dispatch (R41): the argument block, the data copy and the private size. -/
def startScalars (args : DWord) (dataVa privBytes : Nat) : Vector DWord 64 :=
  Vector.ofFn fun i => if i.val = 1 then args else if i.val = 2 then BitVec.ofNat 64 dataVa
    else if i.val = 62 then BitVec.ofNat 64 privBytes else 0

/-- The address of a launch's first clause header. -/
def State.entryVa (s : State) (l : Launch) : Nat :=
  match s.imageOf l.ctx l.image with | some m => m.codeVa + 4 * (s.kernelOf l).entry | none => 0

/-- A team as its grid places it (R41, R137, R263). -/
def State.dispatched (s : State) (id blk core slot index imageVa : Nat) : Team :=
  let l := s.launchOf id
  let k := s.kernelOf l
  ({ Team.vacant with
      status := .live, launch := id, block := blk, core := core, slot := slot, tsize := k.tsize, index := index,
      regs := { Regs.begin k.tsize k.tiles with s := startScalars l.args l.dataVa k.privBytes },
      pc := BitVec.ofNat 48 (s.entryVa l), held := 1, ntile := k.tiles, stamp := s.seq,
      privBytes := k.privBytes } : Team).withAreas (imageVa + k.teamOffset (l.lflags.getLsbD 2) index)

/-- Pushes the code lines that a kernel's PUSH names into a core (R56). -/
def State.pushCode (s : State) (id core : Nat) : State :=
  let l := s.launchOf id
  match s.imageOf l.ctx l.image with
  | none => s
  | some m =>
    let base := s.entryVa l / 128 * 128
    ((List.range (s.kernelOf l).push).map fun i => base + 128 * i).foldl (fun (s : State) va =>
      if va < m.codeVa + 4 * m.codeWords then s.fillCode core none l.ctx va else s) (s.refreshLevel (core / 48))

/-- The next block of a grid on a core (R263, R264): none where the core has no room for it now. -/
def State.placeOne (s : State) (id core : Nat) : Option State :=
  let l := s.launchOf id
  let k := s.kernelOf l
  match s.pickSlots core (k.tsize / 64) (s.unplaced core (some id)) k.tpb, s.freeShare id with
  | some slots, some va =>
    let blk := s.newBlock
    let first := s.newTeam
    let b : Block :=
      { Block.none with launch := id, index := l.nextBlock, core := core, coord := coordOf l.grid l.nextBlock,
                        teams := (List.range slots.length).map (first + ·), stashKiB := k.stashKiB, imageVa := va }
    let s1 := slots.zipIdx.foldl (fun (s1 : State) p =>
      s1.setTeamOf (first + p.2) (s.dispatched id blk core p.1 p.2 va)) s
    let s2 : State := { s1 with blocks := s1.blocks.set blk b, seq := s1.seq + 1 }
    some ((s2.setLaunchOf id { l with nextBlock := l.nextBlock + 1 }).pushCode id core)
  | _, _ => none

/-- A core of a launch offers one block more everything that it needs (R264), beside what its rebrew server holds. A team that begins
there must see what the releases of its cluster have ordered (R241). -/
def State.offers (s : State) (id core : Nat) : Bool :=
  let l := s.launchOf id
  let server := if l.priced.isEmpty then ⟨0, 0, 0, 0⟩ else s.serverNeeds l.ctx l.priced
  (s.roomIn id core).free.covers ((s.kernelOf l).needs.plus server) && decide (s.placedOn id core < l.perCore)
    && !s.fenced.getLsbD core && !s.unseen core

/-- A launch's cores, in the order in which the scheduler tries them for the n-th choice (log 5). -/
def State.tryCores (s : State) (id : Nat) : List Nat :=
  let l := s.launchOf id
  ((Config.corePreference s.fresh ++ l.coreList).filter l.coreList.contains).eraseDups

/-- Places one block on each of some cores, in order. -/
def State.placeOn (s : State) (id : Nat) (cores : List Nat) : Option State := cores.foldlM (fun s c => s.placeOne id c) s

/-- The cores of the next placement: one core, or those of a cluster by rank (R265). -/
def State.nextCores (s : State) (id : Nat) : Option (List Nat) :=
  let l := s.launchOf id
  let n := if l.clusters then min 4 (l.gridBlocks - l.nextBlock) else 1
  let unit (c : Nat) : List Nat := if l.clusters then (List.range n).map fun i => c / 4 * 4 + i else [c]
  ((s.tryCores id).map unit).find? fun cs => cs.all fun c => l.coreList.contains c && s.offers id c

/-- PLACE_BLOCK (R256, R263 to R265): the next block of the grid, or the next cluster group, is placed; its teams are ready
from then on. -/
def execPlaceBlock (id : Nat) (s : State) : Out :=
  let l := s.launchOf id
  .next (if l.phase ≠ .live ∨ l.ending ≠ none ∨ l.saving ∨ l.withdrawn ∨ l.gridBlocks ≤ l.nextBlock then s
    else
      let s1 : State := { s with fresh := s.fresh + 1 }
      match s.nextCores id with
      | none => s1
      | some cs => (s1.placeOn id cs).getD s1)

/-! Retirement. -/

/-- A team has nothing left to do (R280). Its recorded arrivals come first, since a participant that retires leaves the
participant set. -/
def Team.finished (t : Team) : Bool :=
  decide (t.status = .live) && t.k0 == 0 && t.mqueue.isEmpty && t.copies.isEmpty && t.atoms.isEmpty
    && t.pend.all (·.landed) && t.privEntry.isNone && !t.inRebrew && t.rels.all fun r => r.arrive.isNone

/-- A participant has left (R273): it is no longer counted as arrived, and the flip test follows. -/
def State.leaveBarrier (s : State) (team level n : Nat) : State :=
  let b := s.barrier team level n
  (s.setBarrier team level n { b with arrived := b.arrived.filter (· != team) }).flipAfter team level n

/-- The barriers that a team dispatched by its grid takes part in. -/
def allBarriers : List (Nat × Nat) :=
  (List.range 8).map (fun n => (0, n)) ++ (List.range 4).map (fun n => (1, n)) ++ (List.range 2).map fun n => (2, n)

/-- A team retires: it frees its slots, lines and tiles and drops its private memory (R186, R280). -/
def State.retireTeam (s : State) (team : Nat) : State :=
  let t := s.teamOf team
  let s1 := s.setTeamOf team { t with status := .retired, wait := .none, pend := [], stack := [], spilled := [],
                                      privMem := [], latch := none, due := none, timerArmed := false,
                                      timerDue := false }
  if t.dispatched then allBarriers.foldl (fun (s : State) b => s.leaveBarrier team b.1 b.2) s1 else s1

/-- Stores that dirty units of a block's mapped ranges hold (R183). -/
def State.mappedStores (s : State) (b : Block) : List Store :=
  s.stores.filter fun w => w.core == b.core && b.maps.any fun m => m.pages.any fun p => w.what.onPage p.frame

/-- A block retires once all its teams have and its mapped ranges have written back (R183, R280). -/
def State.retireBlock (s : State) (blk : Nat) : State :=
  let b := s.blockOf blk
  if b.retired ∨ ¬ b.teams.all fun u => (s.teamOf u).status = TeamStatus.retired then s
  else
    let s1 := s.performAll (s.mappedStores b)
    if (s1.mappedStores b).isEmpty then
      let l := s1.launchOf b.launch
      let s2 := ({ s1 with blocks := s1.blocks.set blk { b with retired := true, stash := [], maps := [] } } : State).setLaunchOf b.launch
        { l with retiredBlocks := l.retiredBlocks + 1 }
      s2.liftMaps l.ctx b.maps
    else s1

/-- TEAM_RETIRE (R186, R280). For a team that has retired it takes up again the retirement of its block. -/
def execTeamRetire (team : Nat) (s : State) : Out :=
  let t := s.teamOf team
  .next (if t.finished then (s.retireTeam team).retireBlock t.block
    else if t.status = .retired then s.retireBlock t.block else s)

/-! Completion. -/

/-- The launch's records hold one of a cause. -/
def Launch.has (l : Launch) (c : Cause) : Bool := l.breaches.any fun b => b.cause == c

/-- The time of the launch beyond T_q and the handlers' (R306, R385). -/
def State.isLate (s : State) (l : Launch) : Bool := decide (l.fig.tq + l.handlerNs < s.ns - l.accepted)

/-- The launch is over its energy bound, extended by He (R306, R385, R411), in tenths of a pJ (log 43). -/
def State.isOver (s : State) (l : Launch) : Bool :=
  decide (10000 * l.fig.eq + l.handlerShare < s.energyOf l)

/-- The party of the first child that has records (R327). -/
def State.childParty (s : State) (l : Launch) : Option Party :=
  ((l.children.map s.launchOf).find? fun c => !c.breaches.isEmpty).map Launch.decidingParty

/-- Who is at fault for a launch that misses a bound (R327, R332). -/
def State.overrunParty (s : State) (l : Launch) : Party :=
  if l.hostDelay || l.has .forcepre then .host
  else if l.peerLate then .peer
  else if l.unpricedAccess then .caller
  else (s.childParty l).getD .machine

/-- The cause of the record of a missed time (R331). -/
def State.lateCause (s : State) (l : Launch) (p : Party) : Cause :=
  if p ≠ .machine then .late else if l.joined then .englate else if s.sys.plan.toNat ≠ l.fig.plan then .margin else .late

/-- The records that a completion writes: THERMAL, OVERPRE, and one for a missed bound whose party has none yet (R323, R326,
R331, R332); a launch that is both late and over its energy gets the first only (log 43). -/
def State.closeRecords (s : State) (id : Nat) : State :=
  let l := s.launchOf id
  let put (s : State) (b : Bool) (p : Party) (c : Cause) (d : Detail := {}) : State := if b then s.breach id p c none 0 d else s
  let late := s.isLate l
  let s1 := s.thermalRecord id
  let s2 := put s1 (l.yieldClass && decide (l.yieldLeft < l.switchedOut) && late) .machine .overpre
  let p := s2.overrunParty l
  let none_ := !(s2.launchOf id).breaches.any fun b => b.party == p
  let d : Detail := { unpriced := p == .caller && l.unpricedAccess }
  let s3 := put s2 (late && none_) p (s.lateCause l p) d
  put s3 (!late && s.isOver l && none_) p .overnrg d

/-- Completion (R281, R328): the launch's writes perform, its records are written, then its completion word. -/
def State.complete (s : State) (id : Nat) : State :=
  let (s1, reached) := s.drainStores id
  let s2 := s1.closeRecords id
  let l := s2.launchOf id
  if ¬ reached then s1.endWith id .host .unmap
  else if l.ending ≠ none then s2.endWith id .host .unmap
  else
    let bound := s1.isLate (s1.launchOf id) || s1.isOver (s1.launchOf id)
    if bound || l.has .thermal || l.has .overpre || l.has .forcepre then
      s2.finishLaunch id 1 (decidingIndex l.breaches l.statusParty)
    else s2.finishLaunch id 0 0

/-- A store of the launch that a chain of another launch holds (R342) keeps the launch from completing: its writes come first. -/
def State.heldBack (s : State) (id : Nat) : Bool := s.stores.any fun w => w.launch == id && s.chainHolds id w

/-- LAUNCH_COMPLETE (R281). -/
def execLaunchComplete (id : Nat) (s : State) : Out :=
  .next (if s.allRetired id && !s.heldBack id then s.complete id else s)

end Sys2Proof.Machine
end

