-- ==== Sys2Proof/Machine/Agents.lean ====
section
/-! DEFINITION. What other agents do for a team: the writing of its results, the ordering of its stores, the reports that its
releases wait for (R43, R44, R236, R242, R243), the privileged handler with the emergency block (R271, R287, R386), the limit
of a user-handler run (R383, R384), an illegal word (R58), and the arrival of code (R401). -/
namespace Sys2Proof.Machine

/-! Results and stores. -/

/-- The team's park is over once every result that it covers has been written (R44): the results are no longer pending
(R43). -/
def State.endPark (s : State) (team : Nat) : State :=
  let t := s.teamOf team
  match t.wait with
  | .park upto =>
    if t.pend.all fun p => decide (upto ≤ p.id) || p.landed then
      s.setTeamOf team { t.awaitWhere (fun p => decide (p.id < upto)) with wait := .none, stamp := s.seq }
    else s
  | .landing upto =>
    if t.pend.all fun p => decide (upto ≤ p.id) || p.landed then s.setTeamOf team { t with wait := .none, stamp := s.seq } else s
  | _ => s

/-- RESULT_WRITE (R43): the n-th result of a team is written, once its value is known; a park that waited for it ends. -/
def execResultWrite (team n : Nat) (s : State) : Out := .next ((s.land team n).endPark team)

/-- STORE_PERFORM (R236): the core accepts the n-th store, if it has not, and its home slice orders it. -/
def execStorePerform (n : Nat) (s : State) : Out := .next (s.tryPerform n)

/-! Releases. -/

/-- A base die has gathered the markers of a team's releases (R242): it reports for each whose accesses homed on it have been
ordered. -/
def execFlushMarkerReport (team die : Nat) (s : State) : Out :=
  let t := s.teamOf team
  let report (r : Release) : Release :=
    if s.dieDone team r.id die then { r with dies := r.dies.filter (· != die) } else r
  .next (s.setTeamOf team { t with rels := t.rels.map report })

/-- PEER_REPORT (R243): a peer's gathered report has arrived for the team's releases. -/
def execPeerReport (team peer : Nat) (s : State) : Out :=
  let t := s.teamOf team
  .next (s.setTeamOf team { t with rels := t.rels.map fun (r : Release) => { r with peers := r.peers.filter (· != peer) } })

/-- The ages of the releases that wait for a peer. -/
def Team.peerAges (t : Team) (peer : Nat) : List Nat := (t.rels.filter fun r => r.peers.contains peer).map (·.age)

/-- PEERLATE (R243, R331): a report is late beyond the launch's allowance. One record is written for a launch. -/
def execPeerlate (team peer : Nat) (s : State) : Out :=
  let t := s.teamOf team
  let l := s.launchOf t.launch
  .next (if l.phase = .live ∧ l.peerLate = false ∧ (t.peerAges peer).any (l.peerNs < ·) then
    let s1 := s.breach t.launch .peer .peerlate (some team) t.pc {}
    s1.setLaunchOf t.launch { s1.launchOf t.launch with peerLate := true }
  else s)

/-- PEERFAIL (R331, R395): a peer has returned no report within 1 s, or has answered with FAILED, which it may do at any time
before. -/
def execPeerfail (team peer : Nat) (s : State) : Out :=
  let t := s.teamOf team
  .next (if (s.launchOf t.launch).phase = .live ∧ t.peerAges peer ≠ [] then
    s.endWith t.launch .peer .peerfail (some team) t.pc
  else s)

/-! The limit of a handler run. -/

/-- The team stands at the instruction after the 256th of its handler run (R383). -/
def Team.overHandler (t : Team) : Bool :=
  t.inHandler && decide (256 ≤ t.hcount) && decide (t.wait = .none ∧ t.status = TeamStatus.live)

/-- The run has had its 256 instructions (R383, R384): a terminal run ends the grid; in a resumable one the next instruction
raises TRIP in place of issuing. -/
def State.endRun (s : State) : State :=
  let t := s.team
  match t.entries.find? fun e => e.kind == .trap with
  | none => s
  | some e =>
    if e.term then s.endTerminal e else s.takeTrap .trip 0

/-- USER_HANDLER_LIMIT (R383, R384). -/
def execUserHandlerLimit (team : Nat) (s : State) : Out :=
  .next (if (s.teamOf team).overHandler then s.asTeam team State.endRun else s)

/-! The privileged handler. -/

/-- The handler has returned: the emergency block goes back (R271), and the privileged entry is gone. -/
def State.leavePriv (s : State) : State :=
  let t := s.team
  let s1 : State := if s.emergency.find? t.core = some s.cur then { s with emergency := s.emergency.erase t.core } else s
  s1.setTeam { t with privEntry := none, wait := .none, stamp := s.seq }

/-- The walk of the tables allows the accesses that the trap asked for (R365, R386). -/
def State.nowAllowed (s : State) (va : Nat) (mask : BitVec 3) : Bool :=
  match s.walk s.ctx va with
  | .ok e => decide (va < 2 ^ 48) && e.perm &&& mask == mask && !s.inImage s.ctx va
  | .error _ => false

/-- The handler finds the access allowed (R386): the word issues again with exec = MASK and k0, or the copy goes on at the
line where it stopped (R219). -/
def State.resume (s : State) (e : PrivEntry) (va : Nat) : State :=
  let t := s.team
  let t1 : Team := t.setExec (e.mask &&& t.k0)
  let again (c : Copy) : Copy := if e.detail.copy = some c.id then { c with fault := none } else c
  (s.setTeam { t1 with copies := t1.copies.map again }).forgetVa s.ctx va

/-- Forwarding (R386). A copy whose fault is forwarded is abandoned (R219). -/
def State.forward (s0 : State) (e : PrivEntry) : State :=
  let t := s0.team
  let s := if e.detail.copy.isSome then s0.setTeam { t with copies := t.copies.filter fun c => some c.id != e.detail.copy } else s0
  if e.cause = .rstack ∧ s.team.rebrew.isNone then s.endFull e else s.deliver e.cause e.lanes e.detail e.at_ e.rpc true

/-- The 320-byte entries as the spill area holds them from an index on, oldest first; none where one cannot be written. -/
def State.writeSpilled (s : State) (base : Nat) : List Entry → Option State
  | [] => some s
  | e :: es => (s.writeVirt s.ctx base e.bytes).bind fun s1 => s1.writeSpilled (base + 320) es

/-- Spilling (R287): the oldest 8 on-chip entries go to the spill area, and the pushing word runs again. A trap that found the
stack full is delivered now, as it would be if its word ran again. -/
def State.spill (s : State) (e : PrivEntry) : State :=
  let t := s.team
  let old := (t.stack.drop (t.stack.length - 8)).reverse
  let base := t.spillVa t.spilled.length
  if 48 < t.spilled.length + old.length then s.forward e
  else match if t.rebrew.isSome then some s else s.writeSpilled base old with
    | none => s.endWith t.launch .host .unmap (some s.cur) t.pc
    | some s1 =>
      let s2 := s1.setTeam { s1.team with stack := t.stack.take (t.stack.length - 8), spilled := t.spilled ++ old }
      match e.kept with
      | some c => s2.deliver c e.lanes e.detail e.at_ e.rpc e.fwd
      | none => s2

/-- What the privileged handler does with its entry (R287, R386, R393). -/
def State.privAct (s : State) (e : PrivEntry) : State :=
  if e.cause = .mchk then s.endWith s.team.launch .machine .mchk (some s.cur) e.at_ e.detail
  else if e.cause = .rstack then (if s.spilling ∧ e.detail.level = 0 then s.spill e else s.forward e)
  else match e.detail.walk with
    | none => s.forward e
    | some (va, mask) =>
      if s.nowAllowed va mask then s.resume e va
      else if s.launch.pins.any (·.pagesHold va) then s.endWith s.team.launch .host .unmap (some s.cur) e.at_ e.detail
      else s.forward e

/-- PRIV_HANDLER_RETURN (R386): the handler has done its work. It needs the emergency block first (R271). -/
def execPrivHandlerReturn (team : Nat) (s : State) : Out :=
  let t := s.teamOf team
  .next (match t.privEntry, t.wait with
    | some e, .handler => if e.needsBlock ∨ t.status ≠ TeamStatus.live then s else s.asTeam team fun s => s.leavePriv.privAct e
    | _, _ => s)

/-- The claimant of a core's emergency block that comes first: the lowest team number. -/
def State.claimant (s : State) (core : Nat) : Option Nat :=
  (List.find? (fun e => e.2.core == core && decide (e.2.status = TeamStatus.live) && e.2.privEntry.any (·.needsBlock))
    s.teams).map (·.1)

/-- EMERGENCY_BLOCK_GRANT (R271): the returned block is lent to a claimant that waits for it. -/
def execEmergencyBlockGrant (core : Nat) (s : State) : Out :=
  .next (match s.emergency.find? core, s.claimant core with
    | none, some id =>
      let t := s.teamOf id
      ({ s with emergency := s.emergency.set core id } : State).setTeamOf id
        { t with privEntry := t.privEntry.map fun e => { e with needsBlock := false } }
    | _, _ => s)

/-! Code. -/

/-- ILLEGAL_WORD (R27, R28, R48, R58): ILLEGAL at the header or word that the team has reached, or at the prefix that
modifies it. -/
def execIllegalWord (team : Nat) (s : State) : Out := .next (s.asTeam team fun s => s.takeTrap .illegal 0)

/-- INSTRUCTION_FETCH (R401): the line of the missing word arrives in the core's L1 instruction cache, and the team is ready
again. A poisoned line ends the launch (R393). -/
def execInstructionFetch (team : Nat) (s : State) : Out :=
  let t := s.teamOf team
  let ctx := (s.launchOf t.launch).ctx
  .next (match t.wait with
    | .fetch va =>
      let s1 := (s.fillCode t.core (some t.pipe) ctx va).cacheOn t.pipe ctx va
      (match s.translateOn (some t.pipe) ctx (va / 128 * 128) .exec with
        | .ok pa => if s.poisonedAt pa then s.mchkTeam team t.pc
          else s1.setTeamOf team { t with wait := .none, stamp := s.seq }
        | .error _ => s.setTeamOf team { t with wait := .none, stamp := s.seq })
    | _ => s)

end Sys2Proof.Machine
end

