-- ==== Sys2Proof/Machine/Atomics.lean ====
section
/-! DEFINITION. Atomics and reductions: their issue (R199, R203, R204, R224 to R229), and the home slice's atomic ALU
that applies them (R236, R245). -/
namespace Sys2Proof.Machine

/-- A lane's operand: one register, or a pair. -/
def Team.atomOperand (t : Team) (r : Nat) (wide : Bool) (lane : Nat) : DWord :=
  if wide then BitVec.setWidth 64 (t.getVn r lane) + BitVec.setWidth 64 (t.getVn (r + 1) lane) <<< 32
  else BitVec.setWidth 64 (t.getVn r lane)

/-- The launch's DET tags after its lanes' accesses (R228): the first block to come keeps the line. -/
def State.tagLines (s : State) (pas : List Nat) : State :=
  let l := s.launch
  if l.lflags.getLsbD 0 then
    s.setLaunch { l with detTags := pas.foldl (fun (m : Tab Nat) pa =>
      match m.find? (pa / 512) with | some _ => m | none => m.set (pa / 512) s.block.index) l.detTags }
  else s

/-- An atomic or reduction (R224 to R228): the registers read, the register of the result if any, and the order. -/
def atomicOp (s : State) (sw : Bool) (op : AtomOp) (t : VReg) (b : SReg) (x : VReg) (wide : Bool) (res : Bool)
    (o : BitVec 2) : Out :=
  let n := if wide then 2 else 1
  let group (k : Nat) : List Nat := (List.range k).map (t.toNat + ·)
  run s sw 1 { vr := x.toNat :: group (if op = .cas then 2 * n else n), vw := if res then group n else [], sr := [b],
               lanes := some s.team.exec } fun s =>
    outsideRebrew s (someLanes s (
      let u := s.team
      let ls := lanesOf u.tsize u.exec
      let addr := u.linAddr b x
      checked u ls addr (s.linChecks (4 * n) .atomic addr) (
        afterQueue s (ls.map fun l => .lin (s.lanePa .atomic (addr l))) (4 * n) true (
        let s1 := (s.cacheLanes ls addr).tagLines (ls.map fun l => s.lanePa .atomic (addr l))
        let s2 := if o.getLsbD 1 then s1.beginRelease 4 else s1
        let todo : List AtomLane := ls.map fun l =>
          { lane := l, pa := s.lanePa .atomic (addr l),
            operand := u.atomOperand (if op = .cas then t.toNat + n else t.toNat) wide l,
            compare := u.atomOperand t.toNat wide l }
        let a : Atom := { id := s2.seq, op := op, wide := wide, dst := if res then some t.toNat else none, todo := todo,
                          results := [] }
        let s3 := if o.getLsbD 0 then s2.beginAcquire false else s2
        let s4 := s3.setTeam { s3.team with atoms := s3.team.atoms ++ [a] }
        .ok (if res then s4.addPend (.v t.toNat n) (.atomic a.id) else s4.bump)))))

/-- amo.add (R224). -/
def execAmoAdd (sw : Bool) (t : VReg) (b : SReg) (x : VReg) (w : Bool) (o : BitVec 2) (s : State) : Out :=
  atomicOp s sw .add t b x w true o
/-- amo.min (R224). -/
def execAmoMin (sw : Bool) (t : VReg) (b : SReg) (x : VReg) (w : Bool) (o : BitVec 2) (s : State) : Out :=
  atomicOp s sw .min t b x w true o
/-- amo.max (R224). -/
def execAmoMax (sw : Bool) (t : VReg) (b : SReg) (x : VReg) (w : Bool) (o : BitVec 2) (s : State) : Out :=
  atomicOp s sw .max t b x w true o
/-- amo.and (R224). -/
def execAmoAnd (sw : Bool) (t : VReg) (b : SReg) (x : VReg) (w : Bool) (o : BitVec 2) (s : State) : Out :=
  atomicOp s sw .and t b x w true o
/-- amo.or (R224). -/
def execAmoOr (sw : Bool) (t : VReg) (b : SReg) (x : VReg) (w : Bool) (o : BitVec 2) (s : State) : Out :=
  atomicOp s sw .or t b x w true o
/-- amo.xor (R224). -/
def execAmoXor (sw : Bool) (t : VReg) (b : SReg) (x : VReg) (w : Bool) (o : BitVec 2) (s : State) : Out :=
  atomicOp s sw .xor t b x w true o
/-- amo.xchg (R224). -/
def execAmoXchg (sw : Bool) (t : VReg) (b : SReg) (x : VReg) (w : Bool) (o : BitVec 2) (s : State) : Out :=
  atomicOp s sw .xchg t b x w true o
/-- amo.fadd (R226). -/
def execAmoFadd (sw : Bool) (t : VReg) (b : SReg) (x : VReg) (o : BitVec 2) (s : State) : Out :=
  atomicOp s sw .fadd t b x false true o
/-- amocas (R225). -/
def execAmocas (sw : Bool) (t : VReg) (b : SReg) (x : VReg) (w : Bool) (o : BitVec 2) (s : State) : Out :=
  atomicOp s sw .cas t b x w true o

/-- The order of a reduction: none, or a release (R202). -/
def redOrder (rel : Bool) : BitVec 2 := if rel then 2 else 0

/-- red.add (R227). -/
def execRedAdd (sw : Bool) (t : VReg) (b : SReg) (x : VReg) (w rel : Bool) (s : State) : Out :=
  atomicOp s sw .add t b x w false (redOrder rel)
/-- red.min (R227). -/
def execRedMin (sw : Bool) (t : VReg) (b : SReg) (x : VReg) (w rel : Bool) (s : State) : Out :=
  atomicOp s sw .min t b x w false (redOrder rel)
/-- red.max (R227). -/
def execRedMax (sw : Bool) (t : VReg) (b : SReg) (x : VReg) (w rel : Bool) (s : State) : Out :=
  atomicOp s sw .max t b x w false (redOrder rel)
/-- red.and (R227). -/
def execRedAnd (sw : Bool) (t : VReg) (b : SReg) (x : VReg) (w rel : Bool) (s : State) : Out :=
  atomicOp s sw .and t b x w false (redOrder rel)
/-- red.or (R227). -/
def execRedOr (sw : Bool) (t : VReg) (b : SReg) (x : VReg) (w rel : Bool) (s : State) : Out :=
  atomicOp s sw .or t b x w false (redOrder rel)
/-- red.xor (R227). -/
def execRedXor (sw : Bool) (t : VReg) (b : SReg) (x : VReg) (w rel : Bool) (s : State) : Out :=
  atomicOp s sw .xor t b x w false (redOrder rel)
/-- red.fadd (R226, R227). -/
def execRedFadd (sw : Bool) (t : VReg) (b : SReg) (x : VReg) (rel : Bool) (s : State) : Out :=
  atomicOp s sw .fadd t b x false false (redOrder rel)

/-! The home slice. -/

/-- A store comes before a lane of an atomic (R169, R245): the team's earlier one to the word, or one that its core has accepted. -/
def State.beforeAtom (s : State) (team : Nat) (a : Atom) (w : Store) (l : AtomLane) : Bool :=
  (w.team == team && decide (w.id < a.id) || w.core == (s.teamOf team).core && w.accepted) && w.what.meetsBytes (.lin l.pa) a.bytes

/-- The home slice may apply a lane of an atomic now (R169, R187, R188, R203, R241). -/
def State.canApply (s : State) (team : Nat) (a : Atom) (l : AtomLane) : Bool :=
  let t := s.teamOf team
  let n := a.bytes
  s.ordered team a.id
    && !(a.todo.any fun o => decide (o.lane < l.lane) && (Place.lin o.pa).meets n (.lin l.pa) n)
    && !t.atomMeets a.id (.lin l.pa) n
    && !(t.pend.any fun p => p.before (.lin l.pa (List.replicate n 0)) a.id)
    && !(s.stores.any fun w => s.beforeAtom team a w l)
    && !s.lineOwned (l.pa / 512) team a.id && !s.sourceHeld (l.pa / 512) team a.id

/-- The results of an atomic, as its registers take them. -/
def Atom.values (a : Atom) (first : Nat) : List (Nat × Nat × Word) :=
  a.results.flatMap fun r =>
    (first, r.1, BitVec.setWidth 32 r.2) :: (if a.wide then [(first + 1, r.1, BitVec.extractLsb' 32 32 r.2)] else [])

/-- The home slice applies a lane: one read and one write together (R224, R245). -/
def State.applyLane (s : State) (team : Nat) (a : Atom) (l : AtomLane) : State :=
  let n := a.bytes
  let old := s.mem.readLE l.pa n
  let a1 : Atom := { a with todo := a.todo.filter fun o => o.lane != l.lane,
                            results := a.results ++ [(l.lane, BitVec.ofNat 64 old)] }
  let s1 : State := { s with mem := s.mem.writeLE l.pa n (a.result l old) }
  let t := s1.teamOf team
  if a1.todo.isEmpty then
    let t1 : Team := { t with
      atoms := t.atoms.filter fun b => b.id != a.id,
      pend := t.pend.map fun p => if p.src = .atomic a.id then { p with src := .lanes (a1.values (a.dst.getD 0)) } else p }
    s1.setTeamOf team t1
  else s1.setTeamOf team { t with atoms := t.atoms.map fun b => if b.id = a.id then a1 else b }

/-- ATOMIC_APPLY (R224, R236): the n-th piece of a team's atomics is lane n mod 1024 of the one numbered n ÷ 1024. The
core's earlier stores to the word are ordered first (R245). -/
def execAtomicApply (team n : Nat) (s : State) : Out :=
  .next (match (s.teamOf team).atoms.find? fun a => a.id = n / 1024 with
    | none => s
    | some a => match a.todo.find? fun l => l.lane = n % 1024 with
      | none => s
      | some l =>
        let s1 := s.performAll (s.stores.filter fun w => s.beforeAtom team a w l)
        if ¬ s1.canApply team a l then s1
        else if s1.poisonedAt l.pa then s1.mchkTeam team (s1.teamOf team).pc
        else s1.applyLane team a l)

end Sys2Proof.Machine
end

