-- ==== Sys2Proof/Machine/ScalarInt.lean ====
section
/-! DEFINITION. Scalar integer instructions, opcodes 0x00 to 0x0E (R109 to R112). -/
namespace Sys2Proof.Machine

/-- A two-source scalar form that sets flags from its operands. -/
def scalarArith (s : State) (sw : Bool) (d a b : SReg) (r : DWord → DWord → DWord)
    (fl : BitVec 5 → DWord → DWord → BitVec 5) : Out :=
  scalarOp s sw 1 d [a, b] (fun t => r (t.getS a) (t.getS b)) fun t => fl t.cc (t.getS a) (t.getS b)

/-- A two-source scalar form that leaves cc. -/
def scalarPlain (s : State) (sw : Bool) (d a b : SReg) (r : DWord → DWord → DWord) : Out :=
  scalarOp s sw 1 d [a, b] (fun t => r (t.getS a) (t.getS b)) Team.cc

/-- A two-source logic form: Z and N. -/
def scalarLogic (s : State) (sw : Bool) (d a b : SReg) (r : DWord → DWord → DWord) : Out :=
  scalarOp s sw 1 d [a, b] (fun t => r (t.getS a) (t.getS b)) fun t => flagsLogic t.cc (r (t.getS a) (t.getS b))

/-- A one-source scalar form that leaves cc. -/
def scalarUnary (s : State) (sw : Bool) (d a : SReg) (r : DWord → DWord) : Out :=
  scalarOp s sw 1 d [a] (fun t => r (t.getS a)) Team.cc

/-- A division form: ARITH for a zero divisor, otherwise r (R110). -/
def scalarDivide (s : State) (sw : Bool) (d a b : SReg) (r : DWord → DWord → DWord) : Out :=
  run s sw 1 { sr := [a, b], sw := [d] } fun s =>
    let t := s.team
    if t.getS b = 0 then .trap .arith 0 {} else .ok (s.setTeam (t.setS d (r (t.getS a) (t.getS b))))

/-- The low 6 bits of a count. -/
def shiftCount (b : DWord) : Nat := b.toNat % 64

/-- The minimum under an order. -/
def pick (le : Bool) (a b : DWord) : DWord := if le then a else b

/-- The number of one bits. -/
def popCount {w : Nat} (a : BitVec w) : Nat := ((List.range w).filter fun i => a.getLsbD i).length

/-- The number of leading zeros; w for 0. -/
def leadingZeros {w : Nat} (a : BitVec w) : Nat := if a = 0 then w else w - 1 - Nat.log2 a.toNat

/-- Bits [p + n - 1 : p] of a value, zero-extended. -/
def bitField {w : Nat} (a : BitVec w) (p n : Nat) : BitVec w := BitVec.ofNat w (bits a.toNat (p + n - 1) p)

/-- The value with bits [p + n - 1 : p] replaced by the low n bits of another. -/
def insertField {w : Nat} (old a : BitVec w) (p n : Nat) : BitVec w :=
  let m : BitVec w := BitVec.ofNat w ((2 ^ n - 1) * 2 ^ p)
  (old &&& ~~~m) ||| ((a <<< p) &&& m)

/-- Signed quotient, truncated; -2^63 by -1 wraps to itself (R110). -/
def sdivWord (a b : DWord) : DWord := BitVec.ofInt 64 (a.toInt.tdiv b.toInt)
/-- Signed remainder with the sign of a (R110). -/
def sremWord (a b : DWord) : DWord := BitVec.ofInt 64 (a.toInt.tmod b.toInt)

/-- %qrem: T_q less the ns since acceptance, signed (R39). -/
def qremWord (s : State) : DWord := BitVec.ofInt 64 ((s.launch.fig.tq : Int) - ((s.ns : Int) - s.launch.accepted))

/-- A special register by its number (R39). -/
def specialWord (s : State) (n : Nat) : DWord :=
  let t := s.team
  let b := s.block
  let l := s.launch
  match n with
  | 1 => BitVec.ofNat 64 t.index
  | 2 => BitVec.ofNat 64 b.coord.1
  | 3 => BitVec.ofNat 64 b.coord.2.1
  | 4 => BitVec.ofNat 64 b.coord.2.2
  | 5 => BitVec.ofNat 64 l.grid.1
  | 6 => BitVec.ofNat 64 l.grid.2.1
  | 7 => BitVec.ofNat 64 l.grid.2.2
  | 8 => BitVec.ofNat 64 t.tsize
  | 9 => BitVec.ofNat 64 s.ns
  | 10 => t.tmr
  | 11 => qremWord s
  | 12 => BitVec.ofNat 64 (s.njOf l)
  | 13 => BitVec.ofNat 64 t.launch
  | _ => BitVec.setWidth 64 t.cc

/-- sadd. -/
def execSadd (sw : Bool) (d a b : SReg) (s : State) : Out := scalarArith s sw d a b (· + ·) flagsAdd
/-- ssub. -/
def execSsub (sw : Bool) (d a b : SReg) (s : State) : Out := scalarArith s sw d a b (· - ·) flagsSub
/-- smul. -/
def execSmul (sw : Bool) (d a b : SReg) (s : State) : Out := scalarPlain s sw d a b (· * ·)
/-- smulh. -/
def execSmulh (sw : Bool) (d a b : SReg) (s : State) : Out :=
  scalarPlain s sw d a b fun x y => BitVec.ofInt 64 (x.toInt * y.toInt / 2 ^ 64)
/-- smulh.u. -/
def execSmulhU (sw : Bool) (d a b : SReg) (s : State) : Out :=
  scalarPlain s sw d a b fun x y => BitVec.ofNat 64 (x.toNat * y.toNat / 2 ^ 64)
/-- scmp: ssub without a destination. -/
def execScmp (sw : Bool) (a b : SReg) (s : State) : Out := scalarArith s sw 0 a b (· - ·) flagsSub
/-- sadd with an immediate. -/
def execSaddImm (sw : Bool) (d a : SReg) (i : Imm 12) (s : State) : Out :=
  scalarOp s sw (immWords i) d [a] (fun t => t.getS a + immS 64 i) fun t => flagsAdd t.cc (t.getS a) (immS 64 i)
/-- sdiv. -/
def execSdiv (sw : Bool) (d a b : SReg) (s : State) : Out := scalarDivide s sw d a b sdivWord
/-- sdiv.u. -/
def execSdivU (sw : Bool) (d a b : SReg) (s : State) : Out :=
  scalarDivide s sw d a b fun x y => BitVec.ofNat 64 (x.toNat / y.toNat)
/-- srem. -/
def execSrem (sw : Bool) (d a b : SReg) (s : State) : Out := scalarDivide s sw d a b sremWord
/-- srem.u. -/
def execSremU (sw : Bool) (d a b : SReg) (s : State) : Out :=
  scalarDivide s sw d a b fun x y => BitVec.ofNat 64 (x.toNat % y.toNat)
/-- sand. -/
def execSand (sw : Bool) (d a b : SReg) (s : State) : Out := scalarLogic s sw d a b (· &&& ·)
/-- sor. -/
def execSor (sw : Bool) (d a b : SReg) (s : State) : Out := scalarLogic s sw d a b (· ||| ·)
/-- sxor. -/
def execSxor (sw : Bool) (d a b : SReg) (s : State) : Out := scalarLogic s sw d a b (· ^^^ ·)
/-- sshl. -/
def execSshl (sw : Bool) (d a b : SReg) (s : State) : Out := scalarPlain s sw d a b fun x y => x <<< shiftCount y
/-- sshr. -/
def execSshr (sw : Bool) (d a b : SReg) (s : State) : Out := scalarPlain s sw d a b fun x y => x >>> shiftCount y
/-- ssar. -/
def execSsar (sw : Bool) (d a b : SReg) (s : State) : Out :=
  scalarPlain s sw d a b fun x y => x.sshiftRight (shiftCount y)
/-- sand with an immediate. -/
def execSandImm (sw : Bool) (d a : SReg) (i : Imm 12) (s : State) : Out :=
  scalarOp s sw (immWords i) d [a] (fun t => t.getS a &&& immZ 64 i) fun t => flagsLogic t.cc (t.getS a &&& immZ 64 i)
/-- sor with an immediate. -/
def execSorImm (sw : Bool) (d a : SReg) (i : Imm 12) (s : State) : Out :=
  scalarOp s sw (immWords i) d [a] (fun t => t.getS a ||| immZ 64 i) fun t => flagsLogic t.cc (t.getS a ||| immZ 64 i)
/-- sshl with an immediate count. -/
def execSshlImm (sw : Bool) (d a : SReg) (c : BitVec 6) (s : State) : Out :=
  scalarUnary s sw d a fun x => x <<< c.toNat
/-- sshr with an immediate count. -/
def execSshrImm (sw : Bool) (d a : SReg) (c : BitVec 6) (s : State) : Out :=
  scalarUnary s sw d a fun x => x >>> c.toNat
/-- ssar with an immediate count. -/
def execSsarImm (sw : Bool) (d a : SReg) (c : BitVec 6) (s : State) : Out :=
  scalarUnary s sw d a fun x => x.sshiftRight c.toNat
/-- smin. -/
def execSmin (sw : Bool) (d a b : SReg) (s : State) : Out := scalarPlain s sw d a b fun x y => pick (x.sle y) x y
/-- smax. -/
def execSmax (sw : Bool) (d a b : SReg) (s : State) : Out := scalarPlain s sw d a b fun x y => pick (y.sle x) x y
/-- smin.u. -/
def execSminU (sw : Bool) (d a b : SReg) (s : State) : Out := scalarPlain s sw d a b fun x y => pick (x.ule y) x y
/-- smax.u. -/
def execSmaxU (sw : Bool) (d a b : SReg) (s : State) : Out := scalarPlain s sw d a b fun x y => pick (y.ule x) x y
/-- ssel. -/
def execSsel (sw : Bool) (d a b : SReg) (c : BitVec 4) (s : State) : Out :=
  scalarOp s sw 1 d [a, b] (fun t => if condHolds c t.cc then t.getS a else t.getS b) Team.cc
/-- sbfx. -/
def execSbfx (sw : Bool) (d a : SReg) (p w : BitVec 6) (s : State) : Out :=
  scalarUnary s sw d a fun x => bitField x p.toNat (w.toNat + 1)
/-- sbfi. -/
def execSbfi (sw : Bool) (d a : SReg) (p w : BitVec 6) (s : State) : Out :=
  scalarOp s sw 1 d [a, d] (fun t => insertField (t.getS d) (t.getS a) p.toNat (w.toNat + 1)) Team.cc
/-- spopc. -/
def execSpopc (sw : Bool) (d a : SReg) (s : State) : Out := scalarUnary s sw d a fun x => BitVec.ofNat 64 (popCount x)
/-- sclz. -/
def execSclz (sw : Bool) (d a : SReg) (s : State) : Out :=
  scalarUnary s sw d a fun x => BitVec.ofNat 64 (leadingZeros x)
/-- smov. -/
def execSmov (sw : Bool) (d a : SReg) (s : State) : Out := scalarUnary s sw d a fun x => x
/-- smovi. -/
def execSmovi (sw : Bool) (d : SReg) (i : Imm 18) (s : State) : Out :=
  scalarOp s sw (immWords i) d [] (fun _ => immS 64 i) Team.cc
/-- slui: the value in bits [63:32], s[d][31:0] kept. -/
def execSlui (sw : Bool) (d : SReg) (i : Imm 18) (s : State) : Out :=
  scalarOp s sw (immWords i) d [d] (fun t => (immZ 64 i <<< 32) ||| (t.getS d &&& 0xFFFFFFFF)) Team.cc
/-- smov of a special register. -/
def execSmovSpecial (sw : Bool) (d : SReg) (n : BitVec 12) (s : State) : Out :=
  scalarOp s sw 1 d [] (fun _ => specialWord s n.toNat) Team.cc

end Sys2Proof.Machine
end

