-- ==== Sys2Proof/Machine/VectorInt.lean ====
section
/-! DEFINITION. Vector integer instructions, opcodes 0x10 to 0x1E (R113 to R117). -/
namespace Sys2Proof.Machine

/-- A two-source vector form on lane values. -/
def vectorBin (s : State) (sw : Bool) (d a b : VReg) (k : KReg) (f : Word → Word → Word) : Out :=
  vectorOp s sw 1 d k [a, b] fun t l => f (t.getV a l) (t.getV b l)

/-- A one-source vector form on lane values. -/
def vectorUn (s : State) (sw : Bool) (d a : VReg) (k : KReg) (f : Word → Word) : Out :=
  vectorOp s sw 1 d k [a] fun t l => f (t.getV a l)

/-- A signed value clamped to INT32. -/
def clampS32 (n : Int) : Word := BitVec.ofInt 32 (max (-2147483648) (min 2147483647 n))
/-- A value clamped to 0 to 2^32 - 1. -/
def clampU32 (n : Int) : Word := BitVec.ofInt 32 (max 0 (min 4294967295 n))

/-- Byte i of a word, signed. -/
def byteS (a : Word) (i : Nat) : Int := (BitVec.extractLsb' (8 * i) 8 a).toInt
/-- Byte i of a word, unsigned. -/
def byteU (a : Word) (i : Nat) : Int := (BitVec.extractLsb' (8 * i) 8 a).toNat

/-- vdot4 (R114): the exact sum, clamped under fm.sat, else wrapped. -/
def dot4 (byte : Word → Nat → Int) (sat : Bool) (a b c : Word) : Word :=
  let t := c.toInt + ((List.range 4).map fun i => byte a i * byte b i).sum
  if sat then clampS32 t else BitVec.ofInt 32 t

/-- vadd. -/
def execVadd (sw : Bool) (d a b : VReg) (k : KReg) (s : State) : Out := vectorBin s sw d a b k (· + ·)
/-- vsub. -/
def execVsub (sw : Bool) (d a b : VReg) (k : KReg) (s : State) : Out := vectorBin s sw d a b k (· - ·)
/-- vadds. -/
def execVadds (sw : Bool) (d a b : VReg) (k : KReg) (s : State) : Out :=
  vectorBin s sw d a b k fun x y => clampS32 (x.toInt + y.toInt)
/-- vsubs. -/
def execVsubs (sw : Bool) (d a b : VReg) (k : KReg) (s : State) : Out :=
  vectorBin s sw d a b k fun x y => clampS32 (x.toInt - y.toInt)
/-- vadds.u. -/
def execVaddsU (sw : Bool) (d a b : VReg) (k : KReg) (s : State) : Out :=
  vectorBin s sw d a b k fun x y => clampU32 ((x.toNat : Int) + y.toNat)
/-- vsubs.u. -/
def execVsubsU (sw : Bool) (d a b : VReg) (k : KReg) (s : State) : Out :=
  vectorBin s sw d a b k fun x y => clampU32 ((x.toNat : Int) - y.toNat)
/-- vmul. -/
def execVmul (sw : Bool) (d a b : VReg) (k : KReg) (s : State) : Out := vectorBin s sw d a b k (· * ·)
/-- vmulh. -/
def execVmulh (sw : Bool) (d a b : VReg) (k : KReg) (s : State) : Out :=
  vectorBin s sw d a b k fun x y => BitVec.ofInt 32 (x.toInt * y.toInt / 2 ^ 32)
/-- vmulh.u. -/
def execVmulhU (sw : Bool) (d a b : VReg) (k : KReg) (s : State) : Out :=
  vectorBin s sw d a b k fun x y => BitVec.ofNat 32 (x.toNat * y.toNat / 2 ^ 32)
/-- vand. -/
def execVand (sw : Bool) (d a b : VReg) (k : KReg) (s : State) : Out := vectorBin s sw d a b k (· &&& ·)
/-- vor. -/
def execVor (sw : Bool) (d a b : VReg) (k : KReg) (s : State) : Out := vectorBin s sw d a b k (· ||| ·)
/-- vxor. -/
def execVxor (sw : Bool) (d a b : VReg) (k : KReg) (s : State) : Out := vectorBin s sw d a b k (· ^^^ ·)
/-- vshl. -/
def execVshl (sw : Bool) (d a b : VReg) (k : KReg) (s : State) : Out :=
  vectorBin s sw d a b k fun x y => x <<< (y.toNat % 32)
/-- vshr. -/
def execVshr (sw : Bool) (d a b : VReg) (k : KReg) (s : State) : Out :=
  vectorBin s sw d a b k fun x y => x >>> (y.toNat % 32)
/-- vsar. -/
def execVsar (sw : Bool) (d a b : VReg) (k : KReg) (s : State) : Out :=
  vectorBin s sw d a b k fun x y => x.sshiftRight (y.toNat % 32)
/-- vmin. -/
def execVmin (sw : Bool) (d a b : VReg) (k : KReg) (s : State) : Out :=
  vectorBin s sw d a b k fun x y => if x.sle y then x else y
/-- vmax. -/
def execVmax (sw : Bool) (d a b : VReg) (k : KReg) (s : State) : Out :=
  vectorBin s sw d a b k fun x y => if y.sle x then x else y
/-- vmin.u. -/
def execVminU (sw : Bool) (d a b : VReg) (k : KReg) (s : State) : Out :=
  vectorBin s sw d a b k fun x y => if x.ule y then x else y
/-- vmax.u. -/
def execVmaxU (sw : Bool) (d a b : VReg) (k : KReg) (s : State) : Out :=
  vectorBin s sw d a b k fun x y => if y.ule x then x else y
/-- vabs: 0x8000_0000 gives 0x7FFF_FFFF. -/
def execVabs (sw : Bool) (d a : VReg) (k : KReg) (s : State) : Out :=
  vectorUn s sw d a k fun x => clampS32 x.toInt.natAbs
/-- vmad. -/
def execVmad (sw : Bool) (d a b c : VReg) (s : State) : Out :=
  vectorOp s sw 1 d 0 [a, b, c] fun t l => t.getV a l * t.getV b l + t.getV c l
/-- vdot4. -/
def execVdot4 (sw : Bool) (d a b c : VReg) (s : State) : Out :=
  vectorOp s sw 1 d 0 [a, b, c] fun t l => dot4 byteS (Fm.sat t.fm) (t.getV a l) (t.getV b l) (t.getV c l)
/-- vdot4.u. -/
def execVdot4U (sw : Bool) (d a b c : VReg) (s : State) : Out :=
  vectorOp s sw 1 d 0 [a, b, c] fun t l => dot4 byteU (Fm.sat t.fm) (t.getV a l) (t.getV b l) (t.getV c l)
/-- vcmp.eq. -/
def execVcmpEq (sw : Bool) (d : KReg) (a b : VReg) (k : KReg) (s : State) : Out :=
  compareOp s sw d a b k fun t l => t.getV a l == t.getV b l
/-- vcmp.ne. -/
def execVcmpNe (sw : Bool) (d : KReg) (a b : VReg) (k : KReg) (s : State) : Out :=
  compareOp s sw d a b k fun t l => t.getV a l != t.getV b l
/-- vcmp.lt. -/
def execVcmpLt (sw : Bool) (d : KReg) (a b : VReg) (k : KReg) (s : State) : Out :=
  compareOp s sw d a b k fun t l => (t.getV a l).slt (t.getV b l)
/-- vcmp.le. -/
def execVcmpLe (sw : Bool) (d : KReg) (a b : VReg) (k : KReg) (s : State) : Out :=
  compareOp s sw d a b k fun t l => (t.getV a l).sle (t.getV b l)
/-- vcmp.ltu. -/
def execVcmpLtu (sw : Bool) (d : KReg) (a b : VReg) (k : KReg) (s : State) : Out :=
  compareOp s sw d a b k fun t l => (t.getV a l).ult (t.getV b l)
/-- vcmp.leu. -/
def execVcmpLeu (sw : Bool) (d : KReg) (a b : VReg) (k : KReg) (s : State) : Out :=
  compareOp s sw d a b k fun t l => (t.getV a l).ule (t.getV b l)
/-- vsel: a where the selecting mask has the lane, else b (R116). -/
def execVsel (sw : Bool) (d a b : VReg) (k m : KReg) (s : State) : Out :=
  run s sw 1 { vr := [a.toNat, b.toNat], vw := [d.toNat], kr := m :: predK k, lanes := some (s.team.lanes k) } fun s =>
    let t := s.team
    .ok (s.setTeam (t.setV d (t.lanes k) fun l => if (t.getK m).getLsbD l then t.getV a l else t.getV b l))
/-- vbfx.u. -/
def execVbfxU (sw : Bool) (d a : VReg) (p w : BitVec 5) (s : State) : Out :=
  vectorUn s sw d a 0 fun x => bitField x p.toNat (w.toNat + 1)
/-- vbfx.s. -/
def execVbfxS (sw : Bool) (d a : VReg) (p w : BitVec 5) (s : State) : Out :=
  vectorUn s sw d a 0 fun x => BitVec.ofInt 32 (signed (w.toNat + 1) (bitField x p.toNat (w.toNat + 1)).toNat)
/-- vbfi. -/
def execVbfi (sw : Bool) (d a : VReg) (p w : BitVec 5) (s : State) : Out :=
  vectorOp s sw 1 d 0 [a, d] fun t l => insertField (t.getV d l) (t.getV a l) p.toNat (w.toNat + 1)
/-- vpopc. -/
def execVpopc (sw : Bool) (d a : VReg) (k : KReg) (s : State) : Out :=
  vectorUn s sw d a k fun x => BitVec.ofNat 32 (popCount x)
/-- vclz. -/
def execVclz (sw : Bool) (d a : VReg) (k : KReg) (s : State) : Out :=
  vectorUn s sw d a k fun x => BitVec.ofNat 32 (leadingZeros x)
/-- vmov. -/
def execVmov (sw : Bool) (d a : VReg) (k : KReg) (s : State) : Out := vectorUn s sw d a k fun x => x
/-- vmovi. -/
def execVmovi (sw : Bool) (d : VReg) (i : Imm 18) (s : State) : Out :=
  vectorOp s sw (immWords i) d 0 [] fun _ _ => immS 32 i
/-- vmov of %lane. -/
def execVmovLane (sw : Bool) (d : VReg) (s : State) : Out := vectorOp s sw 1 d 0 [] fun _ l => BitVec.ofNat 32 l
/-- vadd with an immediate. -/
def execVaddImm (sw : Bool) (d a : VReg) (i : Imm 12) (s : State) : Out :=
  vectorOp s sw (immWords i) d 0 [a] fun t l => t.getV a l + immS 32 i

end Sys2Proof.Machine
end

