-- ==== Sys2Proof/Machine/VectorFloat.lean ====
section
/-! DEFINITION. Vector float instructions, opcodes 0x20 to 0x2A (R118 to R124). -/
namespace Sys2Proof.Machine

/-- The source modifiers of R64: the absolute value first, then the negation. -/
def modVal (abs neg : Bool) (v : Val) : Val :=
  let v1 := if abs then v.abs else v
  if neg then v1.neg else v1

/-- Operand a of a form marked "mod". -/
def modA (m : BitVec 3) (v : Val) : Val := modVal (m.getLsbD 0) (m.getLsbD 1) v
/-- Operand b of a form marked "mod". -/
def modB (m : BitVec 3) (v : Val) : Val := modVal false (m.getLsbD 2) v

/-- Decode(FP32, lane) under the team's FTZ. -/
def Team.getF (t : Team) (r : VReg) (l : Nat) : Val := decode32 (Fm.ftz t.fm) (t.getV r l)

/-- RoundTo(FP32, v, fm.rm) under the team's fm. -/
def Team.roundF (t : Team) (v : Val) : Word := round32 (Fm.rm t.fm) (Fm.sat t.fm) (Fm.ftz t.fm) v

/-- A two-source FP32 form with source modifiers. -/
def floatBin (s : State) (sw : Bool) (d a b : VReg) (k : KReg) (m : BitVec 3) (f : Team → Val → Val → Word) : Out :=
  vectorOp s sw 1 d k [a, b] fun t l => f t (modA m (t.getF a l)) (modB m (t.getF b l))

/-- An FP32 compare. -/
def floatCmp (s : State) (sw : Bool) (d : KReg) (a b : VReg) (k : KReg) (p : Val → Val → Bool) : Out :=
  compareOp s sw d a b k fun t l => p (t.getF a l) (t.getF b l)

/-- A form of opcode 0x28 (R124). -/
def floatFn (s : State) (sw : Bool) (d a : VReg) (k : KReg) (m : BitVec 2) (f : Fn) : Out :=
  vectorPend s sw d k [a] [] fun t l =>
    transc f (Fm.rm t.fm) (Fm.sat t.fm) (Fm.ftz t.fm) t.fm (modVal (m.getLsbD 0) (m.getLsbD 1) (t.getF a l))

/-- fround in a mode given by the word or by fm (R122). -/
def floatRound (s : State) (sw : Bool) (d a : VReg) (mode : Team → Nat) : Out :=
  vectorOp s sw 1 d 0 [a] fun t l => froundWord (mode t) (t.getF a l)

/-- Neither value is a NaN. -/
def ordered (x y : Val) : Bool := x != .nan && y != .nan

/-- fadd. -/
def execFadd (sw : Bool) (d a b : VReg) (k : KReg) (m : BitVec 3) (s : State) : Out :=
  floatBin s sw d a b k m fun t x y => t.roundF (addVal (Fm.rm t.fm) x y)
/-- fsub. -/
def execFsub (sw : Bool) (d a b : VReg) (k : KReg) (m : BitVec 3) (s : State) : Out :=
  floatBin s sw d a b k m fun t x y => t.roundF (addVal (Fm.rm t.fm) x y.neg)
/-- fmul. -/
def execFmul (sw : Bool) (d a b : VReg) (k : KReg) (m : BitVec 3) (s : State) : Out :=
  floatBin s sw d a b k m fun t x y => t.roundF (mulVal x y)
/-- fma: exact product and sum, one rounding. -/
def execFma (sw : Bool) (d a b c : VReg) (s : State) : Out :=
  vectorOp s sw 1 d 0 [a, b, c] fun t l =>
    t.roundF (addVal (Fm.rm t.fm) (mulVal (t.getF a l) (t.getF b l)) (t.getF c l))
/-- fmin. -/
def execFmin (sw : Bool) (d a b : VReg) (k : KReg) (m : BitVec 3) (s : State) : Out :=
  floatBin s sw d a b k m fun _ x y => encode32 (fminVal x y)
/-- fmax. -/
def execFmax (sw : Bool) (d a b : VReg) (k : KReg) (m : BitVec 3) (s : State) : Out :=
  floatBin s sw d a b k m fun _ x y => encode32 (fmaxVal x y)
/-- fcmp.eq. -/
def execFcmpEq (sw : Bool) (d : KReg) (a b : VReg) (k : KReg) (s : State) : Out := floatCmp s sw d a b k eqVal
/-- fcmp.ne. -/
def execFcmpNe (sw : Bool) (d : KReg) (a b : VReg) (k : KReg) (s : State) : Out :=
  floatCmp s sw d a b k fun x y => !eqVal x y
/-- fcmp.lt. -/
def execFcmpLt (sw : Bool) (d : KReg) (a b : VReg) (k : KReg) (s : State) : Out :=
  floatCmp s sw d a b k fun x y => ordered x y && ltVal x y
/-- fcmp.le. -/
def execFcmpLe (sw : Bool) (d : KReg) (a b : VReg) (k : KReg) (s : State) : Out :=
  floatCmp s sw d a b k fun x y => ordered x y && (ltVal x y || eqVal x y)
/-- fcmp.un. -/
def execFcmpUn (sw : Bool) (d : KReg) (a b : VReg) (k : KReg) (s : State) : Out :=
  floatCmp s sw d a b k fun x y => !ordered x y
/-- fcmp.ord. -/
def execFcmpOrd (sw : Bool) (d : KReg) (a b : VReg) (k : KReg) (s : State) : Out := floatCmp s sw d a b k ordered
/-- fclass, from the raw pattern. -/
def execFclass (sw : Bool) (d a : VReg) (k : KReg) (s : State) : Out := vectorUn s sw d a k fclassWord
/-- frcp. -/
def execFrcp (sw : Bool) (d a : VReg) (k : KReg) (m : BitVec 2) (s : State) : Out := floatFn s sw d a k m .frcp
/-- frsq. -/
def execFrsq (sw : Bool) (d a : VReg) (k : KReg) (m : BitVec 2) (s : State) : Out := floatFn s sw d a k m .frsq
/-- fsqrt. -/
def execFsqrt (sw : Bool) (d a : VReg) (k : KReg) (m : BitVec 2) (s : State) : Out := floatFn s sw d a k m .fsqrt
/-- fexp2. -/
def execFexp2 (sw : Bool) (d a : VReg) (k : KReg) (m : BitVec 2) (s : State) : Out := floatFn s sw d a k m .fexp2
/-- flog2. -/
def execFlog2 (sw : Bool) (d a : VReg) (k : KReg) (m : BitVec 2) (s : State) : Out := floatFn s sw d a k m .flog2
/-- fsin. -/
def execFsin (sw : Bool) (d a : VReg) (k : KReg) (m : BitVec 2) (s : State) : Out := floatFn s sw d a k m .fsin
/-- fcos. -/
def execFcos (sw : Bool) (d a : VReg) (k : KReg) (m : BitVec 2) (s : State) : Out := floatFn s sw d a k m .fcos
/-- ftanh. -/
def execFtanh (sw : Bool) (d a : VReg) (k : KReg) (m : BitVec 2) (s : State) : Out := floatFn s sw d a k m .ftanh
/-- fdiv (R123); its result is pending. -/
def execFdiv (sw : Bool) (d a b : VReg) (k : KReg) (m : BitVec 3) (s : State) : Out :=
  vectorPend s sw d k [a, b] [] fun t l =>
    fdivWord (Fm.rm t.fm) (Fm.sat t.fm) (Fm.ftz t.fm) (modA m (t.getF a l)) (modB m (t.getF b l))
/-- fround.rn. -/
def execFroundRn (sw : Bool) (d a : VReg) (s : State) : Out := floatRound s sw d a fun _ => 0
/-- fround.rz. -/
def execFroundRz (sw : Bool) (d a : VReg) (s : State) : Out := floatRound s sw d a fun _ => 1
/-- fround.ru. -/
def execFroundRu (sw : Bool) (d a : VReg) (s : State) : Out := floatRound s sw d a fun _ => 2
/-- fround.rd. -/
def execFroundRd (sw : Bool) (d a : VReg) (s : State) : Out := floatRound s sw d a fun _ => 3
/-- fround, in the mode of fm. -/
def execFround (sw : Bool) (d a : VReg) (s : State) : Out := floatRound s sw d a fun t => Fm.rm t.fm

end Sys2Proof.Machine
end

