-- ==== Sys2Proof/Machine/Convert.lean ====
section
/-! DEFINITION. Conversion and format instructions, opcodes 0x30 to 0x37 (R125 to R129). -/
namespace Sys2Proof.Machine

/-- A format code that cvt, unpack and the fields of fm accept: 0 to 10 (R82). -/
def code10 (c : Nat) : Option Fmt := if c ≤ 10 then Fmt.ofCode c else none

/-- Convert(g, x) under the team's fm (R95). -/
def Team.convert (t : Team) (g : Fmt) (x : Elem) : Nat := Machine.convert g (Fm.rm t.fm) (Fm.sat t.fm) (Fm.ftz t.fm) x

/-- Decode(f, bits) under the team's FTZ (R90). -/
def Team.elem (t : Team) (f : Fmt) (b : Nat) : Elem := decodeElem f (Fm.ftz t.fm) b

/-- A conversion with one source per lane: FMT for a code that is not accepted, FMT for the lanes whose TERN source is
malformed while the others are written (R125, R127). `pick` takes the element from the lane. -/
def convertOp (s : State) (sw : Bool) (d a : VReg) (src : Option Fmt) (dst : Fmt → Option Fmt) (elem : Fmt → Word → Nat) :
    Out :=
  let m := s.team.exec
  run s sw 1 { vr := [a.toNat], vw := [d.toNat], lanes := some m } fun s =>
    let t := s.team
    if m = 0 then .ok s
    else match src with
      | none => .trap .fmt m {}
      | some f => match dst f with
        | none => .trap .fmt m {}
        | some g =>
          let bad := maskOf t.tsize fun l => m.getLsbD l && badTern f (elem f (t.getV a l))
          let s1 := s.setTeam (t.setV d (m &&& ~~~bad) fun l => place g (t.convert g (t.elem f (elem f (t.getV a l)))))
          if bad = 0 then .ok s1 else .some_ s1 .fmt bad {}

/-- FP32 for a floating format, INT32 for the others (R126, R127). -/
def wideFmt (f : Fmt) : Fmt := if f.isFloat then .fp32 else .int32

/-- One element of pack2 or pack4. -/
def packElem (t : Team) (g : Fmt) (w : Word) : Nat := t.convert g (t.elem (wideFmt g) w.toNat)

/-- A pack form: FMT unless fm.cfmt is one of the accepted codes (R126). -/
def packOp (s : State) (sw : Bool) (d : VReg) (k : KReg) (reads : List VReg) (ok : Nat → Bool)
    (f : Team → Fmt → Nat → Word) : Out :=
  run s sw 1 { vr := reads.map (·.toNat), vw := [d.toNat], kr := predK k, lanes := some (s.team.lanes k) } fun s =>
    let t := s.team
    if t.lanes k = 0 then .ok s
    else match (if ok (Fm.cfmt t.fm) then Fmt.ofCode (Fm.cfmt t.fm) else none) with
      | none => .trap .fmt (t.lanes k) {}
      | some g => .ok (s.setTeam (t.setV d (t.lanes k) (f t g)))

/-- cvt. -/
def execCvt (sw : Bool) (d a : VReg) (f g : BitVec 4) (s : State) : Out :=
  convertOp s sw d a (code10 f.toNat) (fun _ => code10 g.toNat) fun fm w => w.toNat % 2 ^ fm.width
/-- pack2. -/
def execPack2 (sw : Bool) (d a b : VReg) (k : KReg) (s : State) : Out :=
  packOp s sw d k [a, b] (fun c => c == 1 || c == 2) fun t g l =>
    BitVec.ofNat 32 (packElem t g (t.getV a l) + 2 ^ 16 * packElem t g (t.getV b l))
/-- pack4: bytes 0 to 2; byte 3 of the old value stays. -/
def execPack4 (sw : Bool) (d a b c : VReg) (s : State) : Out :=
  packOp s sw d 0 [a, b, c, d] (fun c => c == 3 || c == 4 || c == 6 || c == 7) fun t g l =>
    BitVec.ofNat 32 (packElem t g (t.getV a l) + 2 ^ 8 * packElem t g (t.getV b l)
      + 2 ^ 16 * packElem t g (t.getV c l) + 2 ^ 24 * bits (t.getV d l).toNat 31 24)
/-- unpack. -/
def execUnpack (sw : Bool) (d a : VReg) (f : BitVec 4) (i : BitVec 3) (s : State) : Out :=
  convertOp s sw d a (code10 f.toNat) (fun g => some (wideFmt g)) fun fm w =>
    bits w.toNat (fm.width * i.toNat + fm.width - 1) (fm.width * i.toNat)
/-- bscale. -/
def execBscale (sw : Bool) (d a b : VReg) (k : KReg) (s : State) : Out :=
  vectorOp s sw 1 d k [a, b] fun t l => t.roundF (applyScale (t.getF a l) (bits (t.getV b l).toNat 7 0))
/-- bapply. -/
def execBapply (sw : Bool) (d a b : VReg) (k : KReg) (s : State) : Out :=
  packOp s sw d k [a, b] (fun c => decide (c ≤ 10)) fun t g l =>
    place g (roundTo g (Fm.rm t.fm) (Fm.sat t.fm) (Fm.ftz t.fm)
      (applyInvScale (t.getF a l) (bits (t.getV b l).toNat 7 0)))
/-- fmset with an immediate. -/
def execFmsetImm (sw : Bool) (i : BitVec 18) (s : State) : Out :=
  run s sw 1 {} fun s => .ok (s.setTeam (s.team.setFm (BitVec.setWidth 32 i)))
/-- fmset from a scalar: FMT when s[a][63:18] is nonzero. -/
def execFmset (sw : Bool) (a : SReg) (s : State) : Out :=
  run s sw 1 { sr := [a] } fun s =>
    let x := s.team.getS a
    if x.toNat ≥ 2 ^ 18 then .trap .fmt 0 {} else .ok (s.setTeam (s.team.setFm (BitVec.setWidth 32 x)))
/-- fmget. -/
def execFmget (sw : Bool) (d : SReg) (s : State) : Out :=
  scalarOp s sw 1 d [] (fun t => BitVec.setWidth 64 t.fm) Team.cc

end Sys2Proof.Machine
end

