-- ==== Sys2Proof/Machine/CrossLane.lean ====
section
/-! DEFINITION. Cross-lane and mask instructions, opcodes 0x38 to 0x3F (R99, R130 to R134). -/
namespace Sys2Proof.Machine

/-- The operations of rdc and scan (R66). -/
inductive RedOp where
  | add | min | max | minU | maxU | fadd | fmin | fmax
  deriving DecidableEq, Repr

/-- Combine of R99 on two lane values, under fm. -/
def RedOp.combine (o : RedOp) (fm x y : Word) : Word :=
  let dx := decode32 (Fm.ftz fm) x
  let dy := decode32 (Fm.ftz fm) y
  match o with
  | .add => x + y
  | .min => if x.sle y then x else y
  | .max => if y.sle x then x else y
  | .minU => if x.ule y then x else y
  | .maxU => if y.ule x then x else y
  | .fadd => round32 (Fm.rm fm) (Fm.sat fm) (Fm.ftz fm) (addVal (Fm.rm fm) dx dy)
  | .fmin => encode32 (fminVal dx dy)
  | .fmax => encode32 (fmaxVal dx dy)

/-- A lane as its operation reads it: the float operations decode it as FP32 under FTZ (R131). -/
def RedOp.leaf (o : RedOp) (fm x : Word) : Word :=
  match o with
  | .fadd | .fmin | .fmax => encode32 (decode32 (Fm.ftz fm) x)
  | _ => x

/-- The identity that rdc writes when every lane is Empty (R99). -/
def RedOp.identity : RedOp → Word
  | .add | .maxU | .fadd => 0
  | .min => 0x7FFFFFFF
  | .max => 0x80000000
  | .minU => 0xFFFFFFFF
  | .fmin => 0x7F800000
  | .fmax => 0xFF800000

/-- Combine with Empty (R99). -/
def combineOpt (o : RedOp) (fm : Word) : Option Word → Option Word → Option Word
  | none, y => y
  | x, none => x
  | some x, some y => some (o.combine fm x y)

/-- One level of the tree: adjacent pairs. -/
def pairUp (o : RedOp) (fm : Word) : List (Option Word) → List (Option Word)
  | x :: y :: rest => combineOpt o fm x y :: pairUp o fm rest
  | l => l

/-- TreeReduce (R99) over 2^n positions. -/
def treeReduce (o : RedOp) (fm : Word) : Nat → List (Option Word) → Option Word
  | 0, l => l.headD none
  | n + 1, l => treeReduce o fm n (pairUp o fm l)

/-- The tree's depth for a team. -/
def depthOf (tsize : Nat) : Nat := Nat.log2 tsize

/-- The lanes of a set up to a bound, as the tree sees them. -/
def leaves (o : RedOp) (t : Team) (a : VReg) (m : Mask) (upto : Nat) : List (Option Word) :=
  (List.range t.tsize).map fun l => if m.getLsbD l && decide (l ≤ upto) then some (o.leaf t.fm (t.getV a l)) else none

/-- rdc's value. -/
def reduceLanes (o : RedOp) (t : Team) (a : VReg) (m : Mask) : Word :=
  (treeReduce o t.fm (depthOf t.tsize) (leaves o t a m t.tsize)).getD o.identity

/-- scan's value at a lane (R99). -/
def scanLane (o : RedOp) (t : Team) (a : VReg) (m : Mask) (l : Nat) : Word :=
  (treeReduce o t.fm (depthOf t.tsize) (leaves o t a m l)).getD o.identity

/-- rdc's value in a scalar (R131). -/
def RedOp.extend (o : RedOp) (w : Word) : DWord :=
  match o with
  | .add | .min | .max => BitVec.signExtend 64 w
  | _ => BitVec.setWidth 64 w

/-- A rdc form. -/
def reduceOp (s : State) (sw : Bool) (d : SReg) (a : VReg) (k : KReg) (o : RedOp) : Out :=
  scalarPend s sw d k [a] fun t => o.extend (reduceLanes o t a (t.lanes k))

/-- A scan form. -/
def scanOp (s : State) (sw : Bool) (d a : VReg) (k : KReg) (o : RedOp) : Out :=
  vectorPend s sw d k [a] [] fun t l => scanLane o t a (t.lanes k) l

/-- A shuffle: the lane that the index names, or the lane itself when it names none (R130). -/
def shuffle (t : Team) (a : VReg) (l : Nat) (j : Int) : Word :=
  if 0 ≤ j ∧ j < t.tsize then t.getV a j.toNat else t.getV a l

/-- A shuffle whose index comes from a scalar. -/
def shuffleOp (s : State) (sw : Bool) (d a : VReg) (b : SReg) (k : KReg) (j : Nat → Nat → Int) : Out :=
  vectorPend s sw d k [a] [b] fun t l => shuffle t a l (j l (t.getS b).toNat)

/-- A vote: 0 or 1 over the lanes of the set (R132). -/
def voteOp (s : State) (sw : Bool) (d : SReg) (a : VReg) (k : KReg) (p : List Word → Bool) : Out :=
  scalarPend s sw d k [a] fun t => if p ((lanesOf t.tsize (t.lanes k)).map (t.getV a ·)) then 1 else 0

/-- A mask counting form: d from a mask, B from the mask read (R134). -/
def maskCount (s : State) (sw : Bool) (d : SReg) (a : KReg) (f : Team → DWord) : Out :=
  run s sw 1 { kr := [a], sw := [d] } fun s =>
    let t := s.team
    .ok (s.setTeam ((t.setS d (f t)).setCc (flagsMask t.cc (t.getK a))))

/-- shfl.idx. -/
def execShflIdx (sw : Bool) (d a b : VReg) (k : KReg) (s : State) : Out :=
  vectorPend s sw d k [a, b] [] fun t l => shuffle t a l (t.getV b l).toNat
/-- shfl.xor. -/
def execShflXor (sw : Bool) (d a : VReg) (b : SReg) (k : KReg) (s : State) : Out :=
  shuffleOp s sw d a b k fun l x => Nat.xor l x
/-- shfl.up. -/
def execShflUp (sw : Bool) (d a : VReg) (b : SReg) (k : KReg) (s : State) : Out :=
  shuffleOp s sw d a b k fun l x => (l : Int) - x
/-- shfl.dn. -/
def execShflDn (sw : Bool) (d a : VReg) (b : SReg) (k : KReg) (s : State) : Out :=
  shuffleOp s sw d a b k fun l x => (l : Int) + x
/-- bcast. -/
def execBcast (sw : Bool) (d a : VReg) (b : SReg) (k : KReg) (s : State) : Out :=
  shuffleOp s sw d a b k fun _ x => x
/-- rdc.add. -/
def execRdcAdd (sw : Bool) (d : SReg) (a : VReg) (k : KReg) (s : State) : Out := reduceOp s sw d a k .add
/-- rdc.min. -/
def execRdcMin (sw : Bool) (d : SReg) (a : VReg) (k : KReg) (s : State) : Out := reduceOp s sw d a k .min
/-- rdc.max. -/
def execRdcMax (sw : Bool) (d : SReg) (a : VReg) (k : KReg) (s : State) : Out := reduceOp s sw d a k .max
/-- rdc.min.u. -/
def execRdcMinU (sw : Bool) (d : SReg) (a : VReg) (k : KReg) (s : State) : Out := reduceOp s sw d a k .minU
/-- rdc.max.u. -/
def execRdcMaxU (sw : Bool) (d : SReg) (a : VReg) (k : KReg) (s : State) : Out := reduceOp s sw d a k .maxU
/-- rdc.fadd. -/
def execRdcFadd (sw : Bool) (d : SReg) (a : VReg) (k : KReg) (s : State) : Out := reduceOp s sw d a k .fadd
/-- rdc.fmin. -/
def execRdcFmin (sw : Bool) (d : SReg) (a : VReg) (k : KReg) (s : State) : Out := reduceOp s sw d a k .fmin
/-- rdc.fmax. -/
def execRdcFmax (sw : Bool) (d : SReg) (a : VReg) (k : KReg) (s : State) : Out := reduceOp s sw d a k .fmax
/-- scan.add. -/
def execScanAdd (sw : Bool) (d a : VReg) (k : KReg) (s : State) : Out := scanOp s sw d a k .add
/-- scan.min. -/
def execScanMin (sw : Bool) (d a : VReg) (k : KReg) (s : State) : Out := scanOp s sw d a k .min
/-- scan.max. -/
def execScanMax (sw : Bool) (d a : VReg) (k : KReg) (s : State) : Out := scanOp s sw d a k .max
/-- scan.min.u. -/
def execScanMinU (sw : Bool) (d a : VReg) (k : KReg) (s : State) : Out := scanOp s sw d a k .minU
/-- scan.max.u. -/
def execScanMaxU (sw : Bool) (d a : VReg) (k : KReg) (s : State) : Out := scanOp s sw d a k .maxU
/-- scan.fadd. -/
def execScanFadd (sw : Bool) (d a : VReg) (k : KReg) (s : State) : Out := scanOp s sw d a k .fadd
/-- scan.fmin. -/
def execScanFmin (sw : Bool) (d a : VReg) (k : KReg) (s : State) : Out := scanOp s sw d a k .fmin
/-- scan.fmax. -/
def execScanFmax (sw : Bool) (d a : VReg) (k : KReg) (s : State) : Out := scanOp s sw d a k .fmax
/-- vote.any. -/
def execVoteAny (sw : Bool) (d : SReg) (a : VReg) (k : KReg) (s : State) : Out :=
  voteOp s sw d a k fun ws => ws.any (· != 0)
/-- vote.all. -/
def execVoteAll (sw : Bool) (d : SReg) (a : VReg) (k : KReg) (s : State) : Out :=
  voteOp s sw d a k fun ws => ws.all (· != 0)
/-- vote.uni. -/
def execVoteUni (sw : Bool) (d : SReg) (a : VReg) (k : KReg) (s : State) : Out :=
  voteOp s sw d a k fun ws => ws.all (· == ws.headD 0)
/-- ballot: the mask is pending; B is written with the word. -/
def execBallot (sw : Bool) (d : KReg) (a : VReg) (k : KReg) (s : State) : Out :=
  run s sw 1 { vr := [a.toNat], kr := predK k, kw := [d], lanes := some (s.team.lanes k) } fun s =>
    let t := s.team
    let m := maskOf t.tsize fun l => (t.lanes k).getLsbD l && t.getV a l != 0
    .ok ((s.setTeam (t.setCc (flagsMask t.cc m))).addPend (.k d) (.mask m))
/-- kand. -/
def execKand (sw : Bool) (d a b : KReg) (s : State) : Out :=
  maskOp s sw d [a, b] fun t => t.getK a &&& t.getK b &&& t.k0
/-- kor. -/
def execKor (sw : Bool) (d a b : KReg) (s : State) : Out :=
  maskOp s sw d [a, b] fun t => (t.getK a ||| t.getK b) &&& t.k0
/-- kxor. -/
def execKxor (sw : Bool) (d a b : KReg) (s : State) : Out :=
  maskOp s sw d [a, b] fun t => (t.getK a ^^^ t.getK b) &&& t.k0
/-- kandn. -/
def execKandn (sw : Bool) (d a b : KReg) (s : State) : Out :=
  maskOp s sw d [a, b] fun t => t.getK a &&& ~~~(t.getK b) &&& t.k0
/-- knot. -/
def execKnot (sw : Bool) (d a : KReg) (s : State) : Out := maskOp s sw d [a] fun t => ~~~(t.getK a) &&& t.k0
/-- kmov. -/
def execKmov (sw : Bool) (d a : KReg) (s : State) : Out := maskOp s sw d [a] fun t => t.getK a &&& t.k0
/-- kpop. -/
def execKpop (sw : Bool) (d : SReg) (a : KReg) (s : State) : Out :=
  maskCount s sw d a fun t => BitVec.ofNat 64 (popCount (t.getK a))
/-- kfirst: all ones when the mask is empty. -/
def execKfirst (sw : Bool) (d : SReg) (a : KReg) (s : State) : Out :=
  maskCount s sw d a fun t => match firstLane 1024 (t.getK a) with
    | some l => BitVec.ofNat 64 l
    | none => BitVec.allOnes 64
/-- kset. -/
def execKset (sw : Bool) (d : KReg) (i : BitVec 18) (s : State) : Out :=
  maskOp s sw d [] fun t => allLanes i.toNat &&& t.k0

end Sys2Proof.Machine
end

