-- ==== Sys2Proof/Machine/Matrix.lean ====
section
/-! DEFINITION. The matrix unit and the ternary array (R136 to R153, R158): the forms as they issue, and the steps that the
units run, with the sum orders of R97 and R98. -/
namespace Sys2Proof.Machine

/-! Forms. -/

/-- The shape and operand layout of a step (R142): rows and columns of the tile, K, bytes of an A row and of a B
column. -/
structure Shape where
  m : Nat
  n : Nat
  k : Nat
  lb : Nat
  cb : Nat
  deriving DecidableEq, Repr

/-- The shape menu of R142. -/
def shapeOf : Instr → Shape
  | .mmaF8 .. | .mmlF8 .. | .mmaI8 .. | .mmlI8 .. => ⟨32, 32, 32, 32, 32⟩
  | .mmaF4 .. | .mmlF4 .. => ⟨32, 32, 64, 32, 32⟩
  | .mmaH16 .. | .mmlH16 .. => ⟨16, 16, 16, 32, 32⟩
  | .tsa .. | .tsl .. => ⟨32, 32, 64, 16, 64⟩
  | _ => ⟨32, 32, 16, 32, 32⟩

/-- fm has codes that a form accepts (R142). -/
def formFmOk (fm : Word) : Instr → Bool
  | .mmaBf16 .. | .mmlBf16 .. | .mmaH16 .. | .mmlH16 .. => Fm.afmt fm == 2 && Fm.bfmt fm == 2 && Fm.cfmt fm == 0
  | .mmaF16 .. | .mmlF16 .. => Fm.afmt fm == 1 && Fm.bfmt fm == 1 && Fm.cfmt fm == 0
  | .mmaF8 .. | .mmlF8 .. =>
    (Fm.afmt fm == 3 || Fm.afmt fm == 4) && (Fm.bfmt fm == 3 || Fm.bfmt fm == 4) && Fm.cfmt fm == 0
  | .mmaF4 .. | .mmlF4 .. => Fm.afmt fm == 5 && Fm.bfmt fm == 5 && Fm.cfmt fm == 0
  | .mmaI8 .. | .mmlI8 .. =>
    (Fm.afmt fm == 6 || Fm.afmt fm == 7) && (Fm.bfmt fm == 6 || Fm.bfmt fm == 7) && Fm.cfmt fm == 10
  | .tsa .. | .tsl .. => Fm.afmt fm == 9 && Fm.bfmt fm == 6 && Fm.cfmt fm == 10
  | _ => true

/-- A form of the scaled kind (R96, R141). -/
def isScaled : Instr → Bool
  | .mmaF8 .. | .mmaF4 .. | .mmlF8 .. | .mmlF4 .. => true
  | _ => false

/-- A form of the ternary array. -/
def isTernary : Instr → Bool
  | .tsa .. | .tsl .. => true
  | _ => false

/-- An integer or ternary form (R98). -/
def isIntegral : Instr → Bool
  | .mmaI8 .. | .mmlI8 .. | .tsa .. | .tsl .. => true
  | _ => false

/-- The tile that a matrix-class form names. -/
def tileOfForm : Instr → ZReg
  | .mmaBf16 _ z _ _ _ | .mmaF16 _ z _ _ _ | .mmaF8 _ z _ _ _ | .mmaF4 _ z _ _ _ | .mmaI8 _ z _ _ _
  | .mmaH16 _ z _ _ _ | .tsa _ z _ _ _ => z
  | .mmlBf16 _ z _ _ _ _ _ _ | .mmlF16 _ z _ _ _ _ _ _ | .mmlF8 _ z _ _ _ _ _ _ | .mmlF4 _ z _ _ _ _ _ _
  | .mmlI8 _ z _ _ _ _ _ _ | .mmlH16 _ z _ _ _ _ _ _ | .tsl _ z _ _ _ _ _ _ => z
  | .zclr _ z | .zld _ z _ | .zst _ z _ | .zcvt _ z _ => z
  | _ => 0

/-! Operands. -/

/-- Byte b of row i of a group of registers in the row layout (R139). -/
def Team.rowByte (t : Team) (g lb i b : Nat) : Nat :=
  bits (t.getVn (g + b % (lb / 2) / 4) (i + 32 * (b / (lb / 2)))).toNat (8 * (b % 4) + 7) (8 * (b % 4))

/-- A row string as one number, byte 0 lowest (R85, R139). -/
def Team.rowBits (t : Team) (g lb i : Nat) : Nat :=
  (List.range lb).foldr (fun b acc => t.rowByte g lb i b + 256 * acc) 0

/-- Element k of a packed string of n elements in a number of bytes (R85). -/
def elemOf (string bytes n k : Nat) : Nat := (string / 2 ^ (8 * bytes / n * k)) % 2 ^ (8 * bytes / n)

/-- n bytes of the block's stash, as a step of the team reads them (R147). -/
def State.stashBits (s : State) (team off n : Nat) : Nat :=
  let b := s.blockOf (s.teamOf team).block
  ofBytesLE ((List.range n).map fun i => s.placeByte team (b.place (off + i)) 0)

/-- The index along K of the scale block that holds element k (R96, R141). -/
def scaleBlock (scl k : Nat) : Nat := if scl = 1 then k / 32 else k / 16

/-- The scale of row i of A for element k, as UE8M0 bits; none under SCL 0 (R141). -/
def Team.aScale (t : Team) (fm : Word) (g i k : Nat) : Option Nat :=
  let byte (lane q : Nat) : Nat := bits (t.getVn (g + 4) lane).toNat (8 * q + 7) (8 * q)
  match Fm.scl fm with
  | 0 => none
  | 3 => some (byte 0 0)
  | scl => some (byte i (scaleBlock scl k))

/-- The scale of column j of B for element k (R141). -/
def State.bScale (s : State) (team : Nat) (fm : Word) (bs j k : Nat) : Option Nat :=
  match Fm.scl fm with
  | 0 => none
  | 3 => some (s.stashBits team (bs + 1024) 1)
  | scl => some (s.stashBits team (bs + 1024 + 4 * j + scaleBlock scl k) 1)

/-- An element with its scale, exact (R96). -/
def scaledElem (v : Val) (e : Option Nat) : Val := match e with | none => v | some x => applyScale v x

/-! One step. -/

/-- The groups of sixteen products of a row and a column (R97). -/
def groupSums (fm : Word) (acc : Val) : List (List (Val × Val)) → Val
  | [] => acc
  | g :: gs =>
    let products := g.map fun p => mulVal p.1 p.2
    let sum := match products with
      | [] => .fin false 0 0
      | p :: ps => ps.foldl (addVal 0) p
    let r32 (v : Val) : Val := decode32 (Fm.ftz fm) (round32 0 (Fm.sat fm) (Fm.ftz fm) v)
    groupSums fm (r32 (addVal 0 acc (r32 sum))) gs

/-- A list in pieces of n. -/
def chunks {α : Type} (n : Nat) : Nat → List α → List (List α)
  | 0, _ => []
  | k + 1, xs => xs.take n :: chunks n k (xs.drop n)

/-- The element (i, j) of the tile after a floating-point step (R97). -/
def floatElem (fm : Word) (old : Word) (as bs : List Val) : Word :=
  match groupSums fm (decode32 (Fm.ftz fm) old) (chunks 16 (as.length / 16) (as.zip bs)) with
  | v => round32 0 (Fm.sat fm) (Fm.ftz fm) v

/-- The element (i, j) of the tile after an integer or ternary step (R98, R143). -/
def intElem (fm : Word) (old : Word) (as bs : List Int) : Word :=
  let total := old.toInt + ((as.zip bs).map fun p => p.1 * p.2).sum
  BitVec.ofInt 32 (if Fm.sat fm then clampTo .int32 total else total)

/-- MatrixStep (R143): the tile after one step of a form, whose first A register and stash offset are given. -/
def State.stepTile (s : State) (team : Nat) (i : Instr) (fm : Word) (g bs : Nat) (old : List Word) : List Word :=
  let t := s.teamOf team
  let sh := shapeOf i
  let fa := (Fmt.ofCode (Fm.afmt fm)).getD .fp32
  let fb := (Fmt.ofCode (Fm.bfmt fm)).getD .fp32
  let ks := List.range sh.k
  let rows := (List.range sh.m).map fun r => let x := t.rowBits g sh.lb r; ks.map fun k => elemOf x sh.lb sh.k k
  let cols := (List.range sh.n).map fun c =>
    let x := s.stashBits team (bs + c * sh.cb) sh.cb
    ks.map fun k => elemOf x sh.cb sh.k k
  let ftz := Fm.ftz fm
  if isIntegral i then
    let ra := rows.map fun r => r.map (decodeInt fa)
    let cb := cols.map fun c => c.map (decodeInt fb)
    (List.range 1024).map fun e => intElem fm (old.getD e 0) (ra.getD (e / 32) []) (cb.getD (e % 32) [])
  else
    let sc := isScaled i
    let ra := rows.zipIdx.map fun r => r.1.zipIdx.map fun x =>
      scaledElem (decodeFlt fa ftz x.1) (if sc then t.aScale fm g r.2 x.2 else none)
    let cb := cols.zipIdx.map fun c => c.1.zipIdx.map fun x =>
      scaledElem (decodeFlt fb ftz x.1) (if sc then s.bScale team fm bs c.2 x.2 else none)
    (List.range 1024).map fun e =>
      if e / 32 < sh.m ∧ e % 32 < sh.n then
        floatElem fm (old.getD e 0) (ra.getD (e / 32) []) (cb.getD (e % 32) [])
      else old.getD e 0

/-! Issue. -/

/-- Lanes that hold a malformed TERN code in the A registers of a step (R144). -/
def Team.badTernLanes (t : Team) (regs : List Nat) : Mask :=
  maskOf t.tsize fun l => decide (l < 64) && regs.any fun r =>
    (List.range 16).any fun q => badTern .tern (bits (t.getVn r l).toNat (2 * q + 1) (2 * q))

/-- The operand latch after an instruction (R148): R keeps it, and a matching use without R releases it. -/
def Team.useLatch (t : Team) (r : Bool) (first count : Nat) : Team :=
  match t.latch with
  | some l =>
    if l.first = first ∧ l.count = count then (if r then t else { t with latch := none })
    else if r then { t with latch := some { first := first, count := count, rows := (List.range count).map fun j => t.vreg (first + j) } }
    else t
  | none =>
    if r then { t with latch := some { first := first, count := count, rows := (List.range count).map fun j => t.vreg (first + j) } }
    else t

/-- Puts an item into the team's queue (R149). -/
def State.enqueue (s : State) (i : Instr) (steps first off : Nat) : State :=
  let t := s.team
  let m : MItem := { id := s.seq, instr := i, at_ := t.pc, stepsLeft := steps, nextA := first, nextB := off, fm := t.fm,
                     batch := none }
  (s.setTeam { t with mqueue := t.mqueue ++ [m], mopen := true }).bump

/-- The queue of the team's matrix work is full (R390), so the word waits. -/
def withRoom (s : State) (k : Res) : Res := if 16 ≤ s.team.mqueue.length then .moved (s.waitFor .matrix) else k

/-- The checks of a stash operand (R140): the offset, and the ranges from it that the form touches. -/
def stashOperand (s : State) (b : SReg) (spans : List (Int × Nat)) (k : Nat → Res) : Res :=
  let x := (s.team.getS b).toNat
  if x % 128 ≠ 0 ∨ 2 ^ 20 ≤ x then .trap .align 0 { addr := s.team.getS b }
  else if spans.any fun r => decide ((x : Int) + r.1 < 0 ∨ (s.stashSize : Int) < x + r.1 + r.2) then
    .trap .prot 0 { addr := s.team.getS b }
  else k x

/-- A matrix or ternary form of n steps (R143 to R146), with the checks in the order of R158. -/
def matrixOp (s : State) (sw : Bool) (words : Nat) (i : Instr) (a : VReg) (b : SReg) (r : Bool) (n : Nat) (ainc binc : Int) :
    Out :=
  let fm := s.team.fm
  let group := aGroup fm i
  let firsts := (List.range n).map fun (j : Nat) => ((a.toNat : Int) + (j : Int) * ainc).toNat
  let regs := firsts.flatMap fun f => (List.range group).map (f + ·)
  run s sw words { vr := regs, sr := [b], lanes := some s.team.exec } fun s =>
    someLanes s (
      let t := s.team
      if t.ntile ≤ (tileOfForm i).toNat then .trap .regblk 0 {}
      else if ¬ formFmOk t.fm i then .trap .fmt 0 {}
      else stashOperand s b ((List.range n).map fun (j : Nat) => ((j : Int) * binc, bSpan i t.fm)) fun x =>
        let bad := if isTernary i then t.badTernLanes regs else 0
        if bad ≠ 0 then .trap .fmt bad {}
        else withRoom s (
          let s1 := if ainc = 0 then s.setTeam (t.useLatch r a.toNat group) else s
          .ok (s1.enqueue i n a.toNat x)))

/-- mma.bf16 (R143). -/
def execMmaBf16 (sw : Bool) (z : ZReg) (a : VReg) (b : SReg) (r : Bool) (s : State) : Out :=
  matrixOp s sw 1 (.mmaBf16 sw z a b r) a b r 1 0 0
/-- mma.f16 (R143). -/
def execMmaF16 (sw : Bool) (z : ZReg) (a : VReg) (b : SReg) (r : Bool) (s : State) : Out :=
  matrixOp s sw 1 (.mmaF16 sw z a b r) a b r 1 0 0
/-- mma.f8 (R141, R143). -/
def execMmaF8 (sw : Bool) (z : ZReg) (a : VReg) (b : SReg) (r : Bool) (s : State) : Out :=
  matrixOp s sw 1 (.mmaF8 sw z a b r) a b r 1 0 0
/-- mma.f4 (R141, R143). -/
def execMmaF4 (sw : Bool) (z : ZReg) (a : VReg) (b : SReg) (r : Bool) (s : State) : Out :=
  matrixOp s sw 1 (.mmaF4 sw z a b r) a b r 1 0 0
/-- mma.i8 (R98, R143). -/
def execMmaI8 (sw : Bool) (z : ZReg) (a : VReg) (b : SReg) (r : Bool) (s : State) : Out :=
  matrixOp s sw 1 (.mmaI8 sw z a b r) a b r 1 0 0
/-- mma.h16 (R142, R143). -/
def execMmaH16 (sw : Bool) (z : ZReg) (a : VReg) (b : SReg) (r : Bool) (s : State) : Out :=
  matrixOp s sw 1 (.mmaH16 sw z a b r) a b r 1 0 0
/-- tsa (R143, R144). -/
def execTsa (sw : Bool) (z : ZReg) (a : VReg) (b : SReg) (r : Bool) (s : State) : Out :=
  matrixOp s sw 1 (.tsa sw z a b r) a b r 1 0 0

/-- mml.bf16 (R145, R146). -/
def execMmlBf16 (sw : Bool) (z : ZReg) (a : VReg) (b : SReg) (r : Bool) (n : BitVec 8) (ainc : BitVec 6)
    (binc : BitVec 12) (s : State) : Out :=
  matrixOp s sw 2 (.mmlBf16 sw z a b r n ainc binc) a b r n.toNat ainc.toInt (128 * binc.toInt)
/-- mml.f16 (R145, R146). -/
def execMmlF16 (sw : Bool) (z : ZReg) (a : VReg) (b : SReg) (r : Bool) (n : BitVec 8) (ainc : BitVec 6)
    (binc : BitVec 12) (s : State) : Out :=
  matrixOp s sw 2 (.mmlF16 sw z a b r n ainc binc) a b r n.toNat ainc.toInt (128 * binc.toInt)
/-- mml.f8 (R141, R146). -/
def execMmlF8 (sw : Bool) (z : ZReg) (a : VReg) (b : SReg) (r : Bool) (n : BitVec 8) (ainc : BitVec 6)
    (binc : BitVec 12) (s : State) : Out :=
  matrixOp s sw 2 (.mmlF8 sw z a b r n ainc binc) a b r n.toNat ainc.toInt (128 * binc.toInt)
/-- mml.f4 (R141, R146). -/
def execMmlF4 (sw : Bool) (z : ZReg) (a : VReg) (b : SReg) (r : Bool) (n : BitVec 8) (ainc : BitVec 6)
    (binc : BitVec 12) (s : State) : Out :=
  matrixOp s sw 2 (.mmlF4 sw z a b r n ainc binc) a b r n.toNat ainc.toInt (128 * binc.toInt)
/-- mml.i8 (R98, R146). -/
def execMmlI8 (sw : Bool) (z : ZReg) (a : VReg) (b : SReg) (r : Bool) (n : BitVec 8) (ainc : BitVec 6)
    (binc : BitVec 12) (s : State) : Out :=
  matrixOp s sw 2 (.mmlI8 sw z a b r n ainc binc) a b r n.toNat ainc.toInt (128 * binc.toInt)
/-- mml.h16 (R142, R146). -/
def execMmlH16 (sw : Bool) (z : ZReg) (a : VReg) (b : SReg) (r : Bool) (n : BitVec 8) (ainc : BitVec 6)
    (binc : BitVec 12) (s : State) : Out :=
  matrixOp s sw 2 (.mmlH16 sw z a b r n ainc binc) a b r n.toNat ainc.toInt (128 * binc.toInt)
/-- tsl (R144, R146). -/
def execTsl (sw : Bool) (z : ZReg) (a : VReg) (b : SReg) (r : Bool) (n : BitVec 8) (ainc : BitVec 6) (binc : BitVec 12)
    (s : State) : Out :=
  matrixOp s sw 2 (.tsl sw z a b r n ainc binc) a b r n.toNat ainc.toInt (128 * binc.toInt)

/-! Tile transfers. -/

/-- A transfer form: the tile must be granted (R138). -/
def transferOp (s : State) (sw : Bool) (z : ZReg) (reads : List SReg) (k : State → Res) : Out :=
  run s sw 1 { sr := reads, lanes := some s.team.exec } fun s =>
    someLanes s (if s.team.ntile ≤ z.toNat then .trap .regblk 0 {} else k s)

/-- zclr (R151). -/
def execZclr (sw : Bool) (z : ZReg) (s : State) : Out :=
  transferOp s sw z [] fun s => withRoom s (.ok (s.enqueue (.zclr sw z) 1 0 0))

/-- zld (R151). -/
def execZld (sw : Bool) (z : ZReg) (b : SReg) (s : State) : Out :=
  transferOp s sw z [b] fun s => stashOperand s b [(0, 4096)] fun x => withRoom s (.ok (s.enqueue (.zld sw z b) 1 0 x))

/-- zst (R151, R153). A mapped byte needs a page that may be written, as sst does. -/
def execZst (sw : Bool) (z : ZReg) (b : SReg) (s : State) : Out :=
  transferOp s sw z [b] fun s => stashOperand s b [(0, 4096)] fun x =>
    let rows := (List.range 32).map fun r => x + 128 * r
    let ro := s.readonlyRanges s.ctx
    let bad := rows.find? fun o => !s.block.mayWrite o || (s.block.mappedVa o).any (onPages ro)
    let pinned := rows.find? fun o => match s.block.place o with | .lin pa => s.pinnedPa pa | _ => false
    match bad, pinned with
    | some o, _ => .trap .prot 0 { addr := BitVec.ofNat 64 o }
    | none, some o => .trap .rpin 0 { addr := BitVec.ofNat 64 o }
    | none, none => withRoom s (.ok (s.enqueue (.zst sw z b) 1 0 x))

/-- Registers of the group that zcvt writes, by fm.cfmt (R152); none for a code that has no width. -/
def zcvtGroup (fm : Word) : Option Nat :=
  (code10 (Fm.cfmt fm)).map fun f => if f = .tern then 1 else 4 * f.width / 8

/-- zcvt (R152): its alignment, which depends on fm, is checked before HAZARD (R158). -/
def execZcvt (sw : Bool) (z : ZReg) (a : VReg) (s : State) : Out :=
  let g := zcvtGroup s.team.fm
  let regs := (List.range (g.getD 0)).map (a.toNat + ·)
  let odd := match g with | some n => a.toNat % n != 0 | none => false
  run s sw 1 { vw := regs, lanes := some s.team.exec, pre := if odd then some .illegal else none } fun s =>
    someLanes s (
      let t := s.team
      if t.ntile ≤ z.toNat then .trap .regblk 0 {}
      else if g = none ∨ (Fm.afmt t.fm ≠ 0 ∧ Fm.afmt t.fm ≠ 10) then .trap .fmt 0 {}
      else withRoom s (
        let id := s.seq
        let s1 := s.enqueue (.zcvt sw z a) 1 0 0
        let t1 := s1.team
        .ok (s1.setTeam { t1 with
          pend := t1.pend ++ [{ id := id, dst := .v a.toNat (g.getD 0), src := .matrix id, kind := .matrix, landed := false }] })))

/-! The units. -/

/-- The registers and values that a zcvt writes (R152): row i of the result in the row layout. -/
def zcvtValues (fm : Word) (a : Nat) (tile : List Word) : List (Nat × Nat × Word) :=
  match code10 (Fm.afmt fm), code10 (Fm.cfmt fm) with
  | some f, some g =>
    let regs := (zcvtGroup fm).getD 0
    let lb := 4 * g.width
    (List.range 32).flatMap fun i =>
      let string := (List.range 32).foldr (fun j acc =>
        convert g (Fm.rm fm) (Fm.sat fm) (Fm.ftz fm) (decodeElem f (Fm.ftz fm) (tileAt tile i j).toNat) % 2 ^ g.width
          + 2 ^ g.width * acc) 0
      (List.range regs).flatMap fun r =>
        [(a + r, i, BitVec.ofNat 32 (string / 2 ^ (32 * r))), (a + r, i + 32, BitVec.ofNat 32 (string / 2 ^ (8 * (lb / 2) + 32 * r)))]
  | _, _ => []

/-- Bytes that a step reads in the stash, or that a zst writes next: offset and length. -/
def MItem.touches (m : MItem) : Nat × Nat :=
  if isZst m.instr then match m.left with | p :: _ => (m.nextB + p.1, p.2) | [] => (m.nextB, 0)
  else (m.nextB, bSpan m.instr m.fm)

/-- A step may run now (R147, R153, R169, R187, R241): the team's earlier accesses and engine work on the stash bytes that it
touches are over, and no other engine owns a mapped line of them. -/
def State.stepReady (s : State) (team : Nat) (m : MItem) : Bool :=
  let t := s.teamOf team
  let b := s.blockOf t.block
  let (off, n) := m.touches
  let zst := isZst m.instr
  let ps := (List.range ((n + 127) / 128)).map fun i => b.place (off + 128 * i)
  let stored (w : Store) : Bool := w.team == team && decide (w.id < m.id) && (zst || !w.accepted) && ps.any (w.what.meetsBytes · 128)
  n == 0 || s.ordered team m.id && !t.stashBusy m.id off n zst && !s.stores.any stored && !ps.any (t.atomMeets m.id · 128)
    && !(zst && t.pend.any fun p => decide (p.id < m.id) && p.src.unfixed.any fun x => ps.any (x.2.meets p.src.bytes · 128))
    && (b.spanLines [(off, n)]).all fun l => !s.lineOwned l team m.id && !(zst && s.sourceHeld l team m.id)

/-- The effect of one step of an item (R143, R151 to R153). A zst writes one line of its destination at a time. -/
def State.runStep (s : State) (team : Nat) (m : MItem) : State :=
  let t := s.teamOf team
  let z := tileOfForm m.instr
  match m.instr with
  | .zclr .. => s.setTeamOf team (t.setZ z (List.replicate 1024 0))
  | .zld .. =>
    let x := s.stashBits team m.nextB 4096
    s.setTeamOf team (t.setZ z ((List.range 1024).map fun j => BitVec.ofNat 32 (x / 2 ^ (32 * j))))
  | .zst .. =>
    let (off, n) := m.touches
    s.writeEngine t.block ((s.blockOf t.block).place off) (((lineBytes (t.getZ z)).drop m.done).take n)
  | .zcvt _ _ a => s.setTeamOf team (t.setSrc m.id (.lanes (zcvtValues m.fm a.toNat (t.getZ z))))
  | i => s.setTeamOf team (t.setZ z (s.stepTile team i m.fm m.nextA m.nextB (t.getZ z)))

/-- A step reads a poisoned line of a mapped range (R393). -/
def State.stepPoisoned (s : State) (team : Nat) (m : MItem) : Bool :=
  !isZst m.instr && ((s.blockOf (s.teamOf team).block).spanLines [m.touches]).any s.poisoned.contains

/-- An item after a step: none once it is complete. A zcvt is complete with the write of its registers (R150). -/
def MItem.next (m : MItem) : Option MItem :=
  if isZst m.instr then
    let done := m.done + m.touches.2
    if 4096 ≤ done then none else some { m with done := done, owned := max m.owned done }
  else
    let m1 : MItem := { m with stepsLeft := m.stepsLeft - 1, nextA := ((m.nextA : Int) + aStep m.instr).toNat,
                               nextB := ((m.nextB : Int) + bStep m.instr).toNat }
    match m.instr with
    | .zcvt .. => some m1
    | _ => if m.stepsLeft ≤ 1 then none else some m1

/-- A step may begin: the team has its slot, and no pre-emption has stopped it (R156, R389). One that has begun ends. -/
def State.mayStep (s : State) (t : Team) (m : MItem) : Bool :=
  decide (t.status = TeamStatus.live) && decide (0 < m.stepsLeft)
    && (m.begun || !((s.launchOf t.launch).saving && t.stops))

/-- MATRIX_STEP (R146, R149, R150): the unit runs the next step of the team's oldest item, or writes the next line of its zst. -/
def execMatrixStep (team : Nat) (s : State) : Out :=
  .next (match (s.teamOf team).mqueue with
    | [] => s
    | m :: _ =>
      if ¬ s.mayStep (s.teamOf team) m ∨ ¬ s.stepReady team m then s
      else if s.stepPoisoned team m then s.mchkTeam team m.at_
      else
        let s1 := s.runStep team m
        let t := s1.teamOf team
        s1.setTeamOf team { t with mqueue := m.next.toList ++ t.mqueue.tail })

/-- The unit takes the next line of a zst whose turn it is, as the copy engine does (R187). -/
def State.takeZst (s : State) (team n : Nat) : State :=
  let t := s.teamOf team
  match t.mqueue with
  | [] => s
  | m :: ms => match m.from_ (max m.owned m.done) with
    | [] => s
    | (off, len) :: _ =>
      if m.id ≠ n / 4 ∨ ¬ s.mayStep t m ∨ ((s.blockOf t.block).spanLines [(m.nextB + off, len)]).any fun l => s.lineOwned l team m.id then s
      else s.setTeamOf team { t with mqueue := { m with owned := off + len } :: ms }

end Sys2Proof.Machine
end

