-- ==== Sys2Proof/Machine/Image.lean ====
section
/-! DEFINITION. Context images (R390) and block images (R390, R409), as bytes of a context's pool, and their reading back. The
layout of a context image is R390's; what R390 leaves of it, and the layout of a block image, are the model's (log 30). -/
namespace Sys2Proof.Machine

/-! Fields. -/

/-- Little-endian fields of so many bytes each, one after another. -/
def pack (fs : List (Nat × Nat)) : List Byte := fs.flatMap fun f => toBytesLE f.1 f.2

/-- The first n bytes, with zeros where there are fewer. -/
def padTo (n : Nat) (bs : List Byte) : List Byte := bs.take n ++ List.replicate (n - bs.length) 0

/-- The words of some bytes. -/
def toWords : List Byte → List Word
  | a :: b :: c :: d :: bs => (d ++ c ++ b ++ a) :: toWords bs
  | _ => []

/-- The bytes of some words. -/
def ofWords (ws : List Word) : List Byte := ws.flatMap fun w => toBytesLE 4 w.toNat

/-- n bytes of memory from an address up, in one pass over the list. -/
def Memory.dense : Nat → Nat → Memory → List Byte
  | _, 0, _ => []
  | _, n + 1, [] => Memory.unlisted :: List.replicate n Memory.unlisted
  | a, n + 1, (k, x) :: m => if k = a then x :: Memory.dense (a + 1) n m else Memory.unlisted :: Memory.dense (a + 1) n ((k, x) :: m)

/-- A number from a flag. -/
def flag (b : Bool) : Nat := if b then 1 else 0

/-- Bit i for each number i of a list. -/
def bitsOf (n : Nat) (p : Nat → Bool) : Nat := ((List.range n).map fun i => flag (p i) * 2 ^ i).sum

/-! The context image: writing. -/

/-- A pending result has been written to this destination (R46). -/
def Team.pends (t : Team) (f : PendDst → Bool) : Bool := t.pend.any fun p => p.landed && f p.dst

/-- The header (R390). -/
def Team.headerBytes (t : Team) : List Byte :=
  let closed (l : List (Option Nat)) : Nat := (l.filterMap id).eraseDups.length
  pack [(8, t.pc.toNat), (1, t.repIndex),
    (1, flag t.inv.isSome + 2 * flag t.timerArmed + 4 * flag t.timerDue + 8 * flag t.inHandler), (1, t.cc.toNat),
    (1, t.stack.length), (1, t.held.toNat), (1, t.ntile), (1, t.cnext), (1, t.mnext), (4, t.fm.toNat), (2, t.hcount),
    (1, closed (t.copies.map (·.batch))), (1, closed (t.mqueue.map (·.batch))),
    (8, bitsOf 64 fun r => t.pends (PendDst.hitsV · r)), (8, bitsOf 64 fun r => t.pends (PendDst.hitsS · (BitVec.ofNat 6 r))),
    (8, t.tmr.toNat), (8, t.tdue.toNat), (8, t.spilled.length)]

/-- A record of the matrix queue (R390). -/
def MItem.bytes (m : MItem) : List Byte :=
  let ws := encode m.instr
  pack [(4, (ws.getD 0 0).toNat), (4, (ws.getD 1 0).toNat), (1, m.stepsLeft), (1, m.nextA), (2, 0), (4, m.nextB)]

/-- The kinds of copy, as a record of a copy fault bears them. -/
def CopyKind.code : CopyKind → Nat
  | .bytes d c => 2 * flag d + flag c
  | .multicast => 4
  | .tileToStash => 5
  | .stashToTile => 6

/-- A record of a copy fault not yet raised. -/
def Copy.faultBytes (c : Copy) : List Byte :=
  match c.fault with
  | none => []
  | some (cause, d) =>
    let n := (c.tile.orElse fun _ => d.tile).getD ⟨0, 0, 0⟩
    pack [(1, cause.code.toNat), (1, d.sub.toNat), (1, d.level.toNat),
      (1, flag d.walk.isSome + 2 * flag c.tile.isSome + 4 * flag d.tile.isSome + 8 * flag d.unpriced),
      (1, (d.walk.getD (0, 0)).2.toNat), (1, c.kind.code), (2, match c.batch with | some n => n % 65535 + 1 | none => 0),
      (6, c.at_.toNat), (6, d.addr.toNat), (6, (d.walk.getD (0, 0)).1), (4, n.tensor), (2, n.row), (2, n.col),
      (6, c.dst), (6, c.src), (5, c.count), (5, c.done), (8, 0)]

/-- The invert state of one lane (R390). -/
def InvState.laneBytes (v : InvState) (l : Nat) : List Byte :=
  pack [(4, at32 v.low l), (4, at32 v.high l), (4, at32 v.flow l), (4, at32 v.fhigh l), (3, v.runs.getD l 0),
    (1, flag (v.pass.getLsbD l) + 2 * flag (v.bad.getLsbD l))]

/-- The context image of a team that has stopped (R390). exec is the one at the prefix while an inv is in progress. The
privileged entry is empty: a team that has one does not stop for a save. -/
def Team.image (t : Team) : List Byte :=
  let exec := match t.inv with | some v => v.exec | none => t.exec
  t.headerBytes ++ t.regs.s.toList.flatMap (fun (x : DWord) => toBytesLE 8 x.toNat)
    ++ (exec :: t.regs.k.toList).flatMap (fun (m : Mask) => toBytesLE 128 m.toNat)
    ++ padTo 5120 (t.stack.reverse.flatMap Entry.bytes) ++ padTo 320 [] ++ padTo 256 (t.mqueue.flatMap MItem.bytes)
    ++ padTo 768 (t.copies.flatMap Copy.faultBytes)
    ++ (List.range t.ntile).flatMap (fun g => padTo 4096 (ofWords (t.regs.z.toList.getD g [])))
    ++ (List.range 64).flatMap (fun r => padTo (4 * t.tsize) (ofWords (t.vreg r)))
    ++ (List.range t.tsize).flatMap fun l => match t.inv with | some v => v.laneBytes l | none => List.replicate 20 0

/-! The context image: reading. -/

/-- n entries from their bytes, oldest first. -/
def stackOf (bs : List Byte) (n : Nat) : List Entry := (List.range n).map fun i => entryOf ((bs.drop (320 * i)).take 320)

/-- A copy that has stopped with a fault, from its record. -/
def copyOf (bs : List Byte) (id : Nat) : Option Copy :=
  let f := fieldLE bs
  let fl := f 3 1
  let tile : TileName := ⟨f 26 4, f 30 2, f 32 2⟩
  let kind : CopyKind := match f 5 1 with
    | 4 => .multicast | 5 => .tileToStash | 6 => .stashToTile | n => .bytes (bit n 1) (bit n 0)
  (causeOf (f 0 1)).map fun cause =>
    let d : Detail :=
      { sub := BitVec.ofNat 8 (f 1 1), level := BitVec.ofNat 4 (f 2 1), addr := BitVec.ofNat 64 (f 14 6),
        tile := if bit fl 2 then some tile else none, unpriced := bit fl 3,
        walk := if bit fl 0 then some (f 20 6, BitVec.ofNat 3 (f 4 1)) else none }
    { id := id, kind := kind, at_ := BitVec.ofNat 48 (f 8 6), dst := f 34 6, src := f 40 6, count := f 46 5, done := f 51 5,
      targets := [], tile := if bit fl 1 then some tile else none, batch := if f 6 2 = 0 then none else some (f 6 2 - 1),
      fault := some (cause, d) }

/-- A queued item, from its record and what the team's record of the block image tells of it: fm, batch and word. Its reserved
bytes are passed over (log 70). -/
def itemOf (bs extra : List Byte) (id : Nat) : Option MItem :=
  let w := BitVec.ofNat 32 (fieldLE bs 0 4)
  let lits := if requiredLits w = 0 then [] else [BitVec.ofNat 32 (fieldLE bs 4 4)]
  if fieldLE bs 8 1 = 0 then none
  else match decode w lits with
    | .ok (.instr i) =>
      let b := fieldLE extra 4 4
      some { id := id, instr := i, at_ := BitVec.ofNat 48 (fieldLE extra 8 6), stepsLeft := fieldLE bs 8 1,
             nextA := fieldLE bs 9 1, nextB := fieldLE bs 12 4, fm := BitVec.ofNat 32 (fieldLE extra 0 4),
             batch := if b = 0 then none else some (b - 1) }
    | _ => none

/-- The inv in progress, from the prefix's words and the state of its lanes; its next run is the one that begins. -/
def invOf (w lit : Word) (pc : BitVec 48) (lanes : List (List Byte)) (exec : Mask) (from_ : Nat) : Option InvState :=
  match decode w [lit] with
  | .ok (.inv t lo hi tol dir x y len) =>
    let n := lanes.length
    let col (off : Nat) : List Word := lanes.map fun b => BitVec.ofNat 32 (fieldLE b off 4)
    let set_ (j : Nat) : Mask := maskOf n fun l => bit (fieldLE (lanes.getD l []) 19 1) j
    let runs := lanes.map fun b => fieldLE b 16 3
    let most := runs.foldl max 0
    some { t := t, lo := lo, hi := hi, tol := tol, dir := dir, x := x, y := y, len := len.toNat + 1, at_ := pc - 8,
           from_ := from_, lanes := exec, phase := if most = 1 then .high else .bisect,
           pass := set_ 0, bad := set_ 1, low := col 0, high := col 4, flow := col 8, fhigh := col 12, runs := runs,
           exec := exec, begun := false, pos := 0 }
  | _ => none

/-- The results that were pending, written already (R46): the registers, and of the vector registers those of an atomic and those of
a zcvt (R45, R152). -/
def pendsOf (v s k atomic matrix id : Nat) : List Pend :=
  let make (d : PendDst) (kind : PendKind) : Pend := { id := id, dst := d, src := .lanes [], kind := kind, landed := true }
  ((List.range 64).filter (bit v)).map (fun r =>
      make (.v r 1) (if bit atomic r then .atomic else if bit matrix r then .matrix else .other))
    ++ ((List.range 64).filter (bit s)).map (fun r => make (.s (BitVec.ofNat 6 r)) .other)
    ++ ((List.range 8).filter (bit k)).map fun r => make (.k (BitVec.ofNat 3 r)) .other

/-- Two destinations name one register. -/
def PendDst.meets : PendDst → PendDst → Bool
  | .v r n, .v q m => rangesMeet r n q m
  | .s a, .s b => a == b
  | .k a, .k b => a == b
  | _, _ => false

/-- A result as the device knows it, which a team that is saved here keeps: its number, its kind, and whether it changed its
register. -/
def Pend.known (old : List Pend) (p : Pend) : Pend :=
  match old.find? fun q => q.dst.meets p.dst with
  | some q => { p with id := q.id, kind := q.kind, changed := q.changed }
  | none => p

/-- The results that queued items still have to write (R152). -/
def MItem.pends (m : MItem) : List Pend :=
  match m.instr with
  | .zcvt _ _ a => [{ id := m.id, dst := .v a.toNat ((zcvtGroup m.fm).getD 0), src := .matrix m.id, kind := .matrix, landed := false }]
  | _ => []

/-- The registers of a team, from its context image. -/
def regsOf (bs : List Byte) (lanes tiles held : Nat) : Regs :=
  let masks := (chunks 128 9 (bs.drop 576)).map fun b => BitVec.ofNat 1024 (ofBytesLE b)
  let scalars := (chunks 8 64 (bs.drop 64)).map fun b => BitVec.ofNat 64 (ofBytesLE b)
  let zs := (chunks 4096 tiles (bs.drop 8192)).map toWords
  let vs := (chunks (4 * lanes) 64 (bs.drop (8192 + 4096 * tiles))).map toWords
  { v := Vector.ofFn fun i => if bit held (i.val / 8) then vs.getD i.val [] else [],
    s := Vector.ofFn fun i => scalars.getD i.val 0, k := Vector.ofFn fun i => masks.getD (i.val + 1) 0,
    exec := masks.getD 0 0, z := Vector.ofFn fun i => zs.getD i.val [], cc := BitVec.ofNat 5 (fieldLE bs 10 1),
    fm := BitVec.ofNat 32 (fieldLE bs 16 4) }

/-- A team from its context image; `extra` is its record in the block image, `spill` its spill area, `code` the words of its
context. Queued items and pending results that the device knows of the team keep their numbers; others are numbered from `seq`.
Reserved bits are passed over (log 70). -/
def Team.ofImage (t : Team) (bs extra spill : List Byte) (code : Nat → Word) (seq : Nat) : Team :=
  let f := fieldLE bs
  let flags := f 9 1
  let pc := BitVec.ofNat 48 (f 0 8)
  let held := f 12 1
  let regs := regsOf bs t.tsize (f 13 1) held
  let lanes := chunks 20 t.tsize (bs.drop (8192 + 4096 * f 13 1 + 256 * t.tsize))
  let inv := if bit flags 0 then invOf (code (pc.toNat - 8)) (code (pc.toNat - 4)) pc lanes regs.exec seq else none
  let queue := (List.range 16).filterMap fun i =>
    itemOf ((bs.drop (7168 + 16 * i)).take 16) ((extra.drop (64 + 16 * i)).take 16) ((t.mqueue[i]?).elim (seq + i) MItem.id)
  { t with
    regs := match inv with | some v => { regs with exec := v.pass } | none => regs,
    pc := pc, repj := f 8 1, inv := inv, stack := (stackOf (bs.drop 1728) (f 11 1)).reverse,
    spilled := stackOf spill (f 56 1), held := BitVec.ofNat 8 held, ntile := f 13 1, hcount := f 20 2,
    pend := (pendsOf (f 24 8) (f 32 8) (fieldLE extra 43 1) (fieldLE extra 44 8) (fieldLE extra 52 8) seq).map (Pend.known t.pend)
      ++ queue.flatMap MItem.pends, timerArmed := bit flags 1, timerDue := bit flags 2,
    tmr := BitVec.ofNat 64 (f 40 8), tdue := BitVec.ofNat 64 (f 48 8),
    mqueue := queue,
    copies := (List.range 12).filterMap fun i => copyOf ((bs.drop (7424 + 64 * i)).take 64) (seq + 16 + i), changes := 1 }

/-! The block image. -/

/-- The barriers that the teams of a block name, as levels and numbers. -/
def imageBarriers : List (Nat × Nat) :=
  (List.range 8).map (fun n => (0, n)) ++ (List.range 4).map (fun n => (1, n)) ++ (List.range 2).map fun n => (2, n)

/-- The team whose areas are the i-th of a block's share. -/
def State.areaTeam (s : State) (b : Block) (i : Nat) : Option Nat :=
  let l := s.launchOf b.launch
  let va := b.imageVa + (s.kernelOf l).teamOffset (l.lflags.getLsbD 2) i
  b.teams.reverse.find? fun u => (s.teamOf u).privbase = va ∧ (s.teamOf u).status ≠ TeamStatus.stopped

/-- The byte of a team's record that names the wait in which it stopped (R44, R409): bit 0 a barrier, with its level and its
number above, or a bwt.c, a bwt.m, a cwait or a park; 0 for any other, whose word issues again. -/
def Wait.code : Wait → Nat
  | .barrier level n => 1 + 4 * level + 16 * n
  | .batchC .. => 4
  | .batchM .. => 8
  | .child .. => 12
  | .park _ => 16
  | _ => 0

/-- The wait of an imported team, whose results and items are numbered below `upto`. The word of a bwt or a cwait issues again, and
its timeout runs on (R409). -/
def waitOf (code upto : Nat) : Wait :=
  if bit code 0 then .barrier (bits code 3 2) (bits code 7 4) else if code = 16 then .park upto else .none

/-- The 320 bytes that a block image holds of a team: what R390 leaves of it, and its wait with the ns counted so far
(R409). -/
def State.teamRecord (s : State) (b : Block) (i : Nat) : List Byte :=
  match s.areaTeam b i with
  | none => List.replicate 320 0
  | some u =>
    let t := s.teamOf u
    let kind (k : PendKind) : Nat := bitsOf 64 fun r => t.pend.any fun p => p.landed && p.kind == k && p.dst.hitsV r
    let item (m : MItem) : List Byte :=
      pack [(4, m.fm.toNat), (4, match m.batch with | some n => n + 1 | none => 0), (6, m.at_.toNat), (2, 0)]
    padTo 320 (pack [(1, if t.status = .saved then 1 else 2), (1, t.slot % 4), (2, t.index),
      (4, match t.spawner with | some r => r - b.teams.headD 0 + 1 | none => 0), (2, t.spawns), (2, t.launches),
      (2, t.handlerRuns), (1, t.wait.code), (1, t.afterWords + 16 * flag t.afterSw), (4, t.waited), (4, t.timeout), (8, t.energy),
      (5, t.mnext), (5, t.cnext), (1, flag t.mopen + 2 * flag t.copen),
      (1, bitsOf 8 fun r => t.pend.any fun p => p.dst == .k (BitVec.ofNat 3 r)), (8, kind .atomic), (8, kind .matrix), (4, 0)]
      ++ t.mqueue.flatMap item)

/-- The header of a block image: the block, the launch's data copy, the barriers and the mapped ranges. -/
def State.blockHeader (s : State) (b : Block) : List Byte :=
  let first := b.teams.headD 0
  let bar (p : Nat × Nat) : List Byte :=
    let x := s.barrier first p.1 p.2
    pack [(1, flag x.phase), (1, x.arrived.length), (2, bitsOf 16 fun i => x.arrived.contains (first + i)), (4, 0)]
  padTo 256 (pack [(4, 1), (4, b.index), (8, (s.launchOf b.launch).dataVa), (16, 0)] ++ imageBarriers.flatMap bar)
    ++ padTo 256 (b.maps.flatMap fun m => pack [(8, m.off), (8, m.len), (8, m.va)])

/-- The block image. -/
def State.blockImage (s : State) (b : Block) : List Byte :=
  let k := s.kernelOf (s.launchOf b.launch)
  s.blockHeader b ++ (List.range k.teams).flatMap (s.teamRecord b) ++ Memory.dense 0 (1024 * k.stashKiB) b.stash

/-- Writes the image of a block and those of its saved teams into the pool; none where the pool cannot be written. -/
def State.writeImages (s : State) (blk : Nat) : Option State :=
  let b := s.blockOf blk
  let ctx := (s.launchOf b.launch).ctx
  let saved := b.teams.filter fun u => (s.teamOf u).status = TeamStatus.saved
  saved.foldlM (fun (s : State) u => s.writeVirt ctx (s.teamOf u).imageVa (s.teamOf u).image) s
    |>.bind fun s1 => s1.writeVirt ctx b.imageVa (s1.blockImage b)

end Sys2Proof.Machine
end

