-- ==== Sys2Proof/Machine/System.lean ====
section
/-! DEFINITION. The system registers (R310, R363, R394), and the words of class SYS that reach them or drop translations
(R364, R368, R373). -/
namespace Sys2Proof.Machine

/-! Reading. -/

/-- DEVID (R363). -/
def devid : DWord := BitVec.ofNat 64 (0x5A390192 * 2 ^ 32 + 0x41 * 2 ^ 24 + Config.serial.toNat)

/-- Four 16-bit fields of a register, the highest first. -/
def fields16 (a b c d : BitVec 16) : DWord := a ++ b ++ c ++ d

/-- The cost-table registers (R310). -/
def SysRegs.cost (r : SysRegs) (n : Nat) : DWord :=
  let c := r.costs
  match n with
  | 0 => fields16 c.hbm c.ll c.l1 c.stash
  | 1 => fields16 c.mstart c.mstep c.trans c.alu
  | 2 => fields16 c.e3 c.e2 c.e1 c.e0
  | 3 => fields16 0 c.e6 c.e5 c.e4
  | _ => fields16 c.mmae c.tsae c.stat r.plan

/-- CTXSEL as the issuing team reads it (R363). -/
def State.ctxsel (s : State) : DWord := BitVec.ofNat 64 (s.asid s.ctx * 2 ^ 16 + s.ctx % 64)

/-- A system register beside CTXSEL; none for a number that is not assigned (R363, R394). -/
def State.sysWord (s : State) (n : Nat) : Option DWord :=
  let r := s.sys
  match n with
  | 0x000 => some devid
  | 0x001 => some r.mgmtrej
  | 0x002 => some r.mgmtep
  | 0x008 => some 0
  | 0x010 => some (r.cost 0)
  | 0x011 => some (r.cost 1)
  | 0x012 => some (r.cost 2)
  | 0x013 => some (r.cost 3)
  | 0x014 => some (r.cost 4)
  | 0x020 => some r.budget
  | 0x021 => some (BitVec.ofNat 64 (r.oppAsked % 4 + 4 * (r.opp % 4)))
  | 0x022 => some (BitVec.setWidth 64 r.throt)
  | 0x023 => some (BitVec.setWidth 64 r.stashcfg)
  | 0x024 => some 0
  | 0x050 => some (Config.idpk 0)
  | 0x051 => some (Config.idpk 1)
  | 0x052 => some (Config.idpk 2)
  | 0x053 => some (Config.idpk 3)
  | 0x058 => some (Config.fwmeas 0)
  | 0x059 => some (Config.fwmeas 1)
  | 0x05A => some (Config.fwmeas 2)
  | 0x05B => some (Config.fwmeas 3)
  | 0x060 => some r.anonce[0]
  | 0x061 => some r.anonce[1]
  | 0x062 => some r.anonce[2]
  | 0x063 => some r.anonce[3]
  | 0x064 => some r.areport
  | 0x065 => some r.ahandle
  | 0x066 => some (BitVec.setWidth 64 r.astat)
  | 0x100 => some (BitVec.setWidth 64 r.preempt <<< 62)
  | 0x101 => some r.preaddr
  | 0x108 => some (BitVec.setWidth 64 r.softErrors + BitVec.setWidth 64 r.lastingErrors <<< 32)
  | 0x109 => some r.errrec0
  | 0x10A => some r.errrec1
  | 0x10C => some (BitVec.extractLsb' 0 64 s.fenced)
  | 0x10D => some (BitVec.extractLsb' 64 64 s.fenced)
  | 0x10E => some (BitVec.extractLsb' 128 64 s.fenced)
  | _ => none

/-- What sysr reads (R363, R364). -/
def State.sysRead (s : State) (n : Nat) : Option DWord := if n = 0x008 then some s.ctxsel else s.sysWord n

/-! Writing. -/

/-- The system registers with one change. -/
def State.setSys (s : State) (f : SysRegs → SysRegs) : State := { s with sys := f s.sys }

/-- BUDGET (R322, R363): [10:0], 1 to 1900; a value outside the range is ignored. -/
def State.writeBudget (s : State) (x : DWord) : State :=
  let v := x.toNat % 2048
  if 1 ≤ v ∧ v ≤ 1900 then s.setSys fun r => { r with budget := BitVec.ofNat 64 v } else s

/-- A live launch was quoted at a higher point than a code (R325): codes rise as frequencies fall (R318). -/
def State.holdsOpp (s : State) (code : Nat) : Bool := s.launches.any fun e => e.2.phase == .live && decide (e.2.fig.opp < code)

/-- OPP (R325): a point as high as the one in force, or higher, takes effect at once; a lower one when no live launch
was quoted at a higher point. -/
def State.writeOpp (s : State) (x : DWord) : State :=
  let v := x.toNat % 4
  let now := decide (v ≤ s.sys.opp) || !s.holdsOpp v
  if v = 3 then s
  else s.setSys fun r => { r with oppAsked := v, opp := if now then v else r.opp, oppPending := !now }

/-- STASHCFG (R181, R363): [2:0], 7 is ignored. Each core takes it when it may. -/
def State.writeStashcfg (s : State) (x : DWord) : State :=
  let v := BitVec.setWidth 3 x
  if v = 7 then s else s.setSys fun r => { r with stashcfg := v }

/-- TLBINV (R363, R368): drops the translations of an identifier, or of one of its pages. -/
def State.writeTlbinv (s : State) (x : DWord) : State :=
  let id := bits x.toNat 59 48
  match bits x.toNat 63 62 with
  | 1 => s.invalidate id none
  | 2 => s.invalidate id (some (bits x.toNat 47 0))
  | _ => s

/-- A write to a system register (R363): the registers that both sysw and the management window write. Read-only
registers, reserved bits and other numbers are ignored. -/
def State.writeSys (s : State) (n : Nat) (x : DWord) : State :=
  match n with
  | 0x020 => s.writeBudget x
  | 0x021 => s.writeOpp x
  | 0x023 => s.writeStashcfg x
  | 0x024 => s.writeTlbinv x
  | 0x060 => s.setSys fun r => { r with anonce := r.anonce.set 0 x }
  | 0x061 => s.setSys fun r => { r with anonce := r.anonce.set 1 x }
  | 0x062 => s.setSys fun r => { r with anonce := r.anonce.set 2 x }
  | 0x063 => s.setSys fun r => { r with anonce := r.anonce.set 3 x }
  | 0x065 => s.setSys fun r => { r with ahandle := x }
  | 0x101 => s.setSys fun r => { r with preaddr := x &&& ~~~63 }
  | _ => s

/-! The words. -/

/-- The fault of steps 7 and 8 of R59 at a privileged word. -/
def State.sysFault (s : State) (assigned : Bool) : Option Cause :=
  if ¬ s.team.privileged then some .priv else if assigned then none else some .illegal

/-- fqry (R373): a feature of the launch; zero for a number that is not listed. -/
def execFqry (sw : Bool) (d : SReg) (n : BitVec 12) (s : State) : Out :=
  run s sw 1 { sw := [d] } fun s =>
    .ok (s.setTeam (s.team.setS d (s.launch.features.getD n.toNat 0)))

/-- sysr (R363, R364). -/
def execSysr (sw : Bool) (d : SReg) (n : BitVec 12) (s : State) : Out :=
  run s sw 1 { sw := [d], pre := s.sysFault (s.sysRead n.toNat).isSome } fun s =>
    .ok (s.setTeam (s.team.setS d ((s.sysRead n.toNat).getD 0)))

/-- The hold of an invalidation that the issuing team has made (R368). -/
def tlbiHold (s : State) (sw : Bool) : Res := .moved (s.hold (.tlbi s.seq) 0 1 sw)

/-- sysw (R363, R364). A write of TLBINV performs R368, its hold included. -/
def execSysw (sw : Bool) (a : SReg) (n : BitVec 12) (s : State) : Out :=
  run s sw 1 { sr := [a], pre := s.sysFault (s.sysRead n.toNat).isSome } fun s =>
    let s1 := s.writeSys n.toNat (s.team.getS a)
    if n = 0x024 then tlbiHold s1 sw else .ok s1

/-- tlbi (R368): the running context's translations. -/
def execTlbi (sw : Bool) (s : State) : Out :=
  run s sw 1 { pre := s.sysFault true } fun s => tlbiHold (s.invalidate (s.asid s.ctx) none) sw

/-- tlbi.id (R368). -/
def execTlbiId (sw : Bool) (a : SReg) (s : State) : Out :=
  run s sw 1 { sr := [a], pre := s.sysFault true } fun s =>
    let x := (s.team.getS a).toNat
    if 2 ^ 12 ≤ x then .trap .prot 0 {} else tlbiHold (s.invalidate x none) sw

/-- tlbi.va (R368). -/
def execTlbiVa (sw : Bool) (a b : SReg) (s : State) : Out :=
  run s sw 1 { sr := [a, b], pre := s.sysFault true } fun s =>
    let x := (s.team.getS a).toNat
    let va := (s.team.getS b).toNat
    if 2 ^ 12 ≤ x ∨ 2 ^ 48 ≤ va then .trap .prot 0 {} else tlbiHold (s.invalidate x (some va)) sw

/-- Every access with a smaller number has performed, in every team: those that may have used a dropped translation. -/
def State.usersDone (s : State) (before : Nat) : Bool :=
  s.stores.all (fun w => decide (before ≤ w.id))
    && s.teams.all fun e => e.2.loadsFixed before && e.2.atoms.all fun a => decide (before ≤ a.id)

/-- TLBI_DONE (R368): no cache holds a dropped translation, and the accesses that may have used one have performed. -/
def execTlbiDone (team : Nat) (s : State) : Out :=
  let t := s.teamOf team
  .next (match t.wait with
    | .tlbi before =>
      if s.usersDone before ∧ t.status = TeamStatus.live then
        s.setTeamOf team (({ t with wait := .none } : Team).advance s.seq t.afterWords t.afterSw)
      else s
    | _ => s)

/-! Steps of the device that the registers govern. -/

/-- OPP_LOWERING_APPLY (R325). -/
def execOppLoweringApply (s : State) : Out :=
  .next (if s.sys.oppPending ∧ ¬ s.holdsOpp s.sys.oppAsked then
    s.setSys fun r => { r with opp := r.oppAsked, oppPending := false }
  else s)

/-- Stash that open quotes and accepted launches reserve on a core, in KiB; a child's lies within its parent's (R181, R327). -/
def State.stashReserved (s : State) (core : Nat) : Nat :=
  ((s.launches.filter fun e => (e.2.phase == .open || e.2.phase == .live) && e.2.parent.isNone && e.2.coreList.contains core).map
    fun e => e.2.fig.stashk).sum

/-- STASHCFG_APPLY (R181): the core holds no placed block, and the reservations need no more stash than the new size gives. The
dirty sectors of the L1 reach their home slices first. -/
def execStashcfgApply (core : Nat) (s : State) : Out :=
  let new := s.sys.stashcfg.toNat
  let placed := s.blocks.any fun e => e.2.core == core && !e.2.retired && !e.2.saved
  .next (if core < 192 ∧ ¬ placed ∧ s.stashReserved core ≤ 128 * new then
    let s1 := s.performAll (s.stores.filter fun w => w.core == core && w.accepted)
    if s1.stores.any fun w => w.core == core && w.accepted then s1 else { s1 with stashSplit := s1.stashSplit.set core new }
  else s)

/-- COST_REPLAN (R311): the entries rise, each to the one given, and PLAN counts it. -/
def CostTable.raise (old new : CostTable) : CostTable :=
  let up (f : CostTable → BitVec 16) : BitVec 16 := if (f old).toNat ≤ (f new).toNat then f new else f old
  { hbm := up (·.hbm), ll := up (·.ll), l1 := up (·.l1), stash := up (·.stash), mstart := up (·.mstart),
    mstep := up (·.mstep), trans := up (·.trans), alu := up (·.alu), e3 := up (·.e3), e2 := up (·.e2), e1 := up (·.e1),
    e0 := up (·.e0), e6 := up (·.e6), e5 := up (·.e5), e4 := up (·.e4), mmae := up (·.mmae), tsae := up (·.tsae),
    stat := up (·.stat) }

/-- COST_REPLAN (R311). -/
def execCostReplan (t : CostTable) (s : State) : Out :=
  .next (s.setSys fun r => { r with costs := CostTable.raise r.costs t, plan := r.plan + 1 })

/-! Attestation (R374). -/

/-- The bytes of AHANDLE's measurement in a context; none when the context has no such image. -/
def State.measurement (s : State) (ctx : Nat) : Option (List Byte) :=
  if s.sys.ahandle = 0 then some (List.replicate 32 0) else (s.imageOf ctx s.sys.ahandle.toNat).map (·.sha)

/-- The report's first 112 bytes. -/
def State.reportHead (s : State) (sha : List Byte) : List Byte :=
  s.sys.anonce.toList.flatMap (fun (x : DWord) => toBytesLE 8 x.toNat) ++ toBytesLE 8 devid.toNat
    ++ ((List.range 4).flatMap fun i => toBytesLE 8 (Config.fwmeas i).toNat) ++ toBytesLE 8 s.sys.ahandle.toNat ++ sha

/-- The report. -/
def State.report (s : State) (sha : List Byte) : List Byte :=
  s.reportHead sha ++ (List.range 7856).map fun i => Config.signature (s.reportHead sha) i

/-- Every byte of a range can be written in a context. -/
def State.canWrite (s : State) (ctx va n : Nat) : Bool :=
  (List.range n).all fun i => match s.translate ctx (va + i) .write with | .ok _ => true | .error _ => false

/-- A write of AREPORT (R363, R374): the register takes its fields, and ASTAT says whether a report has begun. -/
def State.writeAreport (s : State) (x : DWord) : State :=
  let ctx := bits x.toNat 15 4
  let va := bits x.toNat 63 16
  let ok := s.sys.astat != 1 && decide (ctx < 64 ∧ va % 64 = 0) && (s.measurement ctx).isSome && s.canWrite ctx va 7968
  s.setSys fun r => { r with areport := if r.astat = 1 then r.areport else x &&& ~~~15, astat := if ok then 1 else 3 }

/-- ATTEST_REPORT_DONE (R374): the report is written, and ASTAT becomes done. -/
def execAttestReportDone (s : State) : Out :=
  let x := s.sys.areport.toNat
  let ctx := bits x 15 4
  .next (if s.sys.astat = 1 then
    match (s.measurement ctx).bind fun sha => s.writeVirt ctx (bits x 63 16) (s.report sha) with
    | some s1 => s1.setSys fun r => { r with astat := 2 }
    | none => s.setSys fun r => { r with astat := 3 }
  else s)

end Sys2Proof.Machine
end

