-- ==== Sys2Proof/Machine/Preempt.lean ====
section
/-! DEFINITION. Pre-emption (R106, R156, R166, R223, R282, R303, R326, R389 to R392, R397, R409): the boundary at which a team
stops, the save of a block, its restore, and the operations of PREEMPT with the migration of a launch. -/
namespace Sys2Proof.Machine

/-! The boundary. -/

/-- The team's wait lets a pre-emption in. The hold of launch (R303), of sunmap and of an invalidation, a read that waits for
its line (R352) and a handler end first. -/
def Team.waitStops (t : Team) : Bool :=
  match t.wait with
  | .launching .. | .earlier | .tile _ | .brewing _ | .handler | .unmap | .tlbi _ => false
  | _ => true

/-- The team can be saved (R389, steps 2 to 4): its pending results are written, but for those of queued matrix items, and no step
of it has begun. -/
def Team.savable (t : Team) : Bool :=
  t.stops && t.waitStops && !(t.mqueue.head?.any MItem.begun) && t.pend.all fun p => p.landed || t.mqueue.any fun m => p.src == PendSrc.matrix m.id

/-- Stores of a core that a saved block must not leave behind: those of its teams, those that its teams' releases cover, and
the dirty units of its mapped ranges. -/
def State.storesOf (s : State) (b : Block) : List Store :=
  s.stores.filter fun w => b.teams.contains w.team
    || w.core == b.core && w.accepted && b.teams.any fun u => !(s.teamOf u).rels.isEmpty

/-- A block is placed: it has slots. -/
def Block.placed (b : Block) : Bool := !b.retired && !b.saved

/-- A block can be saved now. A block whose teams have all retired retires instead (R282). -/
def State.blockSavable (s : State) (b : Block) : Bool :=
  b.placed && (b.teams.all fun u => let t := s.teamOf u; t.status = TeamStatus.retired || t.status = TeamStatus.live && t.savable)
    && (b.teams.any fun u => (s.teamOf u).status = TeamStatus.live) && (s.storesOf b).isEmpty && (s.mappedStores b).isEmpty

/-! The save. -/

/-- A team is switched out: the latch is released, and a rep is known by its prefix and the repetition that is next. -/
def Team.switchOut (t : Team) : Team := { t with status := .saved, latch := none, repj := t.repIndex, rep := none }

/-- The loop buffers that hold a body of some teams are emptied. -/
def State.emptyBuffers (s : State) (teams : List Nat) : State :=
  { s with loopBuffers := s.loopBuffers.filter fun e => !teams.contains e.2.team }

/-- The team's private bytes at some addresses reach memory, and leave the L1; none where the pool cannot be written. -/
def State.writeBackPriv (s : State) (team : Nat) (sel : Nat → Bool) : Option State :=
  let t := s.teamOf team
  ((t.privMem.filter fun p => sel p.1).foldlM (fun (s : State) p => s.writeVirt (s.launchOf t.launch).ctx p.1 [p.2]) s).map
    fun s1 => s1.setTeamOf team { s1.teamOf team with privMem := t.privMem.filter fun p => !sel p.1 }

/-- All of them. -/
def State.flushPriv (s : State) (team : Nat) : Option State := s.writeBackPriv team fun _ => true

/-- The L1 evicts a team's private sector (R178, R186): it is written back to the private area, and its next touch fills it
again. -/
def State.evictPriv (s : State) (team va : Nat) : State :=
  let t := s.teamOf team
  if t.status ≠ TeamStatus.live then s
  else (s.writeBackPriv team fun a => a / 128 == va / 128).getD (s.endWith t.launch .host .unmap (some team) t.pc)

/-- A block is saved (R389, steps 5 and 6). When its images cannot be written the host has unmapped the pool (R367). -/
def State.saveBlock (s : State) (blk : Nat) : State :=
  let b := s.blockOf blk
  let live := b.teams.filter fun u => (s.teamOf u).status = TeamStatus.live
  let s1 := live.foldl (fun (s : State) u => s.setTeamOf u (s.teamOf u).switchOut) (s.emptyBuffers live)
  let s2 : State := { s1 with blocks := s1.blocks.set blk { b with saved := true } }
  match (live.foldlM (fun (s : State) u => s.flushPriv u) s2).bind fun s => s.writeImages blk with
  | some s3 => s3
  | none => s2.endWith b.launch .host .unmap

/-- The block is saved as soon as it can be; its stores are ordered first. -/
def State.trySave (s : State) (blk : Nat) : State :=
  let s1 := s.performAll (s.storesOf (s.blockOf blk) ++ s.mappedStores (s.blockOf blk))
  if s1.blockSavable (s1.blockOf blk) then s1.saveBlock blk else s1

/-- Blocks of a launch, by number. -/
def State.blocksOf (s : State) (id : Nat) (f : Block → Bool) : List Nat :=
  (s.blocks.filter fun e => e.2.launch == id && f e.2).map (·.1)

/-- A launch whose pre-emption has fallen due saves what it can (R389). -/
def State.saveWhat (s : State) (id : Nat) : State :=
  let s1 := (s.blocksOf id Block.placed).foldl (fun (s : State) b =>
    if (s.launchOf id).phase = .live then s.trySave b else s) s
  if (s1.blocksOf id Block.placed).isEmpty then s1.setLaunchOf id { s1.launchOf id with saving := false } else s1

/-- A pre-emption of a launch falls due. -/
def State.beginSave (s : State) (id : Nat) : State := (s.setLaunchOf id { s.launchOf id with saving := true }).saveWhat id

/-- MACHINE_PREEMPT (R326, R389): the machine pre-empts a YIELD launch, and no other. -/
def execMachinePreempt (id : Nat) (s : State) : Out :=
  let l := s.launchOf id
  .next (if l.phase = .live ∧ l.yieldClass ∧ l.ending = none ∧ ¬ s.allRetired id then s.beginSave id else s)

/-! The restore. -/

/-- A team has its place again. Its pipe is the one it had (R260). -/
def State.returnTeam (s : State) (core team : Nat) : Option State :=
  let t := s.teamOf team
  if t.status ≠ .saved then some s
  else
    let n := t.tsize / 64
    ((List.range (65 - n)).find? fun f => f % 4 = t.slot % 4 ∧ s.slotFree core f n).map fun f =>
      s.setTeamOf team { t with status := .live, core := core, slot := f, stamp := s.seq }

/-- The wait of a saved team whose event has come while it was switched out is over (R409). A flip takes the team from the barrier's
waiters. -/
def State.endWait (s : State) (team : Nat) (t : Team) : Team :=
  match t.wait with
  | .child id d => match (s.launchOf id).completion with | some w => (t.setS d w).endHold s.seq | none => t
  | .barrier level n => if (s.barrier team level n).waiters.contains team then t else t.endHold s.seq
  | _ => t

/-- A team's context image is read back (R391). What goes on while the team is switched out, its copies, atomics and releases
(R389), and what the image's layout does not hold of a stack entry, is as it stands. None where the pool cannot be read. -/
def State.rereadImage (s : State) (blk team : Nat) : Option State :=
  let t := s.teamOf team
  let b := s.blockOf blk
  let l := s.launchOf t.launch
  let k := s.kernelOf l
  let i := ((List.range k.teams).find? fun i => s.areaTeam b i == some team).getD 0
  let read (va n : Nat) : Option (List Byte) := s.readVirt l.ctx va n
  let code (a : Nat) : Word := BitVec.ofNat 32 ((s.readVirtLE l.ctx a 4).getD 0)
  (read t.imageVa (imageBytes t.tsize t.ntile)).bind fun bs =>
    (read (b.imageVa + 512 + 320 * i) 320).map fun extra =>
      let u := t.ofImage bs extra [] code s.seq
      let keep (old new : List Entry) : List Entry := new.zipIdx.map fun p => match old[p.2]? with
        | some e => { p.1 with detail := e.detail, outer := e.outer, mark := e.mark, again := e.again }
        | none => p.1
      let v : Team := { u with stack := (keep t.stack.reverse u.stack.reverse).reverse, spilled := t.spilled, copies := t.copies }
      { s.setTeamOf team (s.endWait team v) with seq := s.seq + 64 }

/-- The stash of a block is read back from its image (R391). -/
def State.rereadStash (s : State) (blk : Nat) : Option State :=
  let b := s.blockOf blk
  let l := s.launchOf b.launch
  (s.readVirt l.ctx (s.stashVa b) (1024 * (s.kernelOf l).stashKiB)).map fun bs =>
    { s with blocks := s.blocks.set blk { b with stash := Memory.writeBytes [] 0 bs } }

/-- RESTORE_BLOCK (R260, R391, R409): a saved block goes on where it stopped, on a core of its launch that offers what it
needs. Its images are read back; where they cannot be read the host has unmapped the pool (R367). -/
def execRestoreBlock (blk core : Nat) (s : State) : Out :=
  let b := s.blockOf blk
  let l := s.launchOf b.launch
  .next (if b.saved ∧ ¬ b.retired ∧ l.phase = .live ∧ l.ending = none ∧ ¬ l.saving ∧ ¬ l.withdrawn
      ∧ l.coreList.contains core ∧ s.offers b.launch core then
    match b.teams.foldlM (fun (s : State) u => s.returnTeam core u) s with
    | none => s
    | some _ =>
      let saved := b.teams.filter fun u => (s.teamOf u).status = TeamStatus.saved
      match (saved.foldlM (fun (s : State) u => s.rereadImage blk u) s).bind fun s1 =>
        (s1.rereadStash blk).bind fun s2 => b.teams.foldlM (fun (s : State) u => s.returnTeam core u) s2 with
      | some s3 => { s3 with blocks := s3.blocks.set blk { s3.blockOf blk with saved := false, core := core } }
      | none => s.endWith b.launch .host .unmap
  else s)

/-! Migration (R392). -/

/-- The 256 bytes of a launch record (R392). -/
def State.launchRecord (s : State) (id : Nat) : List Byte :=
  let l := s.launchOf id
  let sha := match s.imageOf l.ctx l.image with | some m => m.sha | none => []
  padTo 256 (pack [(8, id)] ++ padTo 32 sha ++
    pack ([(1, l.kernel), (1, flag l.yieldClass), (1, l.lflags.toNat), (1, l.fig.ishare), (2, l.grid.1), (2, l.grid.2.1),
      (2, l.grid.2.2), (6, 0), (8, l.args.toNat)] ++ ((List.range 8).map fun i => (8, (l.features.getD i 0).toNat)) ++
      [(8, l.fig.tq + l.handlerNs - (s.ns - l.accepted)), (8, l.fig.eq + l.handlerShare / 10000 - s.njOf l),
       (8, l.yieldLeft - l.switchedOut), (4, l.retiredBlocks), (4, l.nextBlock), (8, (l.pieces.headD ⟨0, 0⟩).va)]))

/-- Nothing that the launch has begun runs any more, so that its images are whole. -/
def State.quiet (s : State) (id : Nat) : Bool :=
  (s.blocksOf id Block.placed).isEmpty && (s.liveChildren id).isEmpty && !(s.stores.any fun w => w.launch == id)
    && !(s.brews.any fun q => q.launch == id)
    && s.teams.all fun e => e.2.launch != id || e.2.status != TeamStatus.saved
        || e.2.copies.all (fun c => c.fault.isSome) && e.2.atoms.isEmpty && e.2.rels.isEmpty

/-- The images of every block, and in each share of the main piece that no block has a header that says so. -/
def State.writeAll (s : State) (id : Nat) : Option State :=
  let l := s.launchOf id
  let bytes := (s.kernelOf l).shareBytes (l.lflags.getLsbD 2)
  let base := (l.pieces.headD ⟨0, 0⟩).va
  let shares := (List.range (l.coreList.length * l.perCore)).map fun i => base + i * bytes
  (shares.foldlM (fun (s : State) va => s.writeVirt l.ctx va (pack [(4, 0), (4, 0), (8, l.dataVa)])) s).bind fun s1 =>
    (s1.blocksOf id (·.saved)).foldlM (fun (s : State) b => s.writeImages b) s1

/-- The launch leaves the device (R392): its record is written to PREADDR and its reservation returns. It has no completion
word here. -/
def State.leaveDevice (s : State) (id : Nat) : State :=
  let l := s.launchOf id
  let s1 : State := { s with
    mem := s.mem.writeBytes s.sys.preaddr.toNat (s.launchRecord id),
    teams := s.teams.mapVals fun (t : Team) => if t.launch = id ∧ t.status = .saved then t.stop else t,
    blocks := s.blocks.mapVals fun (b : Block) => if b.launch = id then { b with retired := true } else b }
  (s1.setLaunchOf id { l with phase := .done, pieces := [], pins := [] }).endLives l.priced

/-- An export ends (R392). -/
def State.export (s : State) (id : Nat) : State :=
  let s1 : State := { s with teams := s.teams.map fun (e : Nat × Team) => (e.1, if e.2.launch = id ∧ e.2.status = .saved then s.endWait e.1 e.2 else e.2) }
  match s1.writeAll id with
  | some s2 => s2.leaveDevice id
  | none => s1.endWith id .host .unmap

/-- The operation of PREEMPT in progress ends with a state. -/
def State.endOp (s : State) (code : BitVec 2) : State := s.setSys fun r => { r with preempt := code, preemptOp := none }

/-- A write of PREEMPT is over at once, with a state that a read then returns. An operation in progress goes on (R392). -/
def State.answerOp (s : State) (code : BitVec 2) : State := s.setSys fun r => { r with preempt := code }

/-- The operation of PREEMPT in progress is done once its launch is saved, and an export once the launch has left; a launch
that has completed or ended meanwhile has nothing to save (R282). -/
def State.settleOp (s : State) : State :=
  match s.sys.preemptOp with
  | none => s
  | some (id, out) =>
    let l := s.launchOf id
    if l.phase ≠ .live then s.endOp 2
    else if l.saving then s
    else if out then (if s.quiet id then (s.export id).endOp 2 else s)
    else s.endOp 2

/-- What comes about by itself in the launches that are being saved, and the operation of PREEMPT. -/
def State.settlePreempt (s : State) : State :=
  let due := (s.launches.filter fun e => e.2.saving && e.2.phase == .live).map (·.1)
  (due.foldl (fun (s : State) id => s.saveWhat id) s).settleOp

/-! The record read back. -/

/-- The barrier that 8 bytes of a block image describe, with these teams added to those that it has. -/
def Barrier.join (b : Barrier) (bs : List Byte) (first : Nat) (waiters : List Nat) : Barrier :=
  { phase := bit (fieldLE bs 0 1) 0, waiters := b.waiters ++ waiters,
    arrived := b.arrived ++ ((List.range 16).filter (bit (fieldLE bs 2 2))).map (first + ·) }

/-- A team of an imported block, from its record and its image. -/
def State.importTeam (s : State) (id blk first i va : Nat) (x : List Byte) : Team :=
  let l := s.launchOf id
  let k := s.kernelOf l
  let spill := l.lflags.getLsbD 2
  let f := fieldLE x
  let t : Team := ({ Team.vacant with
    status := if f 0 1 = 1 then .saved else .retired, launch := id, block := blk, slot := f 1 1,
    tsize := if i < k.tpb then k.tsize else 64, index := f 2 2, spawner := if f 4 4 = 0 then none else some (first + f 4 4 - 1),
    ntile := k.tiles, privBytes := k.privBytes, spawns := f 8 2, launches := f 10 2, handlerRuns := f 12 2,
    afterWords := bits (f 15 1) 3 0, afterSw := bit (f 15 1) 4, waited := f 16 4, timeout := f 20 4, energy := f 24 8,
    mnext := f 32 5, cnext := f 37 5, mopen := bit (f 42 1) 0, copen := bit (f 42 1) 1,
    wait := waitOf (f 14 1) (s.seq + 64) } : Team).withAreas
      (va + k.teamOffset spill i)
  if f 0 1 = 1 then
    let image := (s.readVirt l.ctx t.imageVa (imageBytes t.tsize k.tiles)).getD []
    let spilled := if spill then (s.readVirt l.ctx t.spillBase (48 * 320)).getD [] else []
    t.ofImage image x spilled (fun a => BitVec.ofNat 32 ((s.readVirtLE l.ctx a 4).getD 0)) s.seq
  else t

/-- The barriers that an imported block's header describes. -/
def State.importBarriers (s : State) (first : Nat) (teams : List Nat) (bs : List Byte) : State :=
  imageBarriers.zipIdx.foldl (fun (s : State) p =>
    let b := s.barrier first p.1.1 p.1.2
    let waiters := teams.filter fun u => (s.teamOf u).wait = .barrier p.1.1 p.1.2
    s.setBarrier first p.1.1 p.1.2 (b.join (bs.drop (32 + 8 * p.2)) first waiters)) s

/-- The mapped ranges of a header, their pages translated anew. -/
def State.importMaps (s : State) (ctx : Nat) (bs : List Byte) : List StashMap :=
  ((chunks 24 8 (bs.drop 256)).filter fun b => fieldLE b 8 8 != 0).map fun b =>
    let va := fieldLE b 16 8
    let len := fieldLE b 8 8
    { off := fieldLE b 0 8, len := len, va := va,
      pages := s.mapPages ctx va len }

/-- A saved block, from its share of the pool piece. -/
def State.importBlock (s : State) (id va : Nat) : State :=
  let l := s.launchOf id
  let k := s.kernelOf l
  let bs := (s.readVirt l.ctx va k.blockImageBytes).getD []
  let record (i : Nat) : List Byte := (bs.drop (512 + 320 * i)).take 320
  let here := (List.range k.teams).filter fun i => fieldLE (record i) 0 1 != 0
  let blk := s.newBlock
  let first := s.newTeam
  let teams := here.map (first + ·)
  let index := fieldLE bs 4 4
  let b : Block := { Block.none with
    launch := id, index := index, coord := coordOf l.grid index, teams := teams, stashKiB := k.stashKiB,
    stash := Memory.writeBytes [] 0 ((bs.drop (512 + 320 * k.teams)).take (1024 * k.stashKiB)), maps := s.importMaps l.ctx bs, saved := true, imageVa := va }
  let s1 := here.foldl (fun (s : State) i => s.setTeamOf (first + i) (s.importTeam id blk first i va (record i))) s
  ({ s1 with blocks := s1.blocks.set blk b, seq := s1.seq + 64 } : State).importBarriers first teams bs

/-- A block that retired before its launch came here: its teams are no participants (R272). -/
def State.importRetired (s : State) (id index : Nat) : State :=
  let k := s.kernelOf (s.launchOf id)
  let blk := s.newBlock
  let first := s.newTeam
  let t (i : Nat) : Team := { Team.vacant with status := .retired, launch := id, block := blk, index := i, tsize := k.tsize }
  let s1 := (List.range k.tpb).foldl (fun (s : State) i => s.setTeamOf (first + i) (t i)) s
  let b : Block :=
    { Block.none with launch := id, index := index, teams := (List.range k.tpb).map (first + ·), retired := true }
  { s1 with blocks := s1.blocks.set blk b }

/-- The shares of a piece that hold a saved block, the first n of them. -/
def State.savedShares (s : State) (ctx base bytes n : Nat) : List Nat :=
  (((List.range (192 * 64)).map fun i => base + i * bytes).filter fun va => s.readVirtLE ctx va 4 == some 1).take n

/-- The bytes of a launch record that must be zero are zero (R5, R392). -/
def recordOk (r : List Byte) : Bool := fieldLE r 50 6 == 0 && fieldLE r 168 88 == 0

/-- The request that a launch record makes in a context (R392). -/
def importRequest (ctx handle n : Nat) (r : List Byte) : Request :=
  let f := fieldLE r
  { ctx := ctx, image := handle, kernel := f 40 1, grid := (f 44 2, f 46 2, f 48 2), args := BitVec.ofNat 64 (f 56 8),
    cls := f 41 1, lflags := BitVec.ofNat 8 (f 42 1), ishare := f 43 1, life := 0, peerNs := Config.importedPeerNs n, qrec := 0,
    compl := Config.importedCompl n / 8 * 8, ring := none, parent := none, depth := 0 }

/-- The launch that a quote of a launch record gives: at TLEFT and ELEFT, with the pool pieces that it had (R392). None where
the features or the pool do not agree, or the record is not valid. -/
def State.importQuote (s : State) (q : Request) (r : List Byte) : Option Launch :=
  let f := fieldLE r
  match s.compute q with
  | .error _ => none
  | .ok l =>
    let k := s.kernelOf l
    let base := f 160 8
    let main : Piece := { va := base, bytes := k.mainBytes q.lflags (l.coreList.length * l.perCore) }
    let dataVa := (s.readVirtLE q.ctx (base + 8) 8).getD 0
    let pieces := if l.dataVa = 0 then [main] else [main, { va := dataVa, bytes := (l.pieces.getD 1 ⟨0, 0⟩).bytes }]
    let free := pieces.all fun p => decide (l.entry.pool ≤ p.va ∧ p.va + p.bytes ≤ l.entry.pool + l.entry.poolLen)
      && (s.poolTaken q.ctx).all fun t => !rangesMeet p.va p.bytes t.va t.bytes
    if recordOk r && (featuresOf q.lflags).zipIdx.all (fun x => f (64 + 8 * x.2) 8 == x.1.toNat) && free then
      some { l with
        phase := .live, accepted := s.ns, features := featuresOf q.lflags, hostDelay := true, pieces := pieces,
        dataVa := if l.dataVa = 0 then 0 else dataVa, yieldLeft := f 144 8, retiredBlocks := f 152 4, nextBlock := f 156 4,
        fig := { l.fig with tq := f 128 8, eq := f 136 8, state := 1 } }
    else none

/-- The launch comes to run here (R392): its blocks stand saved, and placement goes on. -/
def State.arrive (s : State) (id : Nat) (l : Launch) : State :=
  let pins := (s.residentSet l).map fun r => ({ va := r.va, bytes := r.bytes } : Piece)
  let s1 := (pins.foldl (fun (s : State) p => s.pinRange l.ctx p) (s.beginLives l.priced)).setLaunchOf id { l with pins := pins }
  let bytes := (s.kernelOf l).shareBytes (l.lflags.getLsbD 2)
  let shares := s.savedShares l.ctx (l.pieces.headD ⟨0, 0⟩).va bytes (l.nextBlock - l.retiredBlocks)
  let s2 := shares.foldl (fun (s : State) va => s.importBlock id va) s1
  let held := (s2.blocksOf id fun _ => true).map fun b => (s2.blockOf b).index
  let s3 := ((List.range l.nextBlock).filter fun i => !held.contains i).foldl (fun (s : State) i => s.importRetired id i) s2
  if s.residentOk l then s3 else s3.endWith id .host .unmap

/-- The context in which an image of this SHA-256 is registered: the lowest. -/
def State.contextOf (s : State) (sha : List Byte) : Option Image :=
  (List.range 64).findSome? fun c => s.images.find? fun m => m.ctx = c ∧ m.sha = sha

/-- Import (R392). A refused one writes a HOST record of cause MIGRATE and a completion word. Which context is the target when none
registers the image's SHA-256 is open (log 53). -/
def State.importLaunch (s : State) : State :=
  let r := s.mem.readBytes s.sys.preaddr.toNat 256
  let id := s.nextQid
  let s1 : State := { s with nextQid := id + 1, fresh := s.fresh + 1 }
  let found := s.contextOf ((r.drop 8).take 32)
  let q := match found with
    | some m => importRequest m.ctx m.handle s.fresh r
    | none => importRequest (Config.importedContext s.fresh).toNat 0 s.fresh r
  match if found.isSome then s.importQuote q r else none with
  | some l => (s1.arrive id l).answerOp 2
  | none => ((s1.setLaunchOf id { Launch.none with ctx := q.ctx, entry := s.entryFor q, compl := q.compl, image := q.image, kernel := q.kernel,
                                                   accepted := s.ns }).endWith id .host .migrate).answerOp 3

/-! PREEMPT. -/

/-- Save and Export (R389, R392): the forced pre-emption of a FIRM launch leaves its record (R326, R328). A launch whose last block
has retired completes, and the pre-emption has no effect (R282). -/
def State.preemptSave (s : State) (id : Nat) (out : Bool) : State :=
  if (s.launchOf id).phase ≠ .live then s.answerOp 3
  else if s.allRetired id then s.answerOp 2
  else
    let s1 := if (s.launchOf id).yieldClass then s else s.breach id .host .forcepre none 0 {}
    let s2 := s1.setLaunchOf id { s1.launchOf id with hostDelay := true, withdrawn := true }
    ((s2.setSys fun r => { r with preempt := 1, preemptOp := some (id, out) }).beginSave id).settleOp

/-- Restore (R391, R392). -/
def State.preemptRestore (s : State) (id : Nat) : State :=
  if (s.launchOf id).phase ≠ .live ∨ (s.blocksOf id fun b => b.saved && !b.retired).isEmpty then s.answerOp 3
  else (s.setLaunchOf id { s.launchOf id with withdrawn := false, saving := false }).answerOp 2

/-- A write of PREEMPT (R392). -/
def State.writePreempt (s : State) (x : DWord) : State :=
  let id := bits x.toNat 60 0
  match bits x.toNat 63 61 with
  | 1 => s.preemptSave id false
  | 2 => s.preemptRestore id
  | 3 => s.preemptSave id true
  | 4 => s.importLaunch
  | _ => s.answerOp 3

/-- A write of PREEMPT with one operation. -/
def preemptOf (op : BitVec 3) (lid : DWord) : DWord := op ++ BitVec.setWidth 61 lid

end Sys2Proof.Machine
end

