-- ==== Sys2Proof/Machine/Errors.lean ====
section
/-! DEFINITION. Detected errors, the fencing of a core, the halt of a front core and the device reset (R19, R157, R393 to R395),
and thermal emergencies (R278, R323, R398). -/
namespace Sys2Proof.Machine

/-! The log. -/

/-- The code of a unit (R394). -/
def unitCode : ErrUnit → Nat
  | .pipe => 0 | .matrix => 1 | .ternary => 2 | .regCache => 3 | .coreStore => 4 | .slice => 5 | .hbm => 6 | .link => 7
  | .frontCore => 8

/-- An error is logged and counted (R394). -/
def State.logError (s : State) (e : ErrorReport) : State :=
  let last := !e.soft
  s.setSys fun r => { r with
    errrec0 := BitVec.ofNat 64 (flag last * 2 ^ 63 + unitCode e.unit * 2 ^ 56 + e.location.toNat * 2 ^ 48 + s.ns % 2 ^ 48),
    errrec1 := BitVec.setWidth 64 e.addr,
    softErrors := if last then r.softErrors else r.softErrors + 1,
    lastingErrors := if last then r.lastingErrors + 1 else r.lastingErrors }

/-- Launches end with MCHK, a machine breach (R393): those of a list that are live. -/
def State.endAll (s : State) (ids : List Nat) : State :=
  ids.foldl (fun (s : State) id => if (s.launchOf id).phase = .live then s.endWith id .machine .mchk else s) s

/-! A core is fenced. -/

/-- The chains of a core fail (R352): one of their slots runs there. -/
def State.failChains (s : State) (core : Nat) : State :=
  ((s.teams.filter fun e => decide (e.2.status = TeamStatus.live) && e.2.inRebrew && e.2.core == core).map (·.1)).foldl
    (fun (s : State) id =>
      if (s.teamOf id).status = TeamStatus.live then s.asTeam id fun s => s.sliceFault .mchk { party := .machine } else s) s

/-- Launches that hold a team, and with it tiles, or a dirty line on a core. -/
def State.holdersOn (s : State) (core : Nat) : List Nat :=
  ((s.teams.filter fun e => decide (e.2.status = TeamStatus.live) && e.2.core == core).map (fun e => e.2.launch)
    ++ (s.stores.filter fun w => w.core == core).map (·.launch)).eraseDups

/-- A core is fenced (R394): its launches end, its bit is set, and the front cores read no QUOTE or ACCEPT for a while. -/
def State.fenceCore (s : State) (core : Nat) : State :=
  let ids := s.holdersOn core
  let s1 := (s.failChains core).endAll ids
  { s1 with fenced := s1.fenced ||| BitVec.twoPow 192 core, quotingPaused := true }

/-- QUOTING_RESUME (R394). -/
def execQuotingResume (s : State) : Out := .next { s with quotingPaused := false }

/-! A front core halts. -/

/-- The halt of a front core (R370, R395): its streams get ERR 6, and the launches accepted through them end. -/
def State.haltFront (s : State) (n : Nat) : State :=
  let ids := (s.launches.filter fun e => e.2.ring.any fun r => r.stream / 32 == n).map (·.1)
  let s1 := (s.endAll ids)
  (List.range 32).foldl (fun (s : State) i => s.stopStream (32 * n + i) 6) { s1 with haltedFronts := n :: s1.haltedFronts }

/-! Errors. -/

/-- An uncorrectable error in the dirty data of an array (R393): the owner ends with MCHK; a second one within 1 s fences the
core. -/
def State.arrayError (s : State) (e : ErrorReport) : State :=
  let place := e.location.toNat
  let again := s.lastErrors.any fun x => x.1 == e.unit && x.2.1 == place && decide (s.ns ≤ x.2.2 + 10 ^ 9)
  let s1 : State := { s with lastErrors := (e.unit, place, s.ns) :: s.lastErrors.filter fun x => !(x.1 == e.unit && x.2.1 == place) }
  let s2 := match e.owner with
    | some team =>
      if (s1.launchOf (s1.teamOf team).launch).phase = .live then s1.mchkTeam team (s1.teamOf team).pc else s1
    | none => s1
  if again then s2.fenceCore place else s2

/-- An uncorrectable error in a line of the last level or of memory (R393): the line is poisoned; a recomputable one is dropped
without MCHK (R342). -/
def State.lineError (s : State) (e : ErrorReport) : State :=
  match e.tile with
  | some (t, r, c) => match s.tileLine ⟨t, r, c⟩ with
    | some x =>
      if x.recomputable then s.setTile { x with state := .absent, words := [], lastUse := false }
      else s.setTile { x with poisoned := true }
    | none => s
  | none => { s with poisoned := e.addr.toNat / 512 :: s.poisoned.filter (· != e.addr.toNat / 512) }

/-- ERROR_DETECTED (R157, R393): a soft error changes no result; a lasting one has the outcome of its unit. -/
def execErrorDetected (e : ErrorReport) (s : State) : Out :=
  let s1 := s.logError e
  let place := e.location.toNat
  .next (if e.soft then s1
    else match e.unit with
      | .pipe | .matrix | .ternary => if place < 192 then s1.fenceCore place else s1
      | .regCache | .coreStore => if place < 192 then s1.arrayError e else s1
      | .slice | .hbm => s1.lineError e
      | .link => s1
      | .frontCore => if place < 4 then s1.haltFront place else s1)

/-- DEVICE_RESET (R39, R395): every launch ends with STATUS 4, and the device is as after reset. Memory, the poison of its lines
and the fence of its cores stay; each flush marker that awaits the device is answered with FAILED. -/
def execDeviceReset (s : State) : Out :=
  let s1 := s.endAll s.launches.keys
  .next { State.reset with mem := s1.mem, fenced := s1.fenced, poisoned := s1.poisoned, seq := s1.seq, fresh := s1.fresh,
                           agenda := s1.agenda, hostWrites := s1.hostWrites,
                           replies := s1.replies ++ s1.markers.map .failed }

/-! Thermal emergencies. -/

/-- Sixteenths of each pipe of a core that launches of a class have reserved. -/
def State.sharesOn (s : State) (core : Nat) (f : Launch → Bool) : Nat :=
  ((s.holders.filter fun l => f l && l.coreList.contains core).map fun l => l.fig.ishare).sum

/-- Outside a thermal emergency the throttle level is at most this (R323). -/
def State.throttleLimit (s : State) : Nat := 16 - ((List.range 192).map fun c => s.sharesOn c fun _ => true).foldl max 0

/-- The launch whose entry serves a team: a child grid runs within its parent's (R268, R327). -/
def State.rootLaunch (s : State) (t : Team) : Nat := s.rootOf 11 t.launch

/-- The participant of a team's pipe that it issues for. -/
def State.participantOf (s : State) (t : Team) : Participant :=
  if (s.launchOf (s.rootLaunch t)).yieldClass then .yielding else .firm (s.rootLaunch t)

/-- FIRM launches with a team bound to a pipe, ascending. -/
def State.firmsOn (s : State) (pipe : Nat) : List Nat :=
  let bound := s.teams.filter fun e => decide (e.2.status = TeamStatus.live) && e.2.pipe == pipe && !e.2.inRebrew
  (bound.filterMap fun e => match s.participantOf e.2 with | .firm l => some l | _ => none).eraseDups.foldr insertNat []

/-- The weights of a pipe's FIRM launches together. -/
def State.firmShares (s : State) (pipe : Nat) : Nat := ((s.firmsOn pipe).map fun l => (s.launchOf l).fig.ishare).sum

/-- The throttle cuts the share of a FIRM launch (R279, R323): on a pipe where it takes part in the round, or has a team that its
parent's entry serves, the weights of the FIRM launches and T come to more than 16. -/
def State.cuts (s : State) (id : Nat) : Bool :=
  s.teams.any fun e => decide (e.2.status = TeamStatus.live) && !e.2.inRebrew && (e.2.launch == id || s.rootLaunch e.2 == id)
    && !(s.launchOf id).yieldClass && decide (16 < s.firmShares e.2.pipe + s.sys.throt.toNat)

/-- While an emergency lasts, the FIRM launches that it cuts are marked for their records (R323). -/
def State.markCut (s : State) : State :=
  if s.thermal then { s with launches := s.launches.map fun e =>
    (e.1, if e.2.phase == .live && s.cuts e.1 then { e.2 with thermalCut := true } else e.2) }
  else s

/-- The throttle level is within its limit again (R278, R323, R398): the records of the launches that an emergency cut are written,
and the YIELD entries' deficits become 0. -/
def State.endThermal (s : State) (level : BitVec 4) : State :=
  let cut := (s.launches.filter fun e => e.2.thermalCut && e.2.phase == .live).map (·.1)
  let s1 := cut.foldl (fun (s : State) id => s.thermalRecord id) s
  let s2 := s1.setSys fun r => { r with throt := level }
  { s2 with thermal := false, rounds := s2.rounds.mapVals fun (p : PipeRound) => { p with yielding := 0 } }

/-- THERMAL_EMERGENCY (R323): the throttle level moves to another, beyond its limit if it must. One within the limit ends an
emergency that was in force. -/
def execThermalEmergency (level : BitVec 4) (s : State) : Out :=
  .next (if s.throttleLimit < level.toNat then
    ({ s.setSys fun r => { r with throt := level } with thermal := true } : State).markCut
  else if s.thermal then s.endThermal level
  else s.setSys fun r => { r with throt := level })

/-- THERMAL_END (R323). -/
def execThermalEnd (level : BitVec 4) (s : State) : Out :=
  .next (if level.toNat ≤ s.throttleLimit then s.endThermal level else s)

/-- Outside an emergency the throttle level falls to its limit as quotes are accepted (R323). -/
def State.settleThrottle (s : State) : State :=
  if ¬ s.thermal ∧ s.throttleLimit < s.sys.throt.toNat then s.setSys fun r => { r with throt := BitVec.ofNat 4 s.throttleLimit }
  else s

/-- The machine changes the operating point by itself (R325): it may raise it at any time, and in a thermal emergency lower it; the
FIRM launches quoted at a higher point are then marked for their records (R323). -/
def State.moveOpp (s : State) (p : Nat) : State :=
  if p < s.sys.opp then s.setSys fun r => { r with opp := p }
  else if s.thermal ∧ p ≤ 2 then
    let s1 := s.setSys fun r => { r with opp := p, oppPending := r.oppPending && decide (p < r.oppAsked) }
    { s1 with launches := s1.launches.mapVals fun (l : Launch) =>
        if l.phase = .live ∧ ¬ l.yieldClass ∧ l.fig.opp < p then { l with thermalCut := true } else l }
  else s

end Sys2Proof.Machine
end

