-- ==== Sys2Proof/Machine/Rebrew.lean ====
section
/-! DEFINITION. The rebrew server (R342 to R348, R351): the start of a slot, rput, and the two overruns of a slice. -/
namespace Sys2Proof.Machine

/-! The start of a slot. -/

/-- The core and the slot of a level of a server's chain (R343). -/
def levelSlot (server level : Nat) : Nat × Nat :=
  if level ≤ 4 then (server, 63 + level) else (server ^^^ 1, 59 + level)

/-- The slot of a request is free, and its core's cluster has no store that the slot would have to see (R241). -/
def State.levelFree (s : State) (q : BrewReq) : Bool :=
  let p := levelSlot q.core q.level
  !s.unseen p.1 && !s.teams.any fun e => decide (e.2.status = TeamStatus.live) && e.2.core == p.1 && e.2.slot == p.2

/-- The request that a core's server starts next (R343): a deeper one of the chain that it runs, else the first of level 1;
a server runs one chain at a time. -/
def State.nextBrew (s : State) (core : Nat) : Option BrewReq :=
  let mine := s.brews.filter fun q => q.core == core
  if mine.any (·.running) then mine.find? fun q => !q.running && decide (1 < q.level) && s.levelFree q
  else mine.find? fun q => q.level == 1 && s.levelFree q

/-- The addresses that the direct calls of a slice target (R289). -/
def State.sliceCallees (s : State) (ctx : Nat) (r : Recipe) : List Nat :=
  match s.sliceOf ctx r with
  | none => []
  | some (m, lo, c) => (calleesOf (c.walked lo)).map fun w => m.codeVa + 4 * w

/-- The scalars of a rebrew slot (R344). -/
def sliceScalars (q : BrewReq) (l : Launch) : Vector DWord 64 :=
  Vector.ofFn fun i => BitVec.ofNat 64 (match i.val with
    | 1 => q.name.row
    | 2 => q.name.col
    | 3 => q.name.tensor
    | 4 => q.level
    | 5 => l.args.toNat
    | 6 => l.dataVa
    | _ => 0)

/-- The team of a rebrew slot as it begins (R344). -/
def State.sliceTeam (s : State) (q : BrewReq) (r : Recipe) (blk : Nat) : Team :=
  let p := levelSlot q.core q.level
  { Team.vacant with
    status := .live, launch := q.launch, block := blk, core := p.1, slot := p.2, tsize := 64,
    rebrew := some { level := q.level, name := q.name, server := q.core, cyc := r.cyc, nj := r.nj, entry := r.entry,
                     bytes := 4 * r.slen, cdepth := r.cdepth, blocks := r.blocks, callees := s.sliceCallees q.ctx r },
    regs := { Regs.begin 64 r.tiles with s := sliceScalars q (s.launchOf q.launch) },
    pc := BitVec.ofNat 48 r.entry, held := 1, ntile := r.tiles, stamp := s.seq }

/-- A slot starts on a request (R344). The block record of a slot holds its stash; it is no block of a grid. -/
def State.startSlot (s : State) (q : BrewReq) (r : Recipe) : State :=
  let id := s.newTeam
  let blk := s.newBlock
  let b : Block := { Block.none with launch := q.launch, core := (levelSlot q.core q.level).1, teams := [id],
                                     stashKiB := r.stashKiB, retired := true }
  let s1 : State := { s with
    blocks := s.blocks.set blk b,
    brews := s.brews.map fun (x : BrewReq) => if x.name = q.name ∧ x.core = q.core then { x with running := true } else x }
  let s2 := s1.setTeamOf id (s.sliceTeam q r blk)
  if s.isHeader q.ctx r.entry then s2 else s2.asTeam id fun s => s.sliceFault .illegal {}

/-- REBREW_SLOT_START (R343, R344). A record that the host has taken away ends the launch (R341). -/
def execRebrewSlotStart (core : Nat) (s : State) : Out :=
  .next (match s.nextBrew core with
    | none => s
    | some q => match s.recipeOf q.ctx q.name.tensor with
      | none => s.endWith q.launch .host .unmap
      | some r => s.startSlot q r)

/-! The end of a slot. -/

/-- The slot's loads, matrix, copy and tile work are complete (R348). -/
def Team.sliceDone (t : Team) : Bool :=
  t.mqueue.isEmpty && t.copies.isEmpty && t.atoms.isEmpty && t.pend.all (·.landed)

/-- The line that rput makes is installed, and the slot retires (R342, R348): every waiter returns the line. -/
def State.brewDone (s : State) (r : RebrewSlot) (d : Desc) (ws : List Word) : State :=
  let line := lineWords (d.clip r.name.row r.name.col (lineBytes ws))
  let s1 := s.setTile { s.rtile s.ctx r.name with state := .present, stored := false, words := line }
  let s2 : State := { s1 with brews := s1.brews.filter fun q => !(q.core == r.server && q.name == r.name) }
  s2.setTeam { s2.team.stop with status := .retired, stack := [], spilled := [] }

/-- rput (R348, R350). -/
def execRput (sw : Bool) (d : VReg) (s : State) : Out :=
  run s sw 1 { vr := tileRegs d, lanes := if s.team.inRebrew then none else some 0 } fun s =>
    let t := s.team
    match t.rebrew with
    | none => .trap .illegal 0 {}
    | some r =>
      match faultOf t.copies with
      | some (c, cause, det) => .moved (s.raiseCopy c cause det)
      | none =>
        if ¬ t.sliceDone then .moved (s.waitFor (.drain true))
        else match s.desc s.ctx r.name.tensor with
          | .ok x => .moved (s.brewDone r x (t.tileData d))
          | _ => hostUnmap s

/-- SLICE_CYC_OVERRUN (R346): the cycles that the slice declares are used up before its rput. -/
def execSliceCycOverrun (team : Nat) (s : State) : Out :=
  let t := s.teamOf team
  .next (match t.rebrew with
    | some r => if t.status = .live ∧ r.cyc = 0 then s.asTeam team fun s => s.sliceFault .rdepth { costOver := true } else s
    | none => s)

/-- SLICE_NJ_OVERRUN (R346): the slice's energy exceeds the one it declares. -/
def execSliceNjOverrun (team : Nat) (s : State) : Out :=
  let t := s.teamOf team
  .next (match t.rebrew with
    | some r =>
      if t.status = .live ∧ 10000 * r.nj < t.energy then s.asTeam team fun s => s.sliceFault .rdepth { energyOver := true }
      else s
    | none => s)

end Sys2Proof.Machine
end

