-- ==== Sys2Proof/Machine/Window.lean ====
section
/-! DEFINITION. What arrives from the fabric (R360 to R363, R369, R370, R372): the management window with its registers and
tables, the claim, tail writes, the restart of a stream, and writes of memory. -/
namespace Sys2Proof.Machine

/-- A fabric write or claim that the device drops is counted (R360, R361, R363). -/
def State.dropWrite (s : State) : State := s.setSys fun r => { r with mgmtrej := r.mgmtrej + 1 }

/-- An endpoint is the management endpoint (R361). -/
def State.isManager (s : State) (ep : DWord) : Bool := s.managed && ep == s.sys.mgmtep

/-- A write that has performed is acknowledged (R361, R372). -/
def State.ack (s : State) (ep : DWord) : State := { s with replies := s.replies ++ [.ack ep] }

/-- A write of TLBINV is acknowledged once the hold of R368 would end (R363). -/
def State.ackLater (s : State) (ep : DWord) : State := { s with tlbinvHolds := s.tlbinvHolds ++ [(ep, s.seq)] }

/-- The acknowledgements of the writes of TLBINV whose hold is over (R363, R368). -/
def State.settleAcks (s : State) : State :=
  let ended := s.tlbinvHolds.filter fun h => s.usersDone h.2
  { s with tlbinvHolds := s.tlbinvHolds.filter fun h => !s.usersDone h.2, replies := s.replies ++ ended.map fun h => .ack h.1 }

/-- A write that only the management endpoint may make, acknowledged when it has performed. -/
def managerOnly (s : State) (ep : DWord) (k : State → State) : Out :=
  .next (if s.isManager ep then (k s).ack ep else s.dropWrite)

/-- A write of TLBINV by the management endpoint, whose acknowledgement waits (R363). -/
def managerInvalidates (s : State) (ep x : DWord) : Out :=
  .next (if s.isManager ep then (s.writeTlbinv x).ackLater ep else s.dropWrite)

/-! The claim. -/

/-- MANAGEMENT_CLAIM (R361): with the value of DEVID, it names the endpoint, the first time or when it comes from the
management endpoint. -/
def State.claim (s : State) (ep newEp id : DWord) : State :=
  if id = devid ∧ (¬ s.managed ∨ s.isManager ep) then (s.setSys fun r => { r with mgmtep := newEp }).ack ep else s.dropWrite

/-- MANAGEMENT_CLAIM (R361). -/
def execManagementClaim (ep newEp id : DWord) (s : State) : Out := .next (s.claim ep newEp id)

/-! Stream-table entries. -/

/-- The stopped rings of a stream start anew, with delta state zero; launches accepted on them and a FENCE's hold stay
(R370). -/
def State.restartRings (s : State) (i : Nat) : State :=
  [true, false].foldl (fun (s : State) (h : Bool) =>
    let r : Ring := ⟨i, h⟩
    if (s.ringOf r).stopped then s.setRing r { s.ringOf r with delta := .zero, arms := none, stopped := false } else s) s

/-- The rings of a stream that is enabled (R370): nothing is accepted on them, and nothing holds them. -/
def State.startRings (s : State) (i : Nat) : State :=
  (s.setRing ⟨i, true⟩ RingState.start).setRing ⟨i, false⟩ RingState.start

/-- Clearing ERR restarts the stream; ERR 6 stays until a device reset (R370). -/
def State.clearErr (s : State) (i : Nat) : State :=
  if s.streamErr i = 6 then s else (s.setStreamField i 35 1 0).restartRings i

/-- The management endpoint writes bytes of a stream's entry: setting EN starts its rings, clearing ERR restarts them, and
ERR 6 stays (R369, R370). Reserved bits are stored and passed over (log 70). -/
def State.writeStream (s : State) (i off : Nat) (bs : List Byte) : State :=
  let err := s.streamErr i
  let s1 : State := { s with streamTable := s.streamTable.writeBytes (64 * i + off) bs }
  let s2 := if err = 6 then s1.setStreamField i 35 1 6 else s1
  if s2.streamOn i ∧ ¬ s.streamOn i then s2.startRings i
  else if err ≠ 0 ∧ s2.streamErr i = 0 then s2.restartRings i
  else s2

/-- STREAM_TAIL_WRITE (R360, R369): by the management endpoint, or by the ENDPT of the enabled stream. -/
def execStreamTailWrite (ep : DWord) (ring : Ring) (val : BitVec 32) (s : State) : Out :=
  let i := ring.stream
  .next (if s.managed ∧ i < 128 ∧ (s.isManager ep ∨ s.streamOn i ∧ s.endpt i = ep.toNat) then
    (s.setStreamField i (tailOff ring) 4 val.toNat).ack ep
  else s.dropWrite)

/-- STREAM_ERR_CLEAR (R360, R370): ENDPT may write 0 only; the management endpoint writes the field. -/
def execStreamErrClear (ep : DWord) (stream : Nat) (val : BitVec 8) (s : State) : Out :=
  let own := s.streamOn stream && s.endpt stream == ep.toNat
  .next (if s.managed ∧ stream < 128 ∧ val = 0 ∧ (own ∨ s.isManager ep) then (s.clearErr stream).ack ep
    else if stream < 128 ∧ s.isManager ep then (s.writeStream stream 35 [val]).ack ep
    else s.dropWrite)

/-! The window. -/

/-- A write of eight bytes to the window by the management endpoint (R360): a register, or an entry of a table. -/
def State.writeWindow (s : State) (off : Nat) (x : DWord) : State :=
  let at_ := off / 8 * 8
  if at_ < 0x8000 then
    if at_ / 8 = 0x064 then s.writeAreport x else if at_ / 8 = 0x100 then s.writePreempt x
    else s.writeSys (at_ / 8) x
  else if 0x10000 ≤ at_ ∧ at_ < 0x11000 then
    { s with ctxTable := s.ctxTable.writeBytes (at_ - 0x10000) (toBytesLE 8 x.toNat) }
  else if 0x20000 ≤ at_ ∧ at_ < 0x22000 then
    s.writeStream ((at_ - 0x20000) / 64) ((at_ - 0x20000) % 64) (toBytesLE 8 x.toNat)
  else s.dropWrite

/-- The end of the register or the table entry that a window offset lies in; none for a reserved offset (R360). -/
def windowPiece (off : Nat) : Option Nat :=
  if off < 0x8000 then some (off / 8 * 8 + 8)
  else if 0x10000 ≤ off ∧ off < 0x11000 ∨ 0x20000 ≤ off ∧ off < 0x22000 then some (off / 64 * 64 + 64)
  else none

/-- SYSTEM_REGISTER_WRITE (R360, R362, R363, R369). A write of a reserved offset is dropped, and so not acknowledged. -/
def execSystemRegisterWrite (ep : DWord) (off : BitVec 24) (val : DWord) (s : State) : Out :=
  if (windowPiece off.toNat).isNone then .next s.dropWrite
  else if off.toNat / 8 = 0x024 then managerInvalidates s ep val
  else managerOnly s ep fun s => s.writeWindow off.toNat val

/-- BUDGET_WRITE (R322). -/
def execBudgetWrite (ep val : DWord) (s : State) : Out := managerOnly s ep fun s => s.writeBudget val

/-- OPP_WRITE (R325). -/
def execOppWrite (ep val : DWord) (s : State) : Out := managerOnly s ep fun s => s.writeOpp val

/-- STASHCFG_WRITE (R181). -/
def execStashcfgWrite (ep val : DWord) (s : State) : Out := managerOnly s ep fun s => s.writeStashcfg val

/-- A write of TLBINV with one operation (R363, R368). -/
def tlbinvOf (op : BitVec 2) (val : DWord) : DWord := op ++ BitVec.setWidth 62 val

/-- TLBINV_IDENTIFIER (R368): operation 1 of TLBINV. -/
def execTlbinvIdentifier (ep val : DWord) (s : State) : Out := managerInvalidates s ep (tlbinvOf 1 val)

/-- TLBINV_PAGE (R368): operation 2 of TLBINV. -/
def execTlbinvPage (ep val : DWord) (s : State) : Out := managerInvalidates s ep (tlbinvOf 2 val)

/-- AREPORT_WRITE (R374). -/
def execAreportWrite (ep val : DWord) (s : State) : Out := managerOnly s ep fun s => s.writeAreport val

/-- PREEMPT_SAVE (R389, R392): operation 1 of PREEMPT. -/
def execPreemptSave (ep lid : DWord) (s : State) : Out := managerOnly s ep fun s => s.writePreempt (preemptOf 1 lid)

/-- PREEMPT_RESTORE (R391, R392): operation 2 of PREEMPT. -/
def execPreemptRestore (ep lid : DWord) (s : State) : Out := managerOnly s ep fun s => s.writePreempt (preemptOf 2 lid)

/-- PREEMPT_EXPORT (R392): operation 3 of PREEMPT. -/
def execPreemptExport (ep lid : DWord) (s : State) : Out := managerOnly s ep fun s => s.writePreempt (preemptOf 3 lid)

/-- PREEMPT_IMPORT (R392): operation 4 of PREEMPT. -/
def execPreemptImport (ep lid : DWord) (s : State) : Out := managerOnly s ep fun s => s.writePreempt (preemptOf 4 lid)

/-! Writes of memory. -/

/-- The words that describe a tensor, in its descriptor and its recipe record, as memory holds them (R175, R337). -/
def State.describes (s : State) (ctx x : Nat) : Option (List Byte) × Option (List Byte) :=
  let d := s.readVirt ctx (s.ttBase ctx + 64 * x) 64
  (d, d.bind fun bs =>
    match parseDesc ((List.range 8).map fun i => BitVec.ofNat 64 (ofBytesLE ((bs.drop (8 * i)).take 8))) with
    | some e => if e.recomputable then s.readVirt ctx e.recipe 64 else none
    | none => none)

/-- The tensors whose descriptors and recipe records a live launch depends on: those that it names, and the sources of
the recomputable ones (R177, R336, R341). -/
def State.relied (s : State) (l : Launch) : List Nat :=
  l.named ++ l.named.flatMap fun x => (s.sourcesOf l.ctx 8 x).map (·.1)

/-- The host has changed a descriptor or a recipe record that a live launch depends on: the launch ends (R177, R336). -/
def State.endChanged (new old : State) : State :=
  (old.launches.filter fun e => e.2.phase == .live &&
      (old.relied e.2).any fun x => old.describes e.2.ctx x != new.describes e.2.ctx x).foldl
    (fun (s : State) (e : Nat × Launch) =>
      if (s.launchOf e.1).phase = .live then s.endWith e.1 .host .unmap else s) new

/-- The physical addresses of a fabric write (R360, R372); none when it is dropped. -/
def State.fabricPas (s : State) (ep : DWord) (tgt : FabricTarget) (n : Nat) : Option (List Nat) :=
  match tgt with
  | .phys pa => if s.isManager ep ∧ pa.toNat + n ≤ 2 ^ 52 then some ((List.range n).map (pa.toNat + ·)) else none
  | .ctx idx va =>
    let bound := (List.range 128).any fun i => s.streamOn i && s.streamCtx i == idx.toNat && s.endpt i == ep.toNat
    if s.managed ∧ bound then
      (List.range n).mapM fun i => match s.translate idx.toNat (va.toNat + i) .write with
        | .ok pa => some pa
        | .error _ => none
    else none

/-- Where the management window begins (R360). -/
def windowBase : Nat := 0xFFF0000000000

/-- A little-endian doubleword from bytes. -/
def dwordOf (bs : List Byte) : DWord := BitVec.ofNat 64 (ofBytesLE bs)

/-- The value that a write of bytes from byte k on gives a register: its other bytes are as a read gives them. -/
def mergeBytes (old : DWord) (k : Nat) (bs : List Byte) : DWord :=
  let o := toBytesLE 8 old.toNat
  dwordOf (o.take k ++ bs ++ o.drop (k + bs.length))

/-- A write of the management endpoint within one register or table entry (R360). Reserved bits of an entry
are stored and passed over (log 70). -/
def State.writePiece (s : State) (off : Nat) (bs : List Byte) : State :=
  if off < 0x8000 then s.writeWindow off (mergeBytes ((s.sysWord (off / 8)).getD 0) (off % 8) bs)
  else if off < 0x20000 then { s with ctxTable := s.ctxTable.writeBytes (off - 0x10000) bs }
  else s.writeStream ((off - 0x20000) / 64) ((off - 0x20000) % 64) bs

/-- A write of the management endpoint into the window, one register or table entry after the other; what comes to a
reserved offset is dropped (R360). -/
def State.writePieces (s : State) : Nat → Nat → List Byte → State
  | 0, _, _ => s
  | n + 1, off, bs =>
    if bs.isEmpty then s
    else match windowPiece off with
      | none => s.dropWrite
      | some e => (s.writePiece off (bs.take (e - off))).writePieces n e (bs.drop (e - off))

/-- What the ENDPT of an enabled stream may write of its entry: HTAIL and NTAIL, and 0 to ERR (R360). -/
def State.ownsPiece (s : State) (ep : DWord) (off : Nat) (bs : List Byte) : Bool :=
  let i := (off - 0x20000) / 64
  let k := off % 64
  decide (0x20000 ≤ off ∧ off < 0x22000) && s.managed && s.streamOn i && s.endpt i == ep.toNat
    && (decide (16 ≤ k ∧ k + bs.length ≤ 24) || (k == 35 && bs == [0]))

/-- A write into the window by a fabric endpoint (R360, R361). -/
def State.windowWrite (s : State) (ep : DWord) (off : Nat) (bs : List Byte) : State :=
  if off = 0x30000 ∧ bs.length = 16 then s.claim ep (dwordOf (bs.take 8)) (dwordOf (bs.drop 8))
  else if s.isManager ep then
    let s1 := s.writePieces bs.length off bs
    if (windowPiece off).isNone then s1
    else if off < 0x128 ∧ 0x120 < off + bs.length then s1.ackLater ep else s1.ack ep
  else if s.ownsPiece ep off bs then
    (if off % 64 = 35 then s.clearErr ((off - 0x20000) / 64)
    else { s with streamTable := s.streamTable.writeBytes (off - 0x20000) bs }).ack ep
  else s.dropWrite

/-- Where a physical write lies beside the window: outside it, in it, or on its edge. -/
def inWindow (pa n : Nat) : Option Bool :=
  if pa + n ≤ windowBase ∨ windowBase + 2 ^ 24 ≤ pa then some false
  else if windowBase ≤ pa ∧ pa + n ≤ windowBase + 2 ^ 24 then some true
  else none

/-- A write of plain memory performs at its home slices. One that meets a line that an engine owns has not performed yet
(R187). -/
def State.memoryWrite (s : State) (ep : DWord) (pas : List Nat) (data : List Byte) : State :=
  if pas.any fun p => (s.ownerOf (p / 512)).isSome then s
  else
    let s1 : State := { s with mem := (pas.zip data).foldl (fun (m : Memory) (p : Nat × Byte) => m.write p.1 p.2) s.mem }
    (s1.endChanged s).ack ep

/-- HOST_FABRIC_WRITE (R360, R361, R372): the write performs at its home slices or acts on the window, or it is dropped. -/
def execHostFabricWrite (ep : DWord) (tgt : FabricTarget) (data : List Byte) (s : State) : Out :=
  .next (match tgt with
    | .phys pa => match inWindow pa.toNat data.length with
      | some true => s.windowWrite ep (pa.toNat - windowBase) data
      | some false => match s.fabricPas ep tgt data.length with
        | some pas => s.memoryWrite ep pas data
        | none => s.dropWrite
      | none => s.dropWrite
    | .ctx .. => match s.fabricPas ep tgt data.length with
      | some pas => if pas.all fun p => inWindow p 1 == some false then s.memoryWrite ep pas data else s.dropWrite
      | none => s.dropWrite)

/-! Reads (R360, R361, R372). -/

/-- The byte of the window at an offset, as a read returns it: a register, an entry of a table, or zero at a reserved offset. -/
def State.windowByte (s : State) (off : Nat) : Byte :=
  if off < 0x8000 then (toBytesLE 8 ((s.sysWord (off / 8)).getD 0).toNat).getD (off % 8) 0
  else if 0x10000 ≤ off ∧ off < 0x11000 then s.ctxTable.read (off - 0x10000)
  else if 0x20000 ≤ off ∧ off < 0x22000 then s.streamTable.read (off - 0x20000)
  else 0

/-- The registers that any endpoint may read (R361): DEVID, IDPK0 to IDPK3 and FWMEAS0 to FWMEAS3. -/
def publicReg (n : Nat) : Bool := n == 0 || decide (0x50 ≤ n ∧ n < 0x54) || decide (0x58 ≤ n ∧ n < 0x5C)

/-- An endpoint may read bytes of the window: the management endpoint any, the ENDPT of an enabled stream that stream's entry, and
everyone the registers that identify the device (log 68). -/
def State.mayRead (s : State) (ep : DWord) (off n : Nat) : Bool :=
  let i := (off - 0x20000) / 64
  s.isManager ep
    || (decide (0x20000 ≤ off ∧ off < 0x22000 ∧ off % 64 + n ≤ 64) && s.managed && s.streamOn i && s.endpt i == ep.toNat)
    || (decide (off + n ≤ 0x8000) && (List.range n).all fun k => publicReg ((off + k) / 8))

/-- The bytes that a read of an endpoint returns; none for a read that the device refuses. Memory is read as the home slices have
ordered it: at a physical address by the management endpoint, in a context by the ENDPT of an enabled stream of it. -/
def State.fabricRead (s : State) (ep : DWord) (tgt : FabricTarget) (n : Nat) : Option (List Byte) :=
  match tgt with
  | .phys pa => match inWindow pa.toNat n with
    | some true =>
      let off := pa.toNat - windowBase
      if s.mayRead ep off n then some ((List.range n).map fun k => s.windowByte (off + k)) else none
    | some false => if s.isManager ep ∧ pa.toNat + n ≤ 2 ^ 52 then some ((List.range n).map fun k => s.mem.read (pa.toNat + k)) else none
    | none => none
  | .ctx idx va =>
    if s.managed ∧ (List.range 128).any fun i => s.streamOn i && s.streamCtx i == idx.toNat && s.endpt i == ep.toNat then
      s.readVirt idx.toNat va.toNat n
    else none

/-- A read by an endpoint is answered. -/
def State.answerRead (s : State) (ep : DWord) (tgt : FabricTarget) (n : Nat) : State :=
  match s.fabricRead ep tgt n with
  | some bs => { s with replies := s.replies ++ [.data ep bs] }
  | none => s

/-! Peers (R243, R395). -/

/-- A launch's access goes to a peer. -/
def State.reach (s : State) (id peer : Nat) : State :=
  let l := s.launchOf id
  if l.phase = .live ∧ ¬ l.peers.contains peer then s.setLaunchOf id { l with peers := l.peers ++ [peer] } else s

/-- A peer's flush marker arrives, and waits for the device's report. -/
def State.takeMarker (s : State) (peer : Nat) : State := { s with markers := s.markers ++ [peer] }

/-- The device reports to a peer whose marker waits: the writes that came before the marker have performed. -/
def State.answerMarker (s : State) (peer : Nat) : State :=
  if s.markers.contains peer then { s with markers := s.markers.erase peer, replies := s.replies ++ [.report peer] } else s

end Sys2Proof.Machine
end

