-- ==== Sys2Proof/Machine/Dispatch.lean ====
section
/-! DEFINITION. One arm per instruction: the meaning that a word or a step of another agent has. -/
namespace Sys2Proof.Machine

/-- What an instruction does. -/
def exec (i : Instr) (s : State) : Host.Outcome State Fault Refusal :=
  match i with
  | .sadd sw d a b => Sys2Proof.Machine.execSadd sw d a b s
  | .ssub sw d a b => Sys2Proof.Machine.execSsub sw d a b s
  | .smul sw d a b => Sys2Proof.Machine.execSmul sw d a b s
  | .smulh sw d a b => Sys2Proof.Machine.execSmulh sw d a b s
  | .smulhU sw d a b => Sys2Proof.Machine.execSmulhU sw d a b s
  | .scmp sw a b => Sys2Proof.Machine.execScmp sw a b s
  | .saddImm sw d a imm => Sys2Proof.Machine.execSaddImm sw d a imm s
  | .sdiv sw d a b => Sys2Proof.Machine.execSdiv sw d a b s
  | .sdivU sw d a b => Sys2Proof.Machine.execSdivU sw d a b s
  | .srem sw d a b => Sys2Proof.Machine.execSrem sw d a b s
  | .sremU sw d a b => Sys2Proof.Machine.execSremU sw d a b s
  | .sand sw d a b => Sys2Proof.Machine.execSand sw d a b s
  | .sor sw d a b => Sys2Proof.Machine.execSor sw d a b s
  | .sxor sw d a b => Sys2Proof.Machine.execSxor sw d a b s
  | .sshl sw d a b => Sys2Proof.Machine.execSshl sw d a b s
  | .sshr sw d a b => Sys2Proof.Machine.execSshr sw d a b s
  | .ssar sw d a b => Sys2Proof.Machine.execSsar sw d a b s
  | .sandImm sw d a imm => Sys2Proof.Machine.execSandImm sw d a imm s
  | .sorImm sw d a imm => Sys2Proof.Machine.execSorImm sw d a imm s
  | .sshlImm sw d a c => Sys2Proof.Machine.execSshlImm sw d a c s
  | .sshrImm sw d a c => Sys2Proof.Machine.execSshrImm sw d a c s
  | .ssarImm sw d a c => Sys2Proof.Machine.execSsarImm sw d a c s
  | .smin sw d a b => Sys2Proof.Machine.execSmin sw d a b s
  | .smax sw d a b => Sys2Proof.Machine.execSmax sw d a b s
  | .sminU sw d a b => Sys2Proof.Machine.execSminU sw d a b s
  | .smaxU sw d a b => Sys2Proof.Machine.execSmaxU sw d a b s
  | .ssel sw d a b c => Sys2Proof.Machine.execSsel sw d a b c s
  | .sbfx sw d a p w => Sys2Proof.Machine.execSbfx sw d a p w s
  | .sbfi sw d a p w => Sys2Proof.Machine.execSbfi sw d a p w s
  | .spopc sw d a => Sys2Proof.Machine.execSpopc sw d a s
  | .sclz sw d a => Sys2Proof.Machine.execSclz sw d a s
  | .smov sw d a => Sys2Proof.Machine.execSmov sw d a s
  | .smovi sw d imm => Sys2Proof.Machine.execSmovi sw d imm s
  | .slui sw d imm => Sys2Proof.Machine.execSlui sw d imm s
  | .smovSpecial sw d n => Sys2Proof.Machine.execSmovSpecial sw d n s
  | .vadd sw d a b k => Sys2Proof.Machine.execVadd sw d a b k s
  | .vsub sw d a b k => Sys2Proof.Machine.execVsub sw d a b k s
  | .vadds sw d a b k => Sys2Proof.Machine.execVadds sw d a b k s
  | .vsubs sw d a b k => Sys2Proof.Machine.execVsubs sw d a b k s
  | .vaddsU sw d a b k => Sys2Proof.Machine.execVaddsU sw d a b k s
  | .vsubsU sw d a b k => Sys2Proof.Machine.execVsubsU sw d a b k s
  | .vmul sw d a b k => Sys2Proof.Machine.execVmul sw d a b k s
  | .vmulh sw d a b k => Sys2Proof.Machine.execVmulh sw d a b k s
  | .vmulhU sw d a b k => Sys2Proof.Machine.execVmulhU sw d a b k s
  | .vand sw d a b k => Sys2Proof.Machine.execVand sw d a b k s
  | .vor sw d a b k => Sys2Proof.Machine.execVor sw d a b k s
  | .vxor sw d a b k => Sys2Proof.Machine.execVxor sw d a b k s
  | .vshl sw d a b k => Sys2Proof.Machine.execVshl sw d a b k s
  | .vshr sw d a b k => Sys2Proof.Machine.execVshr sw d a b k s
  | .vsar sw d a b k => Sys2Proof.Machine.execVsar sw d a b k s
  | .vmin sw d a b k => Sys2Proof.Machine.execVmin sw d a b k s
  | .vmax sw d a b k => Sys2Proof.Machine.execVmax sw d a b k s
  | .vminU sw d a b k => Sys2Proof.Machine.execVminU sw d a b k s
  | .vmaxU sw d a b k => Sys2Proof.Machine.execVmaxU sw d a b k s
  | .vabs sw d a k => Sys2Proof.Machine.execVabs sw d a k s
  | .vmad sw d a b c => Sys2Proof.Machine.execVmad sw d a b c s
  | .vdot4 sw d a b c => Sys2Proof.Machine.execVdot4 sw d a b c s
  | .vdot4U sw d a b c => Sys2Proof.Machine.execVdot4U sw d a b c s
  | .vcmpEq sw d a b k => Sys2Proof.Machine.execVcmpEq sw d a b k s
  | .vcmpNe sw d a b k => Sys2Proof.Machine.execVcmpNe sw d a b k s
  | .vcmpLt sw d a b k => Sys2Proof.Machine.execVcmpLt sw d a b k s
  | .vcmpLe sw d a b k => Sys2Proof.Machine.execVcmpLe sw d a b k s
  | .vcmpLtu sw d a b k => Sys2Proof.Machine.execVcmpLtu sw d a b k s
  | .vcmpLeu sw d a b k => Sys2Proof.Machine.execVcmpLeu sw d a b k s
  | .vsel sw d a b k m => Sys2Proof.Machine.execVsel sw d a b k m s
  | .vbfxU sw d a p w => Sys2Proof.Machine.execVbfxU sw d a p w s
  | .vbfxS sw d a p w => Sys2Proof.Machine.execVbfxS sw d a p w s
  | .vbfi sw d a p w => Sys2Proof.Machine.execVbfi sw d a p w s
  | .vpopc sw d a k => Sys2Proof.Machine.execVpopc sw d a k s
  | .vclz sw d a k => Sys2Proof.Machine.execVclz sw d a k s
  | .vmov sw d a k => Sys2Proof.Machine.execVmov sw d a k s
  | .vmovi sw d imm => Sys2Proof.Machine.execVmovi sw d imm s
  | .vmovLane sw d => Sys2Proof.Machine.execVmovLane sw d s
  | .vaddImm sw d a imm => Sys2Proof.Machine.execVaddImm sw d a imm s
  | .fadd sw d a b k m => Sys2Proof.Machine.execFadd sw d a b k m s
  | .fsub sw d a b k m => Sys2Proof.Machine.execFsub sw d a b k m s
  | .fmul sw d a b k m => Sys2Proof.Machine.execFmul sw d a b k m s
  | .fma sw d a b c => Sys2Proof.Machine.execFma sw d a b c s
  | .fmin sw d a b k m => Sys2Proof.Machine.execFmin sw d a b k m s
  | .fmax sw d a b k m => Sys2Proof.Machine.execFmax sw d a b k m s
  | .fcmpEq sw d a b k => Sys2Proof.Machine.execFcmpEq sw d a b k s
  | .fcmpNe sw d a b k => Sys2Proof.Machine.execFcmpNe sw d a b k s
  | .fcmpLt sw d a b k => Sys2Proof.Machine.execFcmpLt sw d a b k s
  | .fcmpLe sw d a b k => Sys2Proof.Machine.execFcmpLe sw d a b k s
  | .fcmpUn sw d a b k => Sys2Proof.Machine.execFcmpUn sw d a b k s
  | .fcmpOrd sw d a b k => Sys2Proof.Machine.execFcmpOrd sw d a b k s
  | .fclass sw d a k => Sys2Proof.Machine.execFclass sw d a k s
  | .frcp sw d a k m => Sys2Proof.Machine.execFrcp sw d a k m s
  | .frsq sw d a k m => Sys2Proof.Machine.execFrsq sw d a k m s
  | .fsqrt sw d a k m => Sys2Proof.Machine.execFsqrt sw d a k m s
  | .fexp2 sw d a k m => Sys2Proof.Machine.execFexp2 sw d a k m s
  | .flog2 sw d a k m => Sys2Proof.Machine.execFlog2 sw d a k m s
  | .fsin sw d a k m => Sys2Proof.Machine.execFsin sw d a k m s
  | .fcos sw d a k m => Sys2Proof.Machine.execFcos sw d a k m s
  | .ftanh sw d a k m => Sys2Proof.Machine.execFtanh sw d a k m s
  | .fdiv sw d a b k m => Sys2Proof.Machine.execFdiv sw d a b k m s
  | .froundRn sw d a => Sys2Proof.Machine.execFroundRn sw d a s
  | .froundRz sw d a => Sys2Proof.Machine.execFroundRz sw d a s
  | .froundRu sw d a => Sys2Proof.Machine.execFroundRu sw d a s
  | .froundRd sw d a => Sys2Proof.Machine.execFroundRd sw d a s
  | .fround sw d a => Sys2Proof.Machine.execFround sw d a s
  | .cvt sw d a f g => Sys2Proof.Machine.execCvt sw d a f g s
  | .pack2 sw d a b k => Sys2Proof.Machine.execPack2 sw d a b k s
  | .pack4 sw d a b c => Sys2Proof.Machine.execPack4 sw d a b c s
  | .unpack sw d a f imm => Sys2Proof.Machine.execUnpack sw d a f imm s
  | .bscale sw d a b k => Sys2Proof.Machine.execBscale sw d a b k s
  | .bapply sw d a b k => Sys2Proof.Machine.execBapply sw d a b k s
  | .fmsetImm sw imm => Sys2Proof.Machine.execFmsetImm sw imm s
  | .fmset sw a => Sys2Proof.Machine.execFmset sw a s
  | .fmget sw d => Sys2Proof.Machine.execFmget sw d s
  | .shflIdx sw d a b k => Sys2Proof.Machine.execShflIdx sw d a b k s
  | .shflXor sw d a b k => Sys2Proof.Machine.execShflXor sw d a b k s
  | .shflUp sw d a b k => Sys2Proof.Machine.execShflUp sw d a b k s
  | .shflDn sw d a b k => Sys2Proof.Machine.execShflDn sw d a b k s
  | .bcast sw d a b k => Sys2Proof.Machine.execBcast sw d a b k s
  | .rdcAdd sw d a k => Sys2Proof.Machine.execRdcAdd sw d a k s
  | .rdcMin sw d a k => Sys2Proof.Machine.execRdcMin sw d a k s
  | .rdcMax sw d a k => Sys2Proof.Machine.execRdcMax sw d a k s
  | .rdcMinU sw d a k => Sys2Proof.Machine.execRdcMinU sw d a k s
  | .rdcMaxU sw d a k => Sys2Proof.Machine.execRdcMaxU sw d a k s
  | .rdcFadd sw d a k => Sys2Proof.Machine.execRdcFadd sw d a k s
  | .rdcFmin sw d a k => Sys2Proof.Machine.execRdcFmin sw d a k s
  | .rdcFmax sw d a k => Sys2Proof.Machine.execRdcFmax sw d a k s
  | .scanAdd sw d a k => Sys2Proof.Machine.execScanAdd sw d a k s
  | .scanMin sw d a k => Sys2Proof.Machine.execScanMin sw d a k s
  | .scanMax sw d a k => Sys2Proof.Machine.execScanMax sw d a k s
  | .scanMinU sw d a k => Sys2Proof.Machine.execScanMinU sw d a k s
  | .scanMaxU sw d a k => Sys2Proof.Machine.execScanMaxU sw d a k s
  | .scanFadd sw d a k => Sys2Proof.Machine.execScanFadd sw d a k s
  | .scanFmin sw d a k => Sys2Proof.Machine.execScanFmin sw d a k s
  | .scanFmax sw d a k => Sys2Proof.Machine.execScanFmax sw d a k s
  | .voteAny sw d a k => Sys2Proof.Machine.execVoteAny sw d a k s
  | .voteAll sw d a k => Sys2Proof.Machine.execVoteAll sw d a k s
  | .voteUni sw d a k => Sys2Proof.Machine.execVoteUni sw d a k s
  | .ballot sw d a k => Sys2Proof.Machine.execBallot sw d a k s
  | .kand sw d a b => Sys2Proof.Machine.execKand sw d a b s
  | .kor sw d a b => Sys2Proof.Machine.execKor sw d a b s
  | .kxor sw d a b => Sys2Proof.Machine.execKxor sw d a b s
  | .kandn sw d a b => Sys2Proof.Machine.execKandn sw d a b s
  | .knot sw d a => Sys2Proof.Machine.execKnot sw d a s
  | .kmov sw d a => Sys2Proof.Machine.execKmov sw d a s
  | .kpop sw d a => Sys2Proof.Machine.execKpop sw d a s
  | .kfirst sw d a => Sys2Proof.Machine.execKfirst sw d a s
  | .kset sw d imm => Sys2Proof.Machine.execKset sw d imm s
  | .ld sw t b x w h acq => Sys2Proof.Machine.execLd sw t b x w h acq s
  | .st sw t b x w h rel => Sys2Proof.Machine.execSt sw t b x w h rel s
  | .sld sw t b x w acq => Sys2Proof.Machine.execSld sw t b x w acq s
  | .sst sw t b x w rel => Sys2Proof.Machine.execSst sw t b x w rel s
  | .pld sw t b x w => Sys2Proof.Machine.execPld sw t b x w s
  | .pst sw t b x w => Sys2Proof.Machine.execPst sw t b x w s
  | .tld sw d a b c => Sys2Proof.Machine.execTld sw d a b c s
  | .tst sw d a b c => Sys2Proof.Machine.execTst sw d a b c s
  | .smap sw a b c => Sys2Proof.Machine.execSmap sw a b c s
  | .sunmap sw a b => Sys2Proof.Machine.execSunmap sw a b s
  | .pref sw b x h => Sys2Proof.Machine.execPref sw b x h s
  | .discard sw a b c => Sys2Proof.Machine.execDiscard sw a b c s
  | .lastuse sw a b c => Sys2Proof.Machine.execLastuse sw a b c s
  | .cwb sw a b => Sys2Proof.Machine.execCwb sw a b s
  | .amoAdd sw t b x w o => Sys2Proof.Machine.execAmoAdd sw t b x w o s
  | .amoMin sw t b x w o => Sys2Proof.Machine.execAmoMin sw t b x w o s
  | .amoMax sw t b x w o => Sys2Proof.Machine.execAmoMax sw t b x w o s
  | .amoAnd sw t b x w o => Sys2Proof.Machine.execAmoAnd sw t b x w o s
  | .amoOr sw t b x w o => Sys2Proof.Machine.execAmoOr sw t b x w o s
  | .amoXor sw t b x w o => Sys2Proof.Machine.execAmoXor sw t b x w o s
  | .amoXchg sw t b x w o => Sys2Proof.Machine.execAmoXchg sw t b x w o s
  | .amoFadd sw t b x o => Sys2Proof.Machine.execAmoFadd sw t b x o s
  | .amocas sw t b x w o => Sys2Proof.Machine.execAmocas sw t b x w o s
  | .redAdd sw t b x w rel => Sys2Proof.Machine.execRedAdd sw t b x w rel s
  | .redMin sw t b x w rel => Sys2Proof.Machine.execRedMin sw t b x w rel s
  | .redMax sw t b x w rel => Sys2Proof.Machine.execRedMax sw t b x w rel s
  | .redAnd sw t b x w rel => Sys2Proof.Machine.execRedAnd sw t b x w rel s
  | .redOr sw t b x w rel => Sys2Proof.Machine.execRedOr sw t b x w rel s
  | .redXor sw t b x w rel => Sys2Proof.Machine.execRedXor sw t b x w rel s
  | .redFadd sw t b x rel => Sys2Proof.Machine.execRedFadd sw t b x rel s
  | .fen sw p o => Sys2Proof.Machine.execFen sw p o s
  | .ifen sw => Sys2Proof.Machine.execIfen sw s
  | .cpy sw y x a b c => Sys2Proof.Machine.execCpy sw y x a b c s
  | .cpym sw m a b c => Sys2Proof.Machine.execCpym sw m a b c s
  | .cpytTs sw a b c => Sys2Proof.Machine.execCpytTs sw a b c s
  | .cpytSt sw a b c => Sys2Proof.Machine.execCpytSt sw a b c s
  | .bclC sw d => Sys2Proof.Machine.execBclC sw d s
  | .bclM sw d => Sys2Proof.Machine.execBclM sw d s
  | .bwtC sw a timeout => Sys2Proof.Machine.execBwtC sw a timeout s
  | .bwtM sw a timeout => Sys2Proof.Machine.execBwtM sw a timeout s
  | .bqryC sw d => Sys2Proof.Machine.execBqryC sw d s
  | .bqryM sw d => Sys2Proof.Machine.execBqryM sw d s
  | .mmaBf16 sw z a b r => Sys2Proof.Machine.execMmaBf16 sw z a b r s
  | .mmaF16 sw z a b r => Sys2Proof.Machine.execMmaF16 sw z a b r s
  | .mmaF8 sw z a b r => Sys2Proof.Machine.execMmaF8 sw z a b r s
  | .mmaF4 sw z a b r => Sys2Proof.Machine.execMmaF4 sw z a b r s
  | .mmaI8 sw z a b r => Sys2Proof.Machine.execMmaI8 sw z a b r s
  | .mmaH16 sw z a b r => Sys2Proof.Machine.execMmaH16 sw z a b r s
  | .tsa sw z a b r => Sys2Proof.Machine.execTsa sw z a b r s
  | .mmlBf16 sw z a b r n ainc binc => Sys2Proof.Machine.execMmlBf16 sw z a b r n ainc binc s
  | .mmlF16 sw z a b r n ainc binc => Sys2Proof.Machine.execMmlF16 sw z a b r n ainc binc s
  | .mmlF8 sw z a b r n ainc binc => Sys2Proof.Machine.execMmlF8 sw z a b r n ainc binc s
  | .mmlF4 sw z a b r n ainc binc => Sys2Proof.Machine.execMmlF4 sw z a b r n ainc binc s
  | .mmlI8 sw z a b r n ainc binc => Sys2Proof.Machine.execMmlI8 sw z a b r n ainc binc s
  | .mmlH16 sw z a b r n ainc binc => Sys2Proof.Machine.execMmlH16 sw z a b r n ainc binc s
  | .tsl sw z a b r n ainc binc => Sys2Proof.Machine.execTsl sw z a b r n ainc binc s
  | .zclr sw z => Sys2Proof.Machine.execZclr sw z s
  | .zld sw z b => Sys2Proof.Machine.execZld sw z b s
  | .zst sw z b => Sys2Proof.Machine.execZst sw z b s
  | .zcvt sw z a => Sys2Proof.Machine.execZcvt sw z a s
  | .br sw o => Sys2Proof.Machine.execBr sw o s
  | .bcc sw c o => Sys2Proof.Machine.execBcc sw c o s
  | .bmz sw k o => Sys2Proof.Machine.execBmz sw k o s
  | .bmnz sw k o => Sys2Proof.Machine.execBmnz sw k o s
  | .call sw o => Sys2Proof.Machine.execCall sw o s
  | .mif sw k o => Sys2Proof.Machine.execMif sw k o s
  | .melse sw o => Sys2Proof.Machine.execMelse sw o s
  | .lpb sw d o bound steps => Sys2Proof.Machine.execLpb sw d o bound steps s
  | .lpbW sw o bound steps => Sys2Proof.Machine.execLpbW sw o bound steps s
  | .lpe sw o => Sys2Proof.Machine.execLpe sw o s
  | .mend sw => Sys2Proof.Machine.execMend sw s
  | .mbrk sw k => Sys2Proof.Machine.execMbrk sw k s
  | .mcont sw k => Sys2Proof.Machine.execMcont sw k s
  | .exit sw => Sys2Proof.Machine.execExit sw s
  | .nop sw => Sys2Proof.Machine.execNop sw s
  | .jmp sw a => Sys2Proof.Machine.execJmp sw a s
  | .calli sw a => Sys2Proof.Machine.execCalli sw a s
  | .ret sw => Sys2Proof.Machine.execRet sw s
  | .barArr sw l n => Sys2Proof.Machine.execBarArr sw l n s
  | .barWt sw l n timeout => Sys2Proof.Machine.execBarWt sw l n timeout s
  | .barSync sw l n timeout => Sys2Proof.Machine.execBarSync sw l n timeout s
  | .spawn sw o => Sys2Proof.Machine.execSpawn sw o s
  | .launch sw d a => Sys2Proof.Machine.execLaunch sw d a s
  | .cwait sw d a timeout => Sys2Proof.Machine.execCwait sw d a timeout s
  | .racq sw n => Sys2Proof.Machine.execRacq sw n s
  | .rrel sw n => Sys2Proof.Machine.execRrel sw n s
  | .tset sw a => Sys2Proof.Machine.execTset sw a s
  | .rput sw d => Sys2Proof.Machine.execRput sw d s
  | .rmat sw a b c => Sys2Proof.Machine.execRmat sw a b c s
  | .rdrop sw a b c => Sys2Proof.Machine.execRdrop sw a b c s
  | .trap sw c => Sys2Proof.Machine.execTrap sw c s
  | .brk sw c => Sys2Proof.Machine.execBrk sw c s
  | .tret sw => Sys2Proof.Machine.execTret sw s
  | .fqry sw d n => Sys2Proof.Machine.execFqry sw d n s
  | .sysr sw d n => Sys2Proof.Machine.execSysr sw d n s
  | .sysw sw a n => Sys2Proof.Machine.execSysw sw a n s
  | .tlbi sw => Sys2Proof.Machine.execTlbi sw s
  | .tlbiId sw a => Sys2Proof.Machine.execTlbiId sw a s
  | .tlbiVa sw a b => Sys2Proof.Machine.execTlbiVa sw a b s
  | .rep n d a b c => Sys2Proof.Machine.execRep n d a b c s
  | .inv t lo hi tol dir x y len => Sys2Proof.Machine.execInv t lo hi tol dir x y len s
  | .reg ring addr res => Sys2Proof.Machine.execReg ring addr res s
  | .quote ring q => Sys2Proof.Machine.execQuote ring q s
  | .accept ring qid flags => Sys2Proof.Machine.execAccept ring qid flags s
  | .revoke ring lid => Sys2Proof.Machine.execRevoke ring lid s
  | .pred ring addr mask value ctrl => Sys2Proof.Machine.execPred ring addr mask value ctrl s
  | .fence ring lid => Sys2Proof.Machine.execFence ring lid s
  | .fenceSatisfied ring => Sys2Proof.Machine.execFenceSatisfied ring s
  | .signal ring addr value ctrl => Sys2Proof.Machine.execSignal ring addr value ctrl s
  | .streamTailWrite ep ring val => Sys2Proof.Machine.execStreamTailWrite ep ring val s
  | .streamErrClear ep stream val => Sys2Proof.Machine.execStreamErrClear ep stream val s
  | .hostFabricWrite ep tgt data => Sys2Proof.Machine.execHostFabricWrite ep tgt data s
  | .managementClaim ep newEp devid => Sys2Proof.Machine.execManagementClaim ep newEp devid s
  | .systemRegisterWrite ep off val => Sys2Proof.Machine.execSystemRegisterWrite ep off val s
  | .budgetWrite ep val => Sys2Proof.Machine.execBudgetWrite ep val s
  | .oppWrite ep val => Sys2Proof.Machine.execOppWrite ep val s
  | .oppLoweringApply => Sys2Proof.Machine.execOppLoweringApply s
  | .stashcfgWrite ep val => Sys2Proof.Machine.execStashcfgWrite ep val s
  | .stashcfgApply core => Sys2Proof.Machine.execStashcfgApply core s
  | .tlbinvIdentifier ep val => Sys2Proof.Machine.execTlbinvIdentifier ep val s
  | .tlbinvPage ep val => Sys2Proof.Machine.execTlbinvPage ep val s
  | .tlbiDone team => Sys2Proof.Machine.execTlbiDone team s
  | .areportWrite ep val => Sys2Proof.Machine.execAreportWrite ep val s
  | .attestReportDone => Sys2Proof.Machine.execAttestReportDone s
  | .preemptSave ep lid => Sys2Proof.Machine.execPreemptSave ep lid s
  | .preemptRestore ep lid => Sys2Proof.Machine.execPreemptRestore ep lid s
  | .preemptExport ep lid => Sys2Proof.Machine.execPreemptExport ep lid s
  | .preemptImport ep lid => Sys2Proof.Machine.execPreemptImport ep lid s
  | .quoteLapse id => Sys2Proof.Machine.execQuoteLapse id s
  | .placeBlock id => Sys2Proof.Machine.execPlaceBlock id s
  | .resultWrite team n => Sys2Proof.Machine.execResultWrite team n s
  | .storePerform n => Sys2Proof.Machine.execStorePerform n s
  | .atomicApply team n => Sys2Proof.Machine.execAtomicApply team n s
  | .lineFill team => Sys2Proof.Machine.execLineFill team s
  | .rebrewSlotStart core => Sys2Proof.Machine.execRebrewSlotStart core s
  | .sliceCycOverrun team => Sys2Proof.Machine.execSliceCycOverrun team s
  | .sliceNjOverrun team => Sys2Proof.Machine.execSliceNjOverrun team s
  | .copyLine team n => Sys2Proof.Machine.execCopyLine team n s
  | .matrixStep team => Sys2Proof.Machine.execMatrixStep team s
  | .flushMarkerReport team die => Sys2Proof.Machine.execFlushMarkerReport team die s
  | .peerReport team peer => Sys2Proof.Machine.execPeerReport team peer s
  | .peerlate team peer => Sys2Proof.Machine.execPeerlate team peer s
  | .peerfail team peer => Sys2Proof.Machine.execPeerfail team peer s
  | .barrierTimeout team => Sys2Proof.Machine.execBarrierTimeout team s
  | .batchWaitTimeout team => Sys2Proof.Machine.execBatchWaitTimeout team s
  | .cwaitTimeout team => Sys2Proof.Machine.execCwaitTimeout team s
  | .childLaunchDone team => Sys2Proof.Machine.execChildLaunchDone team s
  | .timerDue team => Sys2Proof.Machine.execTimerDue team s
  | .timer team => Sys2Proof.Machine.execTimer team s
  | .userHandlerLimit team => Sys2Proof.Machine.execUserHandlerLimit team s
  | .privHandlerReturn team => Sys2Proof.Machine.execPrivHandlerReturn team s
  | .emergencyBlockGrant core => Sys2Proof.Machine.execEmergencyBlockGrant core s
  | .machinePreempt id => Sys2Proof.Machine.execMachinePreempt id s
  | .restoreBlock blk core => Sys2Proof.Machine.execRestoreBlock blk core s
  | .teamRetire team => Sys2Proof.Machine.execTeamRetire team s
  | .launchComplete id => Sys2Proof.Machine.execLaunchComplete id s
  | .costReplan t => Sys2Proof.Machine.execCostReplan t s
  | .thermalEmergency level => Sys2Proof.Machine.execThermalEmergency level s
  | .thermalEnd level => Sys2Proof.Machine.execThermalEnd level s
  | .errorDetected e => Sys2Proof.Machine.execErrorDetected e s
  | .quotingResume => Sys2Proof.Machine.execQuotingResume s
  | .deviceReset => Sys2Proof.Machine.execDeviceReset s
  | .illegalWord team => Sys2Proof.Machine.execIllegalWord team s
  | .instructionFetch team => Sys2Proof.Machine.execInstructionFetch team s

end Sys2Proof.Machine
end

