-- ==== Sys2Proof/Machine/Issue.lean ====
section
/-! DEFINITION. How teams come to issue (R25 to R32, R43 to R48, R58, R59, R274, R276 to R278, R302, R303, R383, R401), the steps
of the other agents, the passing of time, and what comes about by itself between steps. -/
namespace Sys2Proof.Machine

/-! Rounds (R277, R278). -/

/-- A pipe's round before its first visit. -/
def PipeRound.start : PipeRound := { visiting := .throttle, firm := [], yielding := 0 }

/-- The round of a pipe. -/
def State.roundOf (s : State) (pipe : Nat) : PipeRound := s.rounds.get PipeRound.start pipe

/-- The deficit D of a participant. -/
def PipeRound.deficit (r : PipeRound) : Participant → Int
  | .firm l => r.firm.get 0 l
  | .yielding => r.yielding
  | .throttle => 0

/-- The round with a participant's deficit replaced. -/
def PipeRound.setDeficit (r : PipeRound) (p : Participant) (d : Int) : PipeRound :=
  match p with
  | .firm l => { r with firm := r.firm.set l d }
  | .yielding => { r with yielding := d }
  | .throttle => r

/-- A team is in the ready set (R274), and no pre-emption stops it (R389). -/
def State.ready (s : State) (t : Team) : Bool :=
  decide (t.status = TeamStatus.live ∧ t.wait = .none) && t.k0 != 0 && !s.fenced.getLsbD t.core
    && !((s.launchOf t.launch).saving && t.stops)

/-- Rebrew slots, and teams that run a handler, go first (R277). -/
def Team.first (t : Team) : Bool := t.inRebrew || t.inHandler

/-- Ready teams of a pipe. -/
def State.readyOn (s : State) (pipe : Nat) : List (Nat × Team) := s.teams.filter fun e => e.2.pipe == pipe && s.ready e.2

/-- Ready teams that a participant may issue from. -/
def State.readyFor (s : State) (pipe : Nat) (p : Participant) : List (Nat × Team) :=
  (s.readyOn pipe).filter fun e => !e.2.first && s.participantOf e.2 == p

/-- One list of numbers comes before another. -/
def lexLess : List Nat → List Nat → Bool
  | x :: xs, y :: ys => decide (x < y) || x == y && lexLess xs ys
  | [], _ :: _ => true
  | _, [] => false

/-- The team whose key comes first. -/
def firstBy (key : Nat × Team → List Nat) (es : List (Nat × Team)) : Option Nat :=
  (es.foldl (fun (best : Option (Nat × Team)) e => match best with
    | none => some e
    | some b => if lexLess (key e) (key b) then some e else best) none).map (·.1)

/-- The order of readiness, ties to the lower first slot (R277). -/
def ageKey (e : Nat × Team) : List Nat := [e.2.stamp, e.2.slot]

/-- A team whose readiness R276 has renewed, and no other team of its launch on the pipe has become ready since, be it one that has
left the ready set again. -/
def State.renewedLast (s : State) (e : Nat × Team) : Bool :=
  e.2.renewed != 0 && e.2.renewed == e.2.stamp
    && !s.teams.any fun o => o.1 != e.1 && o.2.launch == e.2.launch && o.2.pipe == e.2.pipe && decide (e.2.stamp < o.2.stamp)

/-- The order within the YIELD entry (R277): the launch accepted first, and in it the lowest first slot, a renewed team last. -/
def State.yieldKey (s : State) (e : Nat × Team) : List Nat :=
  [(s.launchOf e.2.launch).accepted, e.2.launch, flag (s.renewedLast e), e.2.slot]

/-- The team that a participant issues from next. -/
def State.choice (s : State) (pipe : Nat) (p : Participant) : Option Nat :=
  let es := s.readyFor pipe p
  match p with
  | .yielding => firstBy s.yieldKey es
  | _ => firstBy ageKey es

/-- The weight of a participant (R278). -/
def State.weight (s : State) (pipe : Nat) : Participant → Int
  | .firm l => (s.launchOf l).fig.ishare
  | .yielding => 16 - (s.sys.throt.toNat : Int) - (s.firmShares pipe : Nat)
  | .throttle => s.sys.throt.toNat

/-- The YIELD entry's weight is negative, and no YIELD launch issues on the pipe (R398). -/
def State.starved (s : State) (pipe : Nat) : Bool := decide (s.weight pipe .yielding < 0)

/-- The team that a pipe issues from next (R277, R278). -/
def State.scheduledOn (s : State) (pipe : Nat) : Option Nat :=
  match firstBy ageKey ((s.readyOn pipe).filter fun e => e.2.first && !(s.starved pipe && s.participantOf e.2 == .yielding)) with
  | some id => some id
  | none =>
    let r := s.roundOf pipe
    if 0 < r.deficit r.visiting ∧ ¬ (r.visiting = .yielding ∧ s.starved pipe) then s.choice pipe r.visiting else none

/-- Issue cycles are subtracted from the deficit of the launch that a team serves (R278). -/
def State.spend (s : State) (t : Team) (n : Nat) : State :=
  let p := s.participantOf t
  let r := s.roundOf t.pipe
  { s with rounds := s.rounds.set t.pipe (r.setDeficit p (r.deficit p - n)) }

/-- The participant after another in the round. -/
def State.nextParticipant (s : State) (pipe : Nat) : Participant → Participant
  | .firm l => match (s.firmsOn pipe).find? fun x => l < x with | some x => .firm x | none => .yielding
  | .yielding => .throttle
  | .throttle => match (s.firmsOn pipe).head? with | some x => .firm x | none => .yielding

/-- The deficit as a visit begins (R278, R398): the weight is added; with a negative weight, or no ready team, it does not rise
above zero. -/
def State.visitDeficit (s : State) (pipe : Nat) (p : Participant) (d : Int) : Int :=
  let w := s.weight pipe p
  if w < 0 ∨ s.readyFor pipe p = [] then min (d + w) 0 else d + w

/-- The round goes on to its next participant (R278), once the one visited may issue no more. -/
def State.visit (s : State) (pipe : Nat) : State :=
  let r := s.roundOf pipe
  let idle := s.readyFor pipe r.visiting = []
  if 0 < r.deficit r.visiting ∧ ¬ idle then s
  else
    let r1 := if idle then r.setDeficit r.visiting (min (r.deficit r.visiting) 0) else r
    let p := s.nextParticipant pipe r.visiting
    { s with rounds := s.rounds.set pipe { r1.setDeficit p (s.visitDeficit pipe p (r1.deficit p)) with visiting := p } }

/-! Waits that an event of another agent does not end by itself (R274). -/

/-- Results that a clause wait covers (R45, R152). -/
def Pend.covered (p : Pend) (wait : BitVec 5) : Bool :=
  match p.kind with
  | .other => wait.getLsbD 0
  | .matrix => wait.getLsbD 0 || wait.getLsbD 3
  | .atomic => wait.getLsbD 4

/-- A clause wait is over (R45). What bypasses the L1 is accepted by its home slice as it is ordered. -/
def State.clauseMet (s : State) (wait : BitVec 5) : Bool :=
  let t := s.team
  t.pend.all (fun p => !p.covered wait || p.landed)
    && (!wait.getLsbD 1 || !s.stores.any fun w => w.team == s.cur && !w.accepted)
    && (!wait.getLsbD 2 || t.copies.isEmpty || (faultOf t.copies).isSome)
    && (!wait.getLsbD 3 || t.mqueue.isEmpty)
    && (!wait.getLsbD 4 || t.atoms.isEmpty)

/-- The team's wait is over: what it waits for has come. -/
def State.waitOver (s : State) : Bool :=
  let t := s.team
  match t.wait with
  | .park upto | .landing upto => t.pend.all fun p => decide (upto ≤ p.id) || p.landed
  | .clause wait => s.clauseMet wait
  | .matrix | .unmap => true
  | .batchC n _ => (t.coveredCopies n).isEmpty || (faultOf (t.coveredCopies n)).isSome
  | .batchM n _ => (t.coveredItems n).isEmpty
  | .room oldest => t.copies.all fun c => c.batch != some oldest
  | .child id _ => (s.launchOf id).completion.isSome
  | .earlier => s.earlierDone
  | .tile n => s.hitsTile n && !s.dropsTile s.cur n
  | .brewing n => !s.brewing n
  | .fetch va => (s.codeLine t.core (s.asid s.ctx) va).isSome
  | .drain all => (faultOf t.copies).isSome || (if all then t.sliceDone else t.copies.isEmpty && t.atoms.isEmpty && t.mqueue.isEmpty)
  | .none | .barrier .. | .born .. | .launching .. | .tlbi _ | .handler => false

/-- The clause at whose header the team stands begins: the results that its wait covers are no longer pending (R43). -/
def State.enterClause (s : State) (wait : BitVec 5) : State :=
  let t := s.team.awaitWhere fun p => p.covered wait
  s.setTeam { t with pc := t.pc + 4, wait := .none }

/-- The clause begins, or the fault of a copy that its wait covers is raised at the header (R219). -/
def State.beginClause (s : State) (wait : BitVec 5) : State :=
  match if wait.getLsbD 2 then faultOf s.team.copies else none with
  | some (c, cause, d) => s.raiseCopy c cause d
  | none => s.enterClause wait

/-- The end of a wait that is over. -/
def State.endWaiting (s : State) : State :=
  match s.team.wait with
  | .park _ | .landing _ => s.endPark s.cur
  | .clause _ => s.setTeam { s.team with wait := .none, stamp := s.seq }
  | _ => s.retry

/-! The word that the team has reached. -/

/-- A word is held where the team's pipe or core need not fetch it (R296, R401). -/
def State.holdsCode (s : State) (va : Nat) : Bool :=
  (s.codeLine s.team.core (s.asid s.ctx) va).isSome || match s.loopBuffers.find? s.team.pipe with
    | some b => decide (b.team = s.cur) && (b.words.find? va).isSome
    | none => false

/-- A word that must be fetched: the fault of its page, precise at the word that issues (R365), or the wait for its line
(R401). -/
def State.fetchOr (s : State) (va : Nat) (k : Out) : Out :=
  if s.holdsCode va then k
  else match s.accessFault s.ctx va .exec with
    | some c => .next (s.takeTrap c 0 { addr := BitVec.ofNat 64 va, walk := some (va, 4) })
    | none => .next (s.setTeam { s.team with wait := .fetch va })

/-- Words of a clause before one, without literals and prefixes: those that issued in it (R29, R31). -/
def State.wordsBefore (s : State) (h : Nat) (hd : Header) (va : Nat) : List Nat :=
  (((List.range hd.n).map fun i => h + 4 + 4 * i).filter fun a =>
    decide (a < va) && !hd.lmap.getLsbD ((a - h) / 4 - 1)).filter fun a =>
      match s.code a with | some w => (opOf w).toNat != 0x7E | none => false

/-- The word at an address may transfer control (R31). -/
def State.transfersAt (s : State) (va : Nat) : Bool :=
  match s.code va with
  | some w => (match decode w (s.litsAt va) with | .ok (.instr i) => transfers i | _ => false)
  | none => false

/-- No word of a clause may issue at an address (R26 to R28, R31, R345): the address lies in no clause, the word is a literal,
follows a transfer, is not admitted by the clause's class, or lies outside the slice. A melse or mend after its clause's first
word is not among these (log 71). -/
def State.misplaced (s : State) (va : Nat) (w : Word) : Bool :=
  match s.clauseOf va with
  | none => true
  | some (h, hd) =>
    let k := (va - h) / 4
    decide (hd.n < k) || hd.lmap.getLsbD (k - 1) || (s.wordsBefore h hd va).any s.transfersAt || !admits hd.cls (opOf w).toNat
      || s.team.inRebrew && !decide (s.codeSpan.1 ≤ va ∧ va < s.codeSpan.2)

/-- One issue cycle for a change to a class in a MIX clause (R29). The repetitions of a rep after its first, and the first word of
a routine in the runs after the first, follow a word that issued under the same prefix, and its class is not left. -/
def State.classChange (s : State) (va cls : Nat) : Nat :=
  let again := (s.team.rep.any fun r => r.j != 0) || s.team.inv.any fun v => v.pos == 0 && v.phase != .low
  match s.clauseOf va with
  | none => 0
  | some (h, hd) =>
    if hd.cls ≠ 6 ∨ again then 0
    else match (s.wordsBefore h hd va).getLast?.bind s.code with
      | some p => if opClass (opOf p).toNat = cls then 0 else 1
      | none => 0

/-! Issue cycles (R103, R262, R401). -/

/-- Opcodes whose format has a predicate field (R33, R102). -/
def predicated (op : Nat) : Bool :=
  op ∈ [0x10, 0x11, 0x12, 0x13, 0x17, 0x18, 0x1B, 0x20, 0x21, 0x22, 0x24, 0x25, 0x26, 0x27, 0x28, 0x29, 0x31, 0x34, 0x35, 0x38,
    0x39, 0x3A, 0x3B, 0x3C]

/-- A form that issues by passes: the cupping unit charges it per pass (R103). -/
def byPasses : Decoded → Bool
  | .instr (.rep ..) => false
  | .instr i => charge ⟨0, 0, false, false⟩ i == {}
  | .inv .. => false

/-- A prefix takes no issue cycle of its own. -/
def isPrefix : Decoded → Bool
  | .instr (.rep ..) | .inv .. => true
  | _ => false

/-- Words of 32 lanes of a mask that are not zero. -/
def nonzeroWords (n : Nat) (m : Mask) : Nat :=
  ((List.range (n / 32)).filter fun i => BitVec.extractLsb' (32 * i) 32 m != 0).length

/-- The class that a word issues in; none for a prefix, whose form brings it. An inv with no lane is of its routine's class, ALU
(R29, R167). -/
def Team.issueClass (t : Team) (d : Decoded) (w : Word) : Option Nat :=
  match d with
  | .inv .. => if t.exec = 0 then some 0 else none
  | .instr (.rep ..) => none
  | .instr _ => some (opClass (opOf w).toNat)

/-- The issue cycles of a form, beside a change of class. An inv with no lane takes the one of an empty lane set (R167). -/
def Team.cycles (t : Team) (d : Decoded) (w : Word) : Nat :=
  if isPrefix d then (match d with | .inv .. => if t.exec = 0 then 1 else 0 | _ => 0)
  else if byPasses d then max 1 (nonzeroWords t.tsize (t.lanes (if predicated (opOf w).toNat then kOf w else 0)))
  else 1

/-! What an issue leaves. -/

/-- The wait keeps the word from issuing: it issues again when the wait ends. -/
def Wait.reissues : Wait → Bool
  | .matrix | .room _ | .earlier | .tile _ | .brewing _ | .unmap | .drain _ | .batchC .. | .batchM ..
  | .child .. | .fetch _ | .handler | .landing _ => true
  | _ => false

/-- A wait with a timeout literal (R274). -/
def Wait.timed : Wait → Bool
  | .barrier .. | .batchC .. | .batchM .. | .child .. => true
  | _ => false

/-- Work whose issue keeps a trip from being a spin trip (R276). -/
def isWork : Decoded → Bool
  | .inv .. => false
  | .instr i => match i with
    | .st .. | .sst .. | .pst .. | .tst .. | .discard .. | .lastuse .. | .amoAdd .. | .amoMin .. | .amoMax .. | .amoAnd ..
    | .amoOr .. | .amoXor .. | .amoXchg .. | .amoFadd .. | .amocas .. | .redAdd .. | .redMin .. | .redMax .. | .redAnd ..
    | .redOr .. | .redXor .. | .redFadd .. | .cpy .. | .cpym .. | .cpytTs .. | .cpytSt .. | .mmaBf16 .. | .mmaF16 .. | .mmaF8 ..
    | .mmaF4 .. | .mmaI8 .. | .mmaH16 .. | .tsa .. | .mmlBf16 .. | .mmlF16 .. | .mmlF8 .. | .mmlF4 .. | .mmlI8 .. | .mmlH16 ..
    | .tsl .. | .zclr .. | .zld .. | .zst .. | .zcvt .. | .spawn .. | .launch .. | .racq .. | .rrel .. => true
    | _ => false

/-- fm is written by fmset alone as a register of the trip (R276). -/
def writesFm : Decoded → Bool
  | .instr (.fmset ..) | .instr (.fmsetImm ..) => true
  | _ => false

/-- tret ends the run in which it issues (R383). -/
def isTret : Decoded → Bool
  | .instr (.tret ..) => true
  | _ => false

/-- A register of the team took another value (R276). -/
def Team.regsDiffer (t u : Team) (fm : Bool) : Bool :=
  t.regs.v != u.regs.v || t.regs.s != u.regs.s || t.regs.k != u.regs.k || t.regs.z != u.regs.z || t.regs.cc != u.regs.cc
    || fm && t.regs.fm != u.regs.fm

/-- A word of the team has raised a trap, or ended its launch. -/
def Team.trapped (t u : Team) : Bool :=
  u.handlerRuns != t.handlerRuns || u.privEntry.isSome || u.status != t.status || u.due.isSome

/-- A user-handler run has had one more instruction (R383): the run that a trap has just interrupted, if one has. -/
def Team.countRun (before t : Team) : Team :=
  if t.handlerRuns = before.handlerRuns then { t with hcount := t.hcount + 1 }
  else match t.stack with
    | e :: es => { t with stack := { e with outer := e.outer + 1 } :: es }
    | [] => t

/-- The team's counts after word number n that `before` issued (R276, R383, R409). A rep counts as its repetitions. -/
def Team.counted (before t : Team) (d : Decoded) (n : Nat) : Team :=
  if t.wait.reissues then t
  else
    let u := if before.inHandler ∧ ¬ isTret d ∧ ¬ isPrefix d then before.countRun t else t
    { u with
      waited := if t.wait.timed then t.waited else 0, timeout := if t.wait.timed then t.timeout else 0,
      changes := if isWork d || before.regsDiffer t (writesFm d) then max t.changes n else t.changes }

/-- The words that a clause's word brings with it as it is fetched: its header, where it is the first, and its literals. -/
def State.fetched (s : State) (d : Decoded) : List Nat :=
  let va := s.team.pc.toNat
  let first := match d with | .inv .. => va | .instr _ => if s.team.rep.isSome then va + 4 else va
  (if s.isHeader s.ctx (va - 4) then [va - 4] else []) ++ (List.range (1 + s.literalsAfter first)).map fun i => first + 4 * i

/-- The energy of an issue, which the device's counters measure (R385, R411). -/
def State.measure (s : State) (team : Nat) (handler : Bool) : State :=
  let e := Config.measuredEnergy s.fresh
  let t := s.teamOf team
  let l := s.launchOf t.launch
  let s1 := s.setLaunchOf t.launch { l with energy := l.energy + e, handlerEnergy := l.handlerEnergy + (if handler then e else 0) }
  { s1.setTeamOf team { t with energy := t.energy + e } with fresh := s.fresh + 1 }

/-- What an issue leaves beside the word's own effect: counts, issue cycles, energy. A word that has to issue again leaves
nothing. -/
def State.settleIssue (s1 s : State) (d : Decoded) (w : Word) : State :=
  let t := s.team
  let u := s1.teamOf s.cur
  if u.wait.reissues then s1
  else
    let n := t.cycles d w + (t.issueClass d w).elim 0 (s.classChange t.pc.toNat)
    (((s1.setTeamOf s.cur (t.counted u d s.seq)).spend t n).capture s (s.fetched d)).measure s.cur t.inHandler

/-- The meaning of what a word decodes to. -/
def runDecoded (d : Decoded) (s : State) : Out :=
  match d with
  | .instr i => exec i s
  | .inv t lo hi tol dir x y len => execInv t lo hi tol dir x y len s

/-- A word issues. A due timer is taken at it, unless the word itself raises a trap (R302, R303). -/
def State.issueWord (s : State) (d : Decoded) (w : Word) : Out :=
  match runDecoded d s with
  | .next s1 =>
    if s.team.takesTimer ∧ ¬ s.team.trapped (s1.teamOf s.cur) ∧ s1.cycleTraps = s.cycleTraps then execTimer s.cur s
    else .next (s1.settleIssue s d w)
  | o => o

/-- The word at the team's PC, which is not a header. -/
def State.issueAt (s : State) : Out :=
  let va := s.team.pc.toNat
  s.fetchOr va (match s.code va with
    | none => execIllegalWord s.cur s
    | some w =>
      if s.misplaced va w then execIllegalWord s.cur s
      else match decode w (s.litsAt va) with
        | .error _ => execIllegalWord s.cur s
        | .ok d => s.issueWord d w)

/-- A repetition of a rep (R47, R48). -/
def State.issueRepetition (s : State) (r : RepState) : Out :=
  let va := s.team.pc.toNat + 4
  s.fetchOr va (match (s.code va).bind (repStep r) with
    | none => execIllegalWord s.cur s
    | some w => match decode w (s.litsAt va) with
      | .error _ => execIllegalWord s.cur s
      | .ok d => s.issueWord d w)

/-- A clause header (R26, R27, R45): the clause's first word issues in the same step, unless the wait holds it. -/
def State.issueHeader (s : State) : Out :=
  let va := s.team.pc.toNat
  s.fetchOr va (match (s.code va).bind decodeHeader with
    | none => execIllegalWord s.cur s
    | some hd =>
      if s.clauseMet hd.wait then
        let s1 := s.beginClause hd.wait
        if s1.team.pc = s.team.pc + 4 ∧ ¬ s.team.trapped s1.team then s1.issueAt else .next s1
      else .next (s.setTeam { s.team with wait := .clause hd.wait }))

/-- A fault found in a fill path or a chain is raised (R196, R351), or a delivery goes on (R376). -/
def State.raiseDue (s : State) (f : Due) : State :=
  let s1 := s.setTeam { s.team with due := none }
  match f.place with
  | none => s1.takeTrap f.cause f.lanes f.detail
  | some (at_, rpc) => s1.deliver f.cause f.lanes f.detail at_ rpc f.fwd

/-- The team issues the word, the repetition or the header that it has reached. -/
def State.issueAny (s : State) : Out :=
  let t := s.team
  if t.overHandler then execUserHandlerLimit s.cur s
  else match t.rep with
    | some r => s.issueRepetition r
    | none => if s.isHeader s.ctx t.pc.toNat then s.issueHeader else s.issueAt

/-- The trap that is due and can be taken now: a fault of an older access waits for the end of an inv (R166), but a HAZARD is the
routine's own. -/
def Team.dueNow (t : Team) : Option Due := t.due.filter fun f => f.cause == .hazard || t.inv.isNone

/-- The scheduled team does what it has reached. -/
def State.issueNow (s : State) : Out :=
  let t := s.team
  match t.dueNow, t.inv with
  | some f, _ => .next (s.raiseDue f)
  | none, some v =>
    if v.ended then (if t.runLanded v then .next (s.runEnd v) else .next s)
    else if v.begun then s.issueAny
    else .next (s.beginRun v)
  | none, none => s.issueAny

/-- A read that has what it waited for goes on at once when its launch is being saved (R352). -/
def State.readsOn (s : State) : Bool :=
  s.launch.saving && match s.team.wait with | .tile _ | .brewing _ => true | _ => false

/-- The team ends a wait that is over, or, when its pipe has chosen it, issues. -/
def State.issueTeam (s0 : State) (id : Nat) : Out :=
  let s := s0.at id
  let t := s.team
  if t.status ≠ TeamStatus.live then .next s0
  else if t.wait ≠ .none then
    if s.waitOver then (if s.readsOn then s.endWaiting.issueNow else .next s.endWaiting) else .next s0
  else if s.scheduledOn t.pipe = some id then s.issueNow
  else .next s0

/-! One cycle (R399). -/

/-- The tie order of the teams of one cycle (R384, R399): the lower block index first, then the lower %team. -/
def State.tieKey (s : State) (id : Nat) : List Nat :=
  let t := s.teamOf id
  [t.launch, (s.blockOf t.block).index, t.index]

/-- Puts an entry after those whose keys come before its own. -/
def insertBy {α : Type} (key : α → List Nat) (x : α) : List α → List α
  | [] => [x]
  | y :: ys => if lexLess (key y) (key x) then y :: insertBy key x ys else x :: y :: ys

/-- What falls due for a team in a cycle: it retires, its privileged handler returns, its wait for a batch or a child expires, or it
ends a wait that is over or issues. The wait at a barrier expires after the flip test (R273). -/
def State.turn (s : State) (id : Nat) : Out :=
  let t := s.teamOf id
  if t.finished then execTeamRetire id s
  else match t.wait with
    | .handler => execPrivHandlerReturn id s
    | .barrier .. => .next s
    | .batchC .. | .batchM .. =>
      if (s.at id).waitOver then s.issueTeam id else execBatchWaitTimeout id s
    | .child .. => if (s.at id).waitOver then s.issueTeam id else execCwaitTimeout id s
    | _ => s.issueTeam id

/-- Teams do one after another what a function gives each. -/
def inTurn (f : Nat → State → Out) (teams : List Nat) (o : Out) : Out :=
  teams.foldl (fun (o : Out) id => match o with | .next s => f id s | o => o) o

/-- The flip tests of the barriers of a cycle's teams (R273). -/
def State.flipAll (s : State) (teams : List Nat) : State :=
  teams.foldl (fun (s : State) id => if (s.teamOf id).dispatched then
    allBarriers.foldl (fun (s : State) b => s.flipTest id b.1 b.2) s else s) s

/-- The end of a cycle (R384, R399): the records of its traps are written in the tie order, and then the launches end, each by the
first of the traps that end it. -/
def State.endCycle (s : State) : State :=
  let xs := (s.cycleTraps.getD []).foldr (insertBy fun (x : TrapEnd) => s.tieKey x.team) []
  let s1 := xs.foldl (fun (s : State) x => s.recordTrap x) { s with cycleTraps := none }
  (xs.filter (·.ends)).foldl (fun (s : State) x =>
    if (s.launchOf x.launch).phase = .live then s.endLaunch x.launch x.party x.cause else s) s1

/-- What several teams do in one cycle (R273, R399), in the tie order; at most one of those of a pipe issues. The flip tests come
when all have acted, then the waits at barriers that expire, and then what the traps do to their launches. -/
def State.cycle (s : State) (teams : List Nat) : Out :=
  let order := teams.eraseDups.foldr (insertBy s.tieKey) []
  let issues (id : Nat) : Bool := decide ((s.teamOf id).wait = .none) && !(s.teamOf id).finished
  let once := (order.foldl (fun (xs : List Nat) id =>
    if issues id && xs.any fun x => issues x && (s.teamOf x).pipe == (s.teamOf id).pipe then xs else xs ++ [id]) [])
  match inTurn (fun id s => s.turn id) once (.next { s with cycleTraps := some [] }) with
  | .next s1 => (match inTurn execBarrierTimeout once (.next (s1.flipAll once)) with
    | .next s2 => .next s2.endCycle
    | o => o)
  | o => o

/-! Time. -/

/-- A rebrew slot holds a pending result of a read that started or joined a deeper level (R404). -/
def Team.nestedNow (t : Team) (r : RebrewSlot) : Bool :=
  (match t.wait with | .brewing _ => true | _ => t.keeps.isSome)
    || r.nested.any fun id => (t.pend.any fun p => p.id == id && !p.landed) || t.copies.any fun c => c.id == id

/-- A team lives through device time (R39, R274, R302, R346). -/
def Team.age (t : Team) (ns cycles : Nat) : Team :=
  let live := decide (t.status = TeamStatus.live)
  { t with
    tmr := if live then t.tmr + BitVec.ofNat 64 cycles else t.tmr,
    waited := if live && t.wait.timed then t.waited + ns else t.waited,
    rels := t.rels.map fun (r : Release) => { r with age := r.age + ns },
    rebrew := t.rebrew.map fun (r : RebrewSlot) =>
      if live && !t.nestedNow r then { r with cyc := r.cyc - cycles, opens := r.opens.map fun o => (o.1, o.2 + min cycles r.cyc) }
      else r }

/-- A YIELD launch is passed over: it has a ready team on a pipe on which an older YIELD launch has one (R326). -/
def State.passedOver (s : State) (id : Nat) : Bool :=
  s.teams.any fun e => e.2.launch == id && s.ready e.2 && s.participantOf e.2 == .yielding
    && s.teams.any fun o => o.2.pipe == e.2.pipe && s.ready o.2 && s.participantOf o.2 == .yielding
        && lexLess [(s.launchOf (s.rootLaunch o.2)).accepted, s.rootLaunch o.2]
             [(s.launchOf (s.rootLaunch e.2)).accepted, s.rootLaunch e.2]

/-- A live launch lives through device time (R326, R385, R411). Of the energy that its engines take, what the work of its
user-handler runs takes counts towards He: none before its first run. -/
def State.ageLaunch (s : State) (ns : Nat) (id : Nat) (l : Launch) : Launch :=
  if l.phase = .live then
    let running := s.teams.any fun e => e.2.launch == id && decide (e.2.status = TeamStatus.live) && e.2.inHandler
    let out := l.yieldClass && (!(s.blocksOf id fun b => b.saved && !b.retired).isEmpty || s.passedOver id)
    let e := Config.measuredEnergy (s.fresh + id)
    let ran := s.teams.any fun t => t.2.launch == id && t.2.handlerRuns != 0
    { l with handlerNs := l.handlerNs + (if running then ns else 0), switchedOut := l.switchedOut + (if out then ns else 0),
             energy := l.energy + e,
             handlerEnergy := l.handlerEnergy + (if ran then min e (Config.handlerShare (s.fresh + id)) else 0) }
  else l

/-- Device time passes. -/
def State.tick (s : State) (ns cycles : Nat) : State :=
  { s with ns := s.ns + ns, teams := s.teams.mapVals fun t => t.age ns cycles,
           launches := s.launches.map fun e => (e.1, s.ageLaunch ns e.1 e.2), fresh := s.fresh + s.nextQid }

/-! Steps of other agents. -/

/-- The rows whose steps the agenda may name: what an agent other than a team or a lane does. The words, the packets, and what
a team meets as it issues (ILLEGAL_WORD, TIMER, USER_HANDLER_LIMIT) come about by those. -/
def isEvent : Instr → Bool
  | .fenceSatisfied .. | .streamTailWrite .. | .streamErrClear .. | .hostFabricWrite .. | .managementClaim ..
  | .systemRegisterWrite .. | .budgetWrite .. | .oppWrite .. | .oppLoweringApply .. | .stashcfgWrite .. | .stashcfgApply ..
  | .tlbinvIdentifier .. | .tlbinvPage .. | .tlbiDone .. | .areportWrite .. | .attestReportDone .. | .preemptSave ..
  | .preemptRestore .. | .preemptExport .. | .preemptImport .. | .quoteLapse .. | .placeBlock .. | .resultWrite ..
  | .storePerform .. | .atomicApply .. | .lineFill .. | .rebrewSlotStart .. | .sliceCycOverrun .. | .sliceNjOverrun ..
  | .copyLine .. | .matrixStep .. | .flushMarkerReport .. | .peerReport .. | .peerlate .. | .peerfail .. | .barrierTimeout ..
  | .batchWaitTimeout .. | .cwaitTimeout .. | .childLaunchDone .. | .timerDue .. | .privHandlerReturn ..
  | .emergencyBlockGrant .. | .machinePreempt .. | .restoreBlock .. | .teamRetire .. | .launchComplete .. | .costReplan ..
  | .thermalEmergency .. | .thermalEnd .. | .errorDetected .. | .quotingResume .. | .deviceReset .. | .instructionFetch .. => true
  | _ => false

/-- A cached descriptor is forgotten (R177). -/
def State.forgetDesc (s : State) (ctx tensor : Nat) : State :=
  { s with descs := s.descs.filter fun d => !(d.ctx == ctx && d.tensor == tensor) }

/-- A core's L1 instruction cache loses a line (R401). -/
def State.evictCode (s : State) (core va : Nat) : State :=
  { s with icache := s.icache.filter fun l => !(l.core == core && l.va == va / 128 * 128) }

/-- A die's shared instruction level loses a line (R14). -/
def State.evictLevel (s : State) (die pa : Nat) : State :=
  { s with codeLevel := s.codeLevel.filter fun l => !(l.die == die && l.pa == pa / 128 * 128) }

/-- What an entry of the agenda does. -/
def runAct (a : Act) (s : State) : Out :=
  match a with
  | .issue team => s.issueTeam team
  | .lane stream => s.lane stream
  | .event i => if isEvent i then exec i s else .next s
  | .fix team n lane => .next (s.fixLane team n lane)
  | .accept n => .next (s.tryAccept n)
  | .own team n => .next ((s.takeLine team n).takeZst team n)
  | .visit pipe => .next (s.visit pipe)
  | .tick ns cycles => .next (s.tick ns cycles)
  | .evict ctx name => .next (if (s.tileLine name).any fun x => x.ctx == ctx then s.evict name else s)
  | .evictCode core va => .next (s.evictCode core va)
  | .evictLevel die pa => .next (s.evictLevel die pa)
  | .evictPriv team va => .next (s.evictPriv team va)
  | .forget place asid va => .next (s.forgetTlb place asid va)
  | .forgetDesc ctx tensor => .next (s.forgetDesc ctx tensor)
  | .cycle teams => s.cycle teams
  | .lanes streams => s.lanes streams
  | .opp p => .next (s.moveOpp p)
  | .reach id peer => .next (s.reach id peer)
  | .marker peer => .next (s.takeMarker peer)
  | .answer peer => .next (s.answerMarker peer)
  | .read ep tgt n => .next (s.answerRead ep tgt n)

/-! Between steps. -/

/-- A launch of which a record could not be written ends, a host breach (R330). -/
def State.settleEndings (s : State) : State :=
  ((s.launches.filter fun e => e.2.phase == .live && e.2.ending.isSome).map (·.1)).foldl (fun (s : State) id =>
    if (s.launchOf id).phase = .live then s.endWith id .host .unmap else s) s

/-- The slices that have used up their cycles or their energy fail (R346). -/
def State.settleSlices (s : State) : State :=
  s.teams.foldl (fun (s : State) (e : Nat × Team) =>
    let t := s.teamOf e.1
    match t.rebrew with
    | some r =>
      if t.status ≠ TeamStatus.live then s
      else if r.cyc = 0 then s.asTeam e.1 fun s => s.sliceFault .rdepth { costOver := true }
      else if 10000 * r.nj < t.energy then s.asTeam e.1 fun s => s.sliceFault .rdepth { energyOver := true }
      else s
    | none => s) s

/-- Under a thermal emergency a YIELD entry whose weight is negative keeps no deficit above zero (R398). -/
def State.capYields (s : State) : State :=
  if s.thermal then { s with rounds := s.rounds.map fun e =>
    (e.1, if s.starved e.1 then { e.2 with yielding := min e.2.yielding 0 } else e.2) }
  else s

/-- What comes about by itself: arrivals whose releases have performed, the ends of launches, saves that have become possible,
what a thermal emergency cuts, the throttle's limit, and the acknowledgements that are due. -/
def State.comeAbout (s : State) : State := s.settle.settleSlices.settleEndings.settlePreempt.markCut.settleThrottle.capYields.settleAcks

end Sys2Proof.Machine
end

