-- ==== Sys2Proof/Machine/Step.lean ====
section
/-! DEFINITION. The step of the machine, and the state in which a given instruction is the next to issue. -/
namespace Sys2Proof.Machine

/-- What follows an entry of the agenda: what comes about by itself. -/
def settled : Out → Out
  | .next s => .next s.comeAbout
  | o => o

/-- The state in which an entry of the agenda is taken up: the rest of the agenda is left, the step has a number of its own, and
no team acts until the entry names one. -/
def State.takeUp (s : State) (rest : List Act) : State := { s with agenda := rest, seq := s.seq + 1, cur := 0 }

/-- One step: the next entry of the agenda, in which the choice of the agent that moves is held (log 1). A machine with an
empty agenda stays as it is. -/
def step (s : State) : Out :=
  match s.agenda with
  | [] => .next s
  | a :: rest => settled (runAct a (s.takeUp rest))

/-! The placement of a given instruction. -/

/-- The words of an instruction that the opcode table describes: its own, and as many more as its form requires. -/
def tableWords (w : Nat) : List Word :=
  let word (i : Nat) : Word := BitVec.ofNat 32 (bits w (32 * i + 31) (32 * i))
  word 0 :: (List.range (requiredLits (word 0))).map fun i => word (i + 1)

/-- The clause that holds an instruction of these words, and after it zeros: a MIX header that marks its literals (R26). -/
def tableClause (ws : List Word) : List Word :=
  let n := ws.length
  let hd : Header := { n := n, cls := 6, wait := 0, lmap := BitVec.ofNat 15 (2 ^ n - 2) }
  (encodeHeader hd :: ws) ++ List.replicate (31 - n) 0

/-- Where the clause stands in the virtual memory of context 0. -/
def tableVa : Nat := 0x10000

/-- The image whose first clause it is. -/
def tableImage : Image :=
  { handle := 1, ctx := 0, addr := 0, len := 0, codeVa := tableVa, codeWords := 32, cmap := 1, dataOff := 0, dataLen := 0,
    hasData := false, kernels := [{ Kernel.none with clen := 32, regs := 8, tiles := 8, depth := 1, spawn := 1, launch := 1 }],
    sha := [] }

/-- The team that issues it: 64 lanes, alone on core 0, at the clause's header. -/
def tableTeam : Team :=
  { Team.vacant with
    status := .live, launch := 1, block := 1, regs := .begin 64 8, pc := BitVec.ofNat 48 tableVa, held := 255, ntile := 8 }

/-- The machine in which the very next step runs the instruction whose bits are w: a program stands loaded, its launch is live,
its team is ready and has its pipe, and the agenda's next entry is its issue (log 2). -/
def State.withFetchWord (s : State) (_nbits w : Nat) : State :=
  { s with
    teams := [(1, tableTeam)], cur := 1,
    blocks := [(1, { Block.none with launch := 1, teams := [1], stashKiB := 64 })],
    launches := [(1, { Launch.none with phase := .live, image := 1, coreList := [0], perCore := 1 })],
    images := [tableImage],
    icache := [{ core := 0, asid := s.asid 0, va := tableVa, words := tableClause (tableWords w) }],
    rounds := [(0, { visiting := .firm 1, firm := [(1, 16)], yielding := 0 })],
    loopBuffers := [], fenced := 0, agenda := [.issue 1] }

end Sys2Proof.Machine
end

