-- ==== Sys2Proof/Safety.lean ====
section
/-! DEFINITION. What claims about the machine are stated in: the canonical form of memory, the conditions under which a word
has its own effect, and the parts of the state that a word leaves as they are. -/
namespace Sys2Proof.Machine

/-! Invariants. -/

/-- Every sparse memory of the state is in canonical form: device memory, the context table, the stream table, and the stash
of every block. -/
def State.MemoryWf (s : State) : Prop :=
  s.mem.wf ∧ s.ctxTable.wf ∧ s.streamTable.wf ∧ ∀ e ∈ s.blocks, e.2.stash.wf

/-! When a word has its own effect. -/

/-- The checks that every word shares find nothing (R59, steps 7 to 10): no fault of the state, no register that a pending
result holds (R46), no register that queued matrix work has still to read (R147), no register that is not held (R270). -/
abbrev Ready (s : State) (u : Use) : Prop :=
  u.pre = none ∧ s.team.hazard u = false ∧ s.team.matrixHold u = false ∧ s.team.notHeld u = false

/-- A word of a vector form with predicate k, that reads some registers and writes d. -/
def vectorUse (s : State) (d : VReg) (k : KReg) (reads : List VReg) : Use :=
  { vr := reads.map (·.toNat), vw := [d.toNat], kr := predK k, lanes := some (s.team.lanes k) }

/-! What a word leaves as it is. -/

/-- Only teams differ: memory, stores, stash, tiles, launches, caches, tables and system registers are as before. -/
def State.SameOutside (s t : State) : Prop := { t with teams := s.teams } = s

/-- Of the teams only the issuing one differs. -/
def State.SameOthers (s t : State) : Prop := ∀ id, id ≠ s.cur → t.teamOf id = s.teamOf id

/-- Every byte of memory and of every block's stash reads as before, and no store has been accepted or performed. -/
def State.SameMemory (s t : State) : Prop :=
  (∀ a, t.mem.read a = s.mem.read a) ∧ (∀ b a, (t.blockOf b).stash.read a = (s.blockOf b).stash.read a) ∧
    t.stores = s.stores ∧ t.tiles = s.tiles

/-- The team's stack, its outstanding work, its timer, its private memory and its counts are as before: it differs only in
registers, in its place in the program, in the operand latch, and in the line that a chain has kept for its word. -/
def Team.SameWork (u u' : Team) : Prop :=
  { u' with regs := u.regs, pc := u.pc, wait := u.wait, rep := u.rep, inv := u.inv, latch := u.latch, keeps := u.keeps } = u

/-- The team has gone on past a word of n words (R27, R44, R47). -/
def Team.WentOn (u u' : Team) (seq n : Nat) (sw : Bool) : Prop :=
  u'.pc = (u.advance seq n sw).pc ∧ u'.wait = (u.advance seq n sw).wait ∧ u'.rep = (u.advance seq n sw).rep ∧
    u'.inv = (u.advance seq n sw).inv ∧ u'.keeps = none

/-- Vector registers are as before, but for one. -/
def Team.SameV (u u' : Team) (but : Option VReg) : Prop := ∀ r lane, some r ≠ but → u'.getV r lane = u.getV r lane
/-- Scalar registers are as before, but for one. -/
def Team.SameS (u u' : Team) (but : Option SReg) : Prop := ∀ r, some r ≠ but → u'.getS r = u.getS r
/-- Mask registers are as before, but for one. -/
def Team.SameK (u u' : Team) (but : Option KReg) : Prop := ∀ k, some k ≠ but → u'.getK k = u.getK k
/-- exec, fm and the tiles are as before. -/
def Team.SameMode (u u' : Team) : Prop := u'.exec = u.exec ∧ u'.fm = u.fm ∧ ∀ z, u'.getZ z = u.getZ z

/-- The flags Z, N, C, V and B of cc (R40). -/
def flagsAre (cc : BitVec 5) (z n c v b : Bool) : Prop :=
  ccZ cc = z ∧ ccN cc = n ∧ ccC cc = c ∧ ccV cc = v ∧ ccB cc = b

/-- A word completes with a next state in which the machine outside the issuing team is as before, the team's work is as
before, the team has gone on past the word, and its registers are as `p` says. -/
def Completes (i : Instr) (s : State) (n : Nat) (sw : Bool) (p : Team → Team → Prop) : Prop :=
  ∃ t, exec i s = .next t ∧ s.SameOutside t ∧ s.SameOthers t ∧ s.SameMemory t ∧ s.team.SameWork t.team ∧
    s.team.WentOn t.team s.seq n sw ∧ p s.team t.team

/-- A scalar form: d holds x (nothing is written when d is s0, R38), cc is as said, and every other register is as
before. -/
def ScalarDone (i : Instr) (s : State) (n : Nat) (sw : Bool) (d : SReg) (x : DWord) (cc : BitVec 5 → Prop) : Prop :=
  Completes i s n sw fun u u' => u'.getS d = (if d = 0 then 0 else x) ∧ u.SameS u' (some d) ∧ cc u'.cc ∧
    u.SameV u' none ∧ u.SameK u' none ∧ u.SameMode u' ∧ u'.latch = u.latch

/-- A vector form: the lanes of exec ∩ k of d hold f, its other lanes and every other register are as before; a write to a
register of the operand latch releases it (R148). -/
def VectorDone (i : Instr) (s : State) (n : Nat) (sw : Bool) (d : VReg) (k : KReg) (f : Nat → Word) : Prop :=
  Completes i s n sw fun u u' =>
    (∀ l, l < u.tsize → u'.getV d l = if (u.lanes k).getLsbD l then f l else u.getV d l) ∧ u.SameV u' (some d) ∧
      u'.cc = u.cc ∧ u.SameS u' none ∧ u.SameK u' none ∧ u.SameMode u' ∧
      (u'.latch = u.latch ∨ u'.latch = none ∧ ∃ l, u.latch = some l ∧ l.first ≤ d.toNat ∧ d.toNat < l.first + l.count)

/-- A form that writes a mask: d holds m, B says whether m is empty, and every other register and flag is as before. -/
def MaskDone (i : Instr) (s : State) (sw : Bool) (d : KReg) (m : Mask) : Prop :=
  Completes i s 1 sw fun u u' => u'.getK d = m ∧ u.SameK u' (some d) ∧
    flagsAre u'.cc (ccZ u.cc) (ccN u.cc) (ccC u.cc) (ccV u.cc) (m == 0) ∧ u.SameV u' none ∧ u.SameS u' none ∧
    u.SameMode u' ∧ u'.latch = u.latch

/-- The team with one more pending result (R43), which has the number that nothing else has. -/
def Team.withPend (u : Team) (seq : Nat) (dst : PendDst) (src : PendSrc) : Team :=
  { u with pend := u.pend ++ [{ id := seq, dst := dst, src := src, kind := src.kind, landed := false }] }

/-- A form whose result is pending (R43): the team has one more pending result, with the destination and the source given; cc
is as said, and no other register changes. -/
def PendDone (i : Instr) (s : State) (sw : Bool) (dst : PendDst) (src : PendSrc) (cc : BitVec 5) : Prop :=
  ∃ t, exec i s = .next t ∧ ({ t with teams := s.teams, seq := s.seq } : State) = s ∧ t.seq = s.seq + 1 ∧
    s.SameOthers t ∧ s.SameMemory t ∧ (s.team.withPend s.seq dst src).SameWork t.team ∧
    (s.team.withPend s.seq dst src).WentOn t.team (s.seq + 1) 1 sw ∧ t.team.cc = cc ∧ s.team.SameV t.team none ∧
    s.team.SameS t.team none ∧ s.team.SameK t.team none ∧ s.team.SameMode t.team

/-- A vector form whose result is pending: the values f of the lanes of exec ∩ k, as they are at issue, wait to be written to
d; with an empty lane set the form changes nothing (R43, R102). -/
def VectorPending (i : Instr) (s : State) (sw : Bool) (d : VReg) (k : KReg) (f : Nat → Word) : Prop :=
  (s.team.lanes k ≠ 0 → PendDone i s sw (.v d.toNat 1)
    (.lanes ((lanesOf s.team.tsize (s.team.lanes k)).map fun l => (d.toNat, l, f l))) s.team.cc) ∧
  (s.team.lanes k = 0 → VectorDone i s 1 sw d k f)

/-- A form whose result x for the scalar register d is pending (R43). -/
def ScalarPending (i : Instr) (s : State) (sw : Bool) (d : SReg) (x : DWord) : Prop :=
  PendDone i s sw (.s d) (.scalar x) s.team.cc

/-- Nothing of the machine differs but teams, the counts that number things, and the translations that it keeps (R366). -/
def State.SameButTeams (s t : State) : Prop :=
  ({ t with teams := s.teams, seq := s.seq, tlbs := s.tlbs, fresh := s.fresh } : State) = s

/-- The issuing team has done `f` and has gone on past a word of n words; the other teams are as before. A write to a register
of the operand latch has released the latch first (R148). -/
def State.Went (s t : State) (u : Use) (n : Nat) (sw : Bool) (f : Team → Team) : Prop :=
  s.SameOthers t ∧ t.team = (f (s.touch u).team).advance t.seq n sw

/-- The issuing team waits at its word, which counts as issued when the wait is over (R274). -/
def State.Waits (s t : State) (u : Use) (w : Wait) (n : Nat) (sw : Bool) (f : Team → Team) : Prop :=
  s.SameOthers t ∧ t.team =
    { f (s.touch u).team with wait := w, waited := 0, timeout := 0, afterWords := n, afterSw := sw }

/-- A release that begins (R241): its number, and the base dies and peers that have still to report. -/
def Team.withRelease (u : Team) (seq scope : Nat) (dies peers : List Nat) : Team :=
  { u with rels := u.rels ++ [{ id := seq, scope := scope, dies := dies, peers := peers, age := 0 }] }

/-- An acquire that begins with the access of a number (R241). -/
def Team.withAcquire (u : Team) (seq : Nat) : Team := { u with acqs := u.acqs ++ [{ id := seq, fence := false }] }

/-- A form that names a tile, and writes it or tells its home slice of it, completes: the machine has one more store, which nothing
has accepted, and the team goes on; nothing else differs but the descriptors kept and the note of R233 in the launch. -/
def State.Stores (s : State) (i : Instr) (sw : Bool) (what : Write) : Prop :=
  ∃ t, exec i s = .next t ∧ s.SameButTeams { t with descs := s.descs, launches := s.launches, stores := s.stores } ∧
    t.stores = s.stores ++ [{ id := s.seq, core := s.team.core, launch := s.team.launch, team := s.cur, what := what,
                              stream := false, accepted := false }] ∧
    t.seq = s.seq + 1 ∧ s.Went t {} 1 sw id

/-- The word at an address can be fetched: the core holds it, or the address translates for execution (R365). -/
abbrev State.Reaches (s : State) (pc : BitVec 48) : Prop :=
  (s.code pc.toNat).isSome ∨ s.accessFault s.ctx pc.toNat .exec = none

/-- A word moves control: the issuing team is as `u` says and is at `pc`, parked when its switch marker asks for it (R44);
nothing else differs. -/
def State.MovesTo (s : State) (i : Instr) (pc : BitVec 48) (sw : Bool) (u : Team) : Prop :=
  ∃ t, exec i s = .next t ∧ s.SameOutside t ∧ s.SameOthers t ∧ t.team = { u with pc := pc, wait := parkIf u s.seq sw }

/-- As `MovesTo`, for a word that begins or ends a trip of a loop: so many instructions count as issued (R276), and the loop
buffers may change (R296). -/
def State.LoopsTo (s : State) (i : Instr) (count : Nat) (pc : BitVec 48) (sw : Bool) (u : Team) : Prop :=
  ∃ t, exec i s = .next t ∧ s.SameOutside { t with seq := s.seq, loopBuffers := s.loopBuffers } ∧ t.seq = s.seq + count ∧
    s.SameOthers t ∧ t.team = { u with pc := pc, wait := parkIf u t.seq sw }

/-- The issuing team starts in the user handler (R378, R379, R381): the TRAP entry is on top, s59 to s61 tell of the trap, the
named lanes run, control is at the vector, and every other register is the team's own. -/
def State.Enters (s t : State) (cause : Cause) (named : Mask) (det : Detail) (at_ rpc : BitVec 48) : Prop :=
  let u := s.team
  let v := t.team
  let index := match u.rep with | some r => r.j | none => u.repj
  let entry : Entry :=
    { kind := .trap, cause := some cause, rpc := rpc, at_ := at_, fm := u.fm, mask := u.exec, aux := named,
      sv59 := u.getS 59, sv60 := u.getS 60, sv61 := u.getS 61, cc := u.cc, repj := BitVec.ofNat 8 index,
      term := !cause.resumable, fwd := false, copy := det.copy.isSome, detail := det, outer := u.hcount }
  s.SameOthers t ∧ v.stack = entry :: u.stack ∧ v.spilled = u.spilled ∧ v.pc = BitVec.ofNat 48 s.launch.entry.uhand ∧
    v.getS 59 = BitVec.setWidth 64 rpc ∧
    v.getS 60 = BitVec.ofNat 64 (cause.code.toNat + 256 * det.sub.toNat + (if cause.resumable then 0 else 65536)
      + 2 ^ 17 * det.level.toNat) ∧
    v.getS 61 = detailWord cause det ∧ (∀ r, r ≠ 59 → r ≠ 60 → r ≠ 61 → v.getS r = u.getS r) ∧ v.exec = named &&& u.k0 ∧
    v.regs.v = u.regs.v ∧ v.regs.k = u.regs.k ∧ v.regs.z = u.regs.z ∧ v.fm = u.fm ∧ v.cc = u.cc ∧ v.latch = none ∧
    v.rep = none ∧ v.repj = 0 ∧ v.inv = none ∧ v.handlerRuns = u.handlerRuns + 1 ∧ v.hcount = 0 ∧ v.pend = u.pend ∧
    v.copies = u.copies ∧ v.mqueue = u.mqueue ∧ v.atoms = u.atoms ∧ v.status = u.status

/-- The user handler can run for the issuing team: its vector is reachable (R378), the run is not beyond the 65535th (R383),
the stack has room for the entry (R284), and no older result is outstanding (R376). -/
abbrev State.CanEnter (s : State) : Prop :=
  s.team.rebrew = none ∧ s.team.inv = none ∧ s.handlerOk = true ∧ s.team.handlerRuns < 65535 ∧ s.team.stack.length < 16 ∧
    s.team.retired = true

end Sys2Proof.Machine
end

