-- ==== Sys2Proof/Certificates/Slice0/Obligations.lean ====
section
/-! DEFINITION. The statements about the SZ9: what its words and its agents do, what they leave alone, and what every step
keeps. -/
open Sys2Proof Sys2Proof.Machine

/-! Scalar forms. -/

/-- The scalar arithmetic and logic forms (R109): the result from a and b, the flags, and nothing else.

scmp and the forms with one source (R109): scmp is ssub with no destination. -/
def Obligations.ScalarArithmetic : Prop :=
  (∀ (s : State) (sw : Bool) (d a b : SReg) (c : BitVec 4), Ready s { sr := [a, b], sw := [d] } →
      let x := s.team.getS a
      let y := s.team.getS b
      let cc := s.team.cc
      let same (c' : BitVec 5) : Prop := c' = cc
      let logic (r : DWord) (c' : BitVec 5) : Prop := flagsAre c' (r == 0) r.msb (ccC cc) (ccV cc) (ccB cc)
      ScalarDone (.sadd sw d a b) s 1 sw d (x + y) (fun c' => flagsAre c' (x + y == 0) (x + y).msb
        (decide (2 ^ 64 ≤ x.toNat + y.toNat)) (decide (x.toInt + y.toInt ≠ (x + y).toInt)) (ccB cc)) ∧
      ScalarDone (.ssub sw d a b) s 1 sw d (x - y) (fun c' => flagsAre c' (x - y == 0) (x - y).msb
        (decide (y.toNat ≤ x.toNat)) (decide (x.toInt - y.toInt ≠ (x - y).toInt)) (ccB cc)) ∧
      ScalarDone (.smul sw d a b) s 1 sw d (BitVec.ofNat 64 (x.toNat * y.toNat)) same ∧
      ScalarDone (.smulh sw d a b) s 1 sw d (BitVec.ofInt 64 (x.toInt * y.toInt / 2 ^ 64)) same ∧
      ScalarDone (.smulhU sw d a b) s 1 sw d (BitVec.ofNat 64 (x.toNat * y.toNat / 2 ^ 64)) same ∧
      ScalarDone (.sand sw d a b) s 1 sw d (x &&& y) (logic (x &&& y)) ∧
      ScalarDone (.sor sw d a b) s 1 sw d (x ||| y) (logic (x ||| y)) ∧
      ScalarDone (.sxor sw d a b) s 1 sw d (x ^^^ y) (logic (x ^^^ y)) ∧
      ScalarDone (.sshl sw d a b) s 1 sw d (x <<< (y.toNat % 64)) same ∧
      ScalarDone (.sshr sw d a b) s 1 sw d (x >>> (y.toNat % 64)) same ∧
      ScalarDone (.ssar sw d a b) s 1 sw d (x.sshiftRight (y.toNat % 64)) same ∧
      ScalarDone (.smin sw d a b) s 1 sw d (if x.toInt ≤ y.toInt then x else y) same ∧
      ScalarDone (.smax sw d a b) s 1 sw d (if x.toInt ≤ y.toInt then y else x) same ∧
      ScalarDone (.sminU sw d a b) s 1 sw d (if x.toNat ≤ y.toNat then x else y) same ∧
      ScalarDone (.smaxU sw d a b) s 1 sw d (if x.toNat ≤ y.toNat then y else x) same ∧
      ScalarDone (.ssel sw d a b c) s 1 sw d (if condHolds c cc then x else y) same) ∧
  (∀ (s : State) (sw : Bool) (d a b : SReg) (i : Imm 12) (n : BitVec 6),
      let x := s.team.getS a
      let y := s.team.getS b
      let cc := s.team.cc
      let same (c' : BitVec 5) : Prop := c' = cc
      let logic (r : DWord) (c' : BitVec 5) : Prop := flagsAre c' (r == 0) r.msb (ccC cc) (ccV cc) (ccB cc)
      let signed : DWord := match i with | .field f => BitVec.signExtend 64 f | .lit l => BitVec.signExtend 64 l
      let unsigned : DWord := match i with | .field f => BitVec.setWidth 64 f | .lit l => BitVec.setWidth 64 l
      let words : Nat := match i with | .field _ => 1 | .lit _ => 2
      (Ready s { sr := [a, b], sw := [0] } →
        ScalarDone (.scmp sw a b) s 1 sw 0 (x - y) (fun c' => flagsAre c' (x - y == 0) (x - y).msb
          (decide (y.toNat ≤ x.toNat)) (decide (x.toInt - y.toInt ≠ (x - y).toInt)) (ccB cc))) ∧
      (Ready s { sr := [a], sw := [d] } →
        ScalarDone (.saddImm sw d a i) s words sw d (x + signed) (fun c' => flagsAre c' (x + signed == 0) (x + signed).msb
          (decide (2 ^ 64 ≤ x.toNat + signed.toNat)) (decide (x.toInt + signed.toInt ≠ (x + signed).toInt)) (ccB cc)) ∧
        ScalarDone (.sandImm sw d a i) s words sw d (x &&& unsigned) (logic (x &&& unsigned)) ∧
        ScalarDone (.sorImm sw d a i) s words sw d (x ||| unsigned) (logic (x ||| unsigned)) ∧
        ScalarDone (.sshlImm sw d a n) s 1 sw d (x <<< n.toNat) same ∧
        ScalarDone (.sshrImm sw d a n) s 1 sw d (x >>> n.toNat) same ∧
        ScalarDone (.ssarImm sw d a n) s 1 sw d (x.sshiftRight n.toNat) same ∧
        ScalarDone (.smov sw d a) s 1 sw d x same ∧
        ScalarDone (.spopc sw d a) s 1 sw d (BitVec.ofNat 64 ((List.range 64).filter fun j => x.getLsbD j).length) same ∧
        ∃ z : Nat, z ≤ 64 ∧ (∀ j, 64 - z ≤ j → x.getLsbD j = false) ∧ (z < 64 → x.getLsbD (63 - z) = true) ∧
          ScalarDone (.sclz sw d a) s 1 sw d (BitVec.ofNat 64 z) same))

/-- The division forms (R110): ARITH, with s[d] and cc unchanged before the trap, for a zero divisor; else the truncated
quotient or the remainder. ARITH is the program's to handle, and is not terminal. -/
def Obligations.ScalarDivision : Prop :=
  ∀ (s : State) (sw : Bool) (d a b : SReg), Ready s { sr := [a, b], sw := [d] } →
    let x := s.team.getS a
    let y := s.team.getS b
    let cc := s.team.cc
    let trap : Host.Outcome State Fault Refusal := .next (s.takeTrap .arith 0)
    (Cause.arith.resumable = true ∧ Cause.arith.privileged = false) ∧
    (y = 0 → exec (.sdiv sw d a b) s = trap ∧ exec (.sdivU sw d a b) s = trap ∧ exec (.srem sw d a b) s = trap ∧
      exec (.sremU sw d a b) s = trap) ∧
    (y ≠ 0 →
      ScalarDone (.sdiv sw d a b) s 1 sw d (BitVec.ofInt 64 (x.toInt.tdiv y.toInt)) (· = cc) ∧
      ScalarDone (.sdivU sw d a b) s 1 sw d (BitVec.ofNat 64 (x.toNat / y.toNat)) (· = cc) ∧
      ScalarDone (.srem sw d a b) s 1 sw d (x - y * BitVec.ofInt 64 (x.toInt.tdiv y.toInt)) (· = cc) ∧
      ScalarDone (.sremU sw d a b) s 1 sw d (x - y * BitVec.ofNat 64 (x.toNat / y.toNat)) (· = cc))

/-- The bit-field forms (R111) and the constants (R112), and the special registers 1 to 14 (R39).

The special registers (R39): what a scalar read with each number of the table gives. %qrem and %nrg are computed from the
launch's record. -/
def Obligations.ScalarFieldsAndConstants : Prop :=
  (∀ (s : State) (sw : Bool) (d a : SReg) (p w : BitVec 6) (i : Imm 18) (n : BitVec 12),
      let x := s.team.getS a
      let old := s.team.getS d
      let same (c' : BitVec 5) : Prop := c' = s.team.cc
      let signed : DWord := match i with | .field f => BitVec.signExtend 64 f | .lit l => BitVec.signExtend 64 l
      let unsigned : DWord := match i with | .field f => BitVec.setWidth 64 f | .lit l => BitVec.setWidth 64 l
      let words : Nat := match i with | .field _ => 1 | .lit _ => 2
      (Ready s { sr := [a], sw := [d] } →
        ScalarDone (.sbfx sw d a p w) s 1 sw d (BitVec.ofNat 64 (x.toNat / 2 ^ p.toNat % 2 ^ (w.toNat + 1))) same) ∧
      (Ready s { sr := [a, d], sw := [d] } → p.toNat + w.toNat + 1 ≤ 64 →
        ∃ r : DWord, (∀ j, j < 64 → r.getLsbD j =
            if p.toNat ≤ j ∧ j ≤ p.toNat + w.toNat then x.getLsbD (j - p.toNat) else old.getLsbD j) ∧
          ScalarDone (.sbfi sw d a p w) s 1 sw d r same) ∧
      (Ready s { sw := [d] } →
        ScalarDone (.smovi sw d i) s words sw d signed same ∧
        ScalarDone (.smovSpecial sw d n) s 1 sw d (specialWord s n.toNat) same) ∧
      (Ready s { sr := [d], sw := [d] } →
        ScalarDone (.slui sw d i) s words sw d ((unsigned <<< 32) ||| (old &&& 0xFFFFFFFF)) same)) ∧
  (∀ (sw : Bool) (d : SReg) (n : BitVec 12) (s : State),
      let u := s.team
      let b := s.blockOf u.block
      let l := s.launchOf u.launch
      let values : List DWord := [BitVec.ofNat 64 u.index, BitVec.ofNat 64 b.coord.1, BitVec.ofNat 64 b.coord.2.1,
        BitVec.ofNat 64 b.coord.2.2, BitVec.ofNat 64 l.grid.1, BitVec.ofNat 64 l.grid.2.1, BitVec.ofNat 64 l.grid.2.2,
        BitVec.ofNat 64 u.tsize, BitVec.ofNat 64 s.ns, u.tmr, BitVec.ofInt 64 ((l.fig.tq : Int) - ((s.ns : Int) - l.accepted)),
        BitVec.ofNat 64 (s.njOf l), BitVec.ofNat 64 u.launch, BitVec.setWidth 64 u.cc]
      ∀ x, values[n.toNat - 1]? = some x → 1 ≤ n.toNat → Ready s { sw := [d.toNat] } →
        ScalarDone (.smovSpecial sw d n) s 1 sw d x (· = u.cc))

/-! Vector forms. -/

/-- The vector integer forms of R113, on every lane of exec ∩ k. -/
def Obligations.VectorInteger : Prop :=
  ∀ (s : State) (sw : Bool) (d a b : VReg) (k : KReg) (i : Imm 12) (j : Imm 18),
    let x (l : Nat) : Word := s.team.getV a l
    let y (l : Nat) : Word := s.team.getV b l
    let clampS (n : Int) : Word := BitVec.ofInt 32 (max (-(2 ^ 31)) (min (2 ^ 31 - 1) n))
    let clampU (n : Int) : Word := BitVec.ofInt 32 (max 0 (min (2 ^ 32 - 1) n))
    let imm12 : Word := match i with | .field f => BitVec.signExtend 32 f | .lit l => l
    let imm18 : Word := match j with | .field f => BitVec.signExtend 32 f | .lit l => l
    (Ready s (vectorUse s d k [a, b]) →
      VectorDone (.vadd sw d a b k) s 1 sw d k (fun l => x l + y l) ∧
      VectorDone (.vsub sw d a b k) s 1 sw d k (fun l => x l - y l) ∧
      VectorDone (.vadds sw d a b k) s 1 sw d k (fun l => clampS ((x l).toInt + (y l).toInt)) ∧
      VectorDone (.vsubs sw d a b k) s 1 sw d k (fun l => clampS ((x l).toInt - (y l).toInt)) ∧
      VectorDone (.vaddsU sw d a b k) s 1 sw d k (fun l => clampU ((x l).toNat + (y l).toNat)) ∧
      VectorDone (.vsubsU sw d a b k) s 1 sw d k (fun l => clampU ((x l).toNat - (y l).toNat : Int)) ∧
      VectorDone (.vmul sw d a b k) s 1 sw d k (fun l => x l * y l) ∧
      VectorDone (.vmulh sw d a b k) s 1 sw d k (fun l => BitVec.ofInt 32 ((x l).toInt * (y l).toInt / 2 ^ 32)) ∧
      VectorDone (.vmulhU sw d a b k) s 1 sw d k (fun l => BitVec.ofNat 32 ((x l).toNat * (y l).toNat / 2 ^ 32)) ∧
      VectorDone (.vand sw d a b k) s 1 sw d k (fun l => x l &&& y l) ∧
      VectorDone (.vor sw d a b k) s 1 sw d k (fun l => x l ||| y l) ∧
      VectorDone (.vxor sw d a b k) s 1 sw d k (fun l => x l ^^^ y l) ∧
      VectorDone (.vshl sw d a b k) s 1 sw d k (fun l => x l <<< ((y l).toNat % 32)) ∧
      VectorDone (.vshr sw d a b k) s 1 sw d k (fun l => x l >>> ((y l).toNat % 32)) ∧
      VectorDone (.vsar sw d a b k) s 1 sw d k (fun l => (x l).sshiftRight ((y l).toNat % 32)) ∧
      VectorDone (.vmin sw d a b k) s 1 sw d k (fun l => if (x l).toInt ≤ (y l).toInt then x l else y l) ∧
      VectorDone (.vmax sw d a b k) s 1 sw d k (fun l => if (x l).toInt ≤ (y l).toInt then y l else x l) ∧
      VectorDone (.vminU sw d a b k) s 1 sw d k (fun l => if (x l).toNat ≤ (y l).toNat then x l else y l) ∧
      VectorDone (.vmaxU sw d a b k) s 1 sw d k (fun l => if (x l).toNat ≤ (y l).toNat then y l else x l)) ∧
    (Ready s (vectorUse s d k [a]) →
      VectorDone (.vabs sw d a k) s 1 sw d k (fun l => clampS ((x l).toInt.natAbs : Int)) ∧
      VectorDone (.vpopc sw d a k) s 1 sw d k
        (fun l => BitVec.ofNat 32 ((List.range 32).filter fun q => (x l).getLsbD q).length) ∧
      VectorDone (.vclz sw d a k) s 1 sw d k (fun l => BitVec.ofNat 32 (leadingZeros (x l))) ∧
      VectorDone (.vmov sw d a k) s 1 sw d k x) ∧
    (Ready s (vectorUse s d 0 [a]) →
      VectorDone (.vaddImm sw d a i) s (match i with | .field _ => 1 | .lit _ => 2) sw d 0 (fun l => x l + imm12)) ∧
    (Ready s (vectorUse s d 0 []) →
      VectorDone (.vmovi sw d j) s (match j with | .field _ => 1 | .lit _ => 2) sw d 0 (fun _ => imm18) ∧
      VectorDone (.vmovLane sw d) s 1 sw d 0 (fun l => BitVec.ofNat 32 l))

/-- vmad and vdot4 (R114): the sum is exact before the clamp or the wrap.

vsel (R116) and the bit fields of a lane (R117). -/
def Obligations.VectorDotSelectAndFields : Prop :=
  (∀ (s : State) (sw : Bool) (d a b c : VReg), Ready s (vectorUse s d 0 [a, b, c]) →
      let x (l : Nat) : Word := s.team.getV a l
      let y (l : Nat) : Word := s.team.getV b l
      let z (l : Nat) : Word := s.team.getV c l
      let byte (v : Word) (i : Nat) : BitVec 8 := BitVec.extractLsb' (8 * i) 8 v
      let out (t : Int) : Word := BitVec.ofInt 32 (if s.team.fm.getLsbD 14 then max (-(2 ^ 31)) (min (2 ^ 31 - 1) t) else t)
      VectorDone (.vmad sw d a b c) s 1 sw d 0 (fun l => x l * y l + z l) ∧
      VectorDone (.vdot4 sw d a b c) s 1 sw d 0 (fun l => out ((z l).toInt
        + ((byte (x l) 0).toInt * (byte (y l) 0).toInt + (byte (x l) 1).toInt * (byte (y l) 1).toInt
          + (byte (x l) 2).toInt * (byte (y l) 2).toInt + (byte (x l) 3).toInt * (byte (y l) 3).toInt))) ∧
      VectorDone (.vdot4U sw d a b c) s 1 sw d 0 (fun l => out ((z l).toInt
        + ((byte (x l) 0).toNat * (byte (y l) 0).toNat + (byte (x l) 1).toNat * (byte (y l) 1).toNat
          + (byte (x l) 2).toNat * (byte (y l) 2).toNat + (byte (x l) 3).toNat * (byte (y l) 3).toNat)))) ∧
  (∀ (s : State) (sw : Bool) (d a b : VReg) (k m : KReg) (p w : BitVec 5),
      let x (l : Nat) : Word := s.team.getV a l
      let field (l : Nat) : Nat := (x l).toNat / 2 ^ p.toNat % 2 ^ (w.toNat + 1)
      (Ready s { vectorUse s d k [a, b] with kr := m :: predK k } →
        VectorDone (.vsel sw d a b k m) s 1 sw d k
          (fun l => if (s.team.getK m).getLsbD l then x l else s.team.getV b l)) ∧
      (Ready s (vectorUse s d 0 [a]) → p.toNat + w.toNat + 1 ≤ 32 →
        VectorDone (.vbfxU sw d a p w) s 1 sw d 0 (fun l => BitVec.ofNat 32 (field l)) ∧
        VectorDone (.vbfxS sw d a p w) s 1 sw d 0
          (fun l => BitVec.ofInt 32 (if 2 ^ w.toNat ≤ field l then (field l : Int) - 2 ^ (w.toNat + 1) else field l))) ∧
      (Ready s (vectorUse s d 0 [a, d]) → p.toNat + w.toNat + 1 ≤ 32 →
        ∃ r : Nat → Word, (∀ l j, j < 32 → (r l).getLsbD j =
            if p.toNat ≤ j ∧ j ≤ p.toNat + w.toNat then (x l).getLsbD (j - p.toNat) else (s.team.getV d l).getLsbD j) ∧
          VectorDone (.vbfi sw d a p w) s 1 sw d 0 r))

/-- A compare writes bit l exactly for the lanes l of its set that pass, and B (R115, R120).

The vote forms and ballot (R132). -/
def Obligations.ComparesAndVotes : Prop :=
  (∀ (s : State) (sw : Bool) (d : KReg) (a b : VReg) (k : KReg), d ≠ 0 →
      Ready s { vr := [a.toNat, b.toNat], kr := predK k, kw := [d], lanes := some (s.team.lanes k) } →
      let x (l : Nat) : Word := s.team.getV a l
      let y (l : Nat) : Word := s.team.getV b l
      let fx (l : Nat) : Val := decode32 (Fm.ftz s.team.fm) (x l)
      let fy (l : Nat) : Val := decode32 (Fm.ftz s.team.fm) (y l)
      let num (l : Nat) : Bool := fx l != .nan && fy l != .nan
      let writes (i : Instr) (p : Nat → Bool) : Prop :=
        ∃ m : Mask, (∀ l, m.getLsbD l = (decide (l < 1024 ∧ l < s.team.tsize) && (s.team.lanes k).getLsbD l && p l)) ∧
          MaskDone i s sw d m
      writes (.vcmpEq sw d a b k) (fun l => x l == y l) ∧
      writes (.vcmpNe sw d a b k) (fun l => x l != y l) ∧
      writes (.vcmpLt sw d a b k) (fun l => decide ((x l).toInt < (y l).toInt)) ∧
      writes (.vcmpLe sw d a b k) (fun l => decide ((x l).toInt ≤ (y l).toInt)) ∧
      writes (.vcmpLtu sw d a b k) (fun l => decide ((x l).toNat < (y l).toNat)) ∧
      writes (.vcmpLeu sw d a b k) (fun l => decide ((x l).toNat ≤ (y l).toNat)) ∧
      writes (.fcmpEq sw d a b k) (fun l => eqVal (fx l) (fy l)) ∧
      writes (.fcmpNe sw d a b k) (fun l => !eqVal (fx l) (fy l)) ∧
      writes (.fcmpLt sw d a b k) (fun l => num l && ltVal (fx l) (fy l)) ∧
      writes (.fcmpLe sw d a b k) (fun l => num l && (ltVal (fx l) (fy l) || eqVal (fx l) (fy l))) ∧
      writes (.fcmpUn sw d a b k) (fun l => !num l) ∧
      writes (.fcmpOrd sw d a b k) num) ∧
  (∀ (s : State) (sw : Bool) (d : SReg) (m : KReg) (a : VReg) (k : KReg),
      let inSet (l : Nat) : Prop := l < 1024 ∧ l < s.team.tsize ∧ (s.team.lanes k).getLsbD l = true
      let x (l : Nat) : Word := s.team.getV a l
      let tells (i : Instr) (p : Prop) : Prop := (p → ScalarPending i s sw d 1) ∧ (¬ p → ScalarPending i s sw d 0)
      (Ready s { vr := [a.toNat], sw := [d], kr := predK k, lanes := some (s.team.lanes k) } →
        tells (.voteAny sw d a k) (∃ l, inSet l ∧ x l ≠ 0) ∧ tells (.voteAll sw d a k) (∀ l, inSet l → x l ≠ 0) ∧
        tells (.voteUni sw d a k) (∀ l l', inSet l → inSet l' → x l = x l')) ∧
      (Ready s { vr := [a.toNat], kr := predK k, kw := [m], lanes := some (s.team.lanes k) } →
        ∃ b : Mask, (∀ l, b.getLsbD l = true ↔ inSet l ∧ x l ≠ 0) ∧
          ∃ cc : BitVec 5, flagsAre cc (ccZ s.team.cc) (ccN s.team.cc) (ccC s.team.cc) (ccV s.team.cc) (b == 0) ∧
            PendDone (.ballot sw m a k) s sw (.k m) (.mask b) cc))


/-- The FP32 forms of R118, R119 and R121 to R122: operands decoded under FTZ, modified (R64), one rounding in fm.rm under
fm.sat and fm.ftz. -/
def Obligations.VectorFloat : Prop :=
  ∀ (s : State) (sw : Bool) (d a b c : VReg) (k : KReg) (m : BitVec 3),
    let fm := s.team.fm
    let dec (r : VReg) (l : Nat) : Val := decode32 (fm.getLsbD 15) (s.team.getV r l)
    let absIf (p : Bool) (v : Val) : Val := if p then v.abs else v
    let negIf (p : Bool) (v : Val) : Val := if p then v.neg else v
    let x (l : Nat) : Val := negIf (m.getLsbD 1) (absIf (m.getLsbD 0) (dec a l))
    let y (l : Nat) : Val := negIf (m.getLsbD 2) (dec b l)
    let rm : Nat := fm.toNat / 2 ^ 12 % 4
    let round (v : Val) : Word := round32 rm (fm.getLsbD 14) (fm.getLsbD 15) v
    (Ready s (vectorUse s d k [a, b]) →
      VectorDone (.fadd sw d a b k m) s 1 sw d k (fun l => round (addVal rm (x l) (y l))) ∧
      VectorDone (.fsub sw d a b k m) s 1 sw d k (fun l => round (addVal rm (x l) (y l).neg)) ∧
      VectorDone (.fmul sw d a b k m) s 1 sw d k (fun l => round (mulVal (x l) (y l))) ∧
      VectorDone (.fmin sw d a b k m) s 1 sw d k (fun l => encode32 (fminVal (x l) (y l))) ∧
      VectorDone (.fmax sw d a b k m) s 1 sw d k (fun l => encode32 (fmaxVal (x l) (y l)))) ∧
    (Ready s (vectorUse s d 0 [a, b, c]) →
      VectorDone (.fma sw d a b c) s 1 sw d 0 (fun l => round (addVal rm (mulVal (dec a l) (dec b l)) (dec c l)))) ∧
    (Ready s (vectorUse s d k [a]) →
      VectorDone (.fclass sw d a k) s 1 sw d k (fun l => fclassWord (s.team.getV a l))) ∧
    (Ready s (vectorUse s d 0 [a]) →
      VectorDone (.froundRn sw d a) s 1 sw d 0 (fun l => froundWord 0 (dec a l)) ∧
      VectorDone (.froundRz sw d a) s 1 sw d 0 (fun l => froundWord 1 (dec a l)) ∧
      VectorDone (.froundRu sw d a) s 1 sw d 0 (fun l => froundWord 2 (dec a l)) ∧
      VectorDone (.froundRd sw d a) s 1 sw d 0 (fun l => froundWord 3 (dec a l)) ∧
      VectorDone (.fround sw d a) s 1 sw d 0 (fun l => froundWord rm (dec a l)))

/-- fclass sets exactly one bit of [9:0], by the raw pattern (R121).

fmin and fmax return an operand, or the canonical NaN (R119).

Rounding an FP32 value to FP32 gives it back, in every mode and under both settings of SAT (R91, R118). -/
def Obligations.FloatClassesAndRounding : Prop :=
  (∀ w : Word,
      let sign := w.getLsbD 31
      let exponent := w.toNat / 2 ^ 23 % 256
      let fraction := w.toNat % 2 ^ 23
      (exponent = 255 ∧ fraction = 0 → fclassWord w = if sign then 1 else 128) ∧
      (0 < exponent ∧ exponent < 255 → fclassWord w = if sign then 2 else 64) ∧
      (exponent = 0 ∧ fraction ≠ 0 → fclassWord w = if sign then 4 else 32) ∧
      (exponent = 0 ∧ fraction = 0 → fclassWord w = if sign then 8 else 16) ∧
      (exponent = 255 ∧ fraction ≠ 0 → fclassWord w = if w.getLsbD 22 then 512 else 256)) ∧
  (∀ x y : Val,
      (x = .nan → fminVal x y = y ∧ fmaxVal x y = y) ∧ (y = .nan → fminVal x y = x ∧ fmaxVal x y = x) ∧
      (fminVal x y = x ∨ fminVal x y = y) ∧ (fmaxVal x y = x ∨ fmaxVal x y = y) ∧
      (x ≠ .nan → y ≠ .nan → ltVal (fmaxVal x y) (fminVal x y) = false) ∧
      fminVal (.fin true 0 0) (.fin false 0 0) = .fin true 0 0 ∧ fmaxVal (.fin true 0 0) (.fin false 0 0) = .fin false 0 0) ∧
  (∀ (w : Word) (rm : Nat) (sat : Bool), w.toNat % 2 ^ 31 ≤ 0x7F800000 → round32 rm sat false (decode32 false w) = w)

/-- fdiv and the forms of opcode 0x28 leave a result that is pending (R43, R123, R124), computed from fm and the operands at
issue; with an empty lane set they change nothing. -/
def Obligations.FloatPending : Prop :=
  ∀ (s : State) (sw : Bool) (d a b : VReg) (k : KReg) (m : BitVec 3) (q : BitVec 2),
    let fm := s.team.fm
    let dec (r : VReg) (l : Nat) : Val := decode32 (fm.getLsbD 15) (s.team.getV r l)
    let absIf (p : Bool) (v : Val) : Val := if p then v.abs else v
    let negIf (p : Bool) (v : Val) : Val := if p then v.neg else v
    let x (l : Nat) : Val := negIf (m.getLsbD 1) (absIf (m.getLsbD 0) (dec a l))
    let y (l : Nat) : Val := negIf (m.getLsbD 2) (dec b l)
    let z (l : Nat) : Val := negIf (q.getLsbD 1) (absIf (q.getLsbD 0) (dec a l))
    let rm : Nat := fm.toNat / 2 ^ 12 % 4
    let fn (f : Fn) (l : Nat) : Word := transc f rm (fm.getLsbD 14) (fm.getLsbD 15) fm (z l)
    (Ready s (vectorUse s d k [a, b]) →
      VectorPending (.fdiv sw d a b k m) s sw d k (fun l => fdivWord rm (fm.getLsbD 14) (fm.getLsbD 15) (x l) (y l))) ∧
    (Ready s (vectorUse s d k [a]) →
      VectorPending (.frcp sw d a k q) s sw d k (fn .frcp) ∧ VectorPending (.frsq sw d a k q) s sw d k (fn .frsq) ∧
      VectorPending (.fsqrt sw d a k q) s sw d k (fn .fsqrt) ∧ VectorPending (.fexp2 sw d a k q) s sw d k (fn .fexp2) ∧
      VectorPending (.flog2 sw d a k q) s sw d k (fn .flog2) ∧ VectorPending (.fsin sw d a k q) s sw d k (fn .fsin) ∧
      VectorPending (.fcos sw d a k q) s sw d k (fn .fcos) ∧ VectorPending (.ftanh sw d a k q) s sw d k (fn .ftanh))

/-- The special cases of fdiv (R123), and fixed points of the forms of opcode 0x28 (R124): at NaN, infinities and zeros, fexp2 of
integers, flog2 of powers of two, fsin of integers and of ±1/2, fcos of 1/2, of ±1 and of even integers. -/
def Obligations.FloatFixedPoints : Prop :=
  ∀ (rm : Nat) (sat ftz : Bool) (fm : Word) (m m' : Nat) (e e' : Int) (s s' : Bool), 0 < m → 0 < m' →
    let nan : Word := 0x7FC00000
    let inf (s : Bool) : Word := if s then 0xFF800000 else 0x7F800000
    let zero (s : Bool) : Word := if s then 0x80000000 else 0
    let t (f : Fn) (v : Val) : Word := transc f rm sat ftz fm v
    let div (x y : Val) : Word := fdivWord rm sat ftz x y
    (div (.fin s m e) (.fin s' 0 e') = inf (s ^^ s') ∧ div (.fin s 0 e) (.fin s' 0 e') = nan ∧
      div (.inf s) (.inf s') = nan ∧ div (.fin s m e) (.inf s') = zero (s ^^ s') ∧
      div (.fin s 0 e) (.fin s' m' e') = zero (s ^^ s') ∧ div .nan (.fin s' m' e') = nan ∧ div (.fin s m e) .nan = nan) ∧
    (∀ f, t f .nan = nan) ∧
    (t .frcp (.inf s) = zero s ∧ t .frcp (.fin s 0 e) = inf s) ∧
    (t .frsq (.inf true) = nan ∧ t .frsq (.inf false) = 0 ∧ t .frsq (.fin s 0 e) = inf s ∧ t .frsq (.fin true m e) = nan) ∧
    (t .fsqrt (.inf true) = nan ∧ t .fsqrt (.inf false) = inf false ∧ t .fsqrt (.fin s 0 e) = zero s ∧
      t .fsqrt (.fin true m e) = nan) ∧
    (t .fexp2 (.inf true) = 0 ∧ t .fexp2 (.inf false) = inf false ∧ t .fexp2 (.fin s 0 e) = 0x3F800000 ∧
      (∀ n, n ≤ 127 → t .fexp2 (.fin false n 0) = BitVec.ofNat 32 ((127 + n) * 2 ^ 23)) ∧
      ∀ n, n ≤ 126 → t .fexp2 (.fin true n 0) = BitVec.ofNat 32 ((127 - n) * 2 ^ 23)) ∧
    (t .flog2 (.inf true) = nan ∧ t .flog2 (.inf false) = inf false ∧ t .flog2 (.fin s 0 e) = inf true ∧
      t .flog2 (.fin true m e) = nan ∧ t .flog2 (.fin false 1 0) = 0 ∧ t .flog2 (.fin false 1 e) = encode32 (.ofInt e)) ∧
    (t .fsin (.inf s) = nan ∧ t .fsin (.fin s 0 e) = zero s ∧ (0 ≤ e → t .fsin (.fin s m e) = zero s) ∧
      t .fsin (.fin s 1 (-1)) = if s then 0xBF800000 else 0x3F800000) ∧
    (t .fcos (.inf s) = nan ∧ t .fcos (.fin s 0 e) = 0x3F800000 ∧ t .fcos (.fin s 1 (-1)) = 0 ∧
      t .fcos (.fin s 1 0) = 0xBF800000 ∧ (0 < e → t .fcos (.fin s m e) = 0x3F800000)) ∧
    (t .ftanh (.inf true) = 0xBF800000 ∧ t .ftanh (.inf false) = 0x3F800000 ∧ t .ftanh (.fin s 0 e) = zero s)

/-! Conversion and format forms. -/

/-- cvt and unpack (R125, R127): every lane of exec takes the converted element, when no lane holds a TERN element of 0b10; a
lane that does raises FMT for itself, and the others are written; a code above 10 raises FMT for the lanes of exec before any
lane is written. -/
def Obligations.Conversions : Prop :=
  ∀ (s : State) (sw : Bool) (d a : VReg) (f g : BitVec 4) (i : BitVec 3) (ff gf : Fmt), Ready s (vectorUse s d 0 [a]) →
    let fm := s.team.fm
    let out (q : Fmt) (bits : Nat) : Word := place q (convert q (fm.toNat / 2 ^ 12 % 4) (fm.getLsbD 14) (fm.getLsbD 15)
      (decodeElem ff (fm.getLsbD 15) bits))
    let wide : Fmt := if ff.isFloat then .fp32 else .int32
    let low (l : Nat) : Nat := (s.team.getV a l).toNat % 2 ^ ff.width
    let nth (l : Nat) : Nat := (s.team.getV a l).toNat / 2 ^ (ff.width * i.toNat) % 2 ^ ff.width
    let whole (e : Nat → Nat) : Prop := ∀ l, l < s.team.tsize → s.team.exec.getLsbD l = true → ¬ (ff = .tern ∧ e l % 4 = 2)
    (f.toNat ≤ 10 → g.toNat ≤ 10 → Fmt.ofCode f.toNat = some ff → Fmt.ofCode g.toNat = some gf → whole low →
      VectorDone (.cvt sw d a f g) s 1 sw d 0 (fun l => out gf (low l))) ∧
    (f.toNat ≤ 10 → Fmt.ofCode f.toNat = some ff → whole nth →
      VectorDone (.unpack sw d a f i) s 1 sw d 0 (fun l => out wide (nth l))) ∧
    (∀ bad : Mask, bad ≠ 0 → f.toNat = 9 → ff = .tern →
      let partly (i : Instr) (e : Nat → Nat) (r : Nat → Word) : Prop :=
        (∀ l, bad.getLsbD l = (decide (l < 1024 ∧ l < s.team.tsize) && s.team.exec.getLsbD l && decide (e l = 2))) →
        ∃ t, exec i s = .next (t.takeTrap .fmt bad) ∧ s.SameOutside t ∧ s.SameOthers t ∧ t.team.pc = s.team.pc ∧
          s.team.SameV t.team (some d) ∧ s.team.SameS t.team none ∧ s.team.SameK t.team none ∧ s.team.SameMode t.team ∧
          ∀ l, l < s.team.tsize →
            t.team.getV d l = if s.team.exec.getLsbD l && !bad.getLsbD l then r l else s.team.getV d l
      (g.toNat ≤ 10 → Fmt.ofCode g.toNat = some gf → partly (.cvt sw d a f g) low (fun l => out gf (low l))) ∧
        partly (.unpack sw d a f i) nth (fun l => out wide (nth l))) ∧
    (s.team.exec ≠ 0 → 10 < f.toNat ∨ 10 < g.toNat →
      exec (.cvt sw d a f g) s = .next (s.takeTrap .fmt s.team.exec)) ∧
    (s.team.exec ≠ 0 → 10 < f.toNat → exec (.unpack sw d a f i) s = .next (s.takeTrap .fmt s.team.exec))

/-- The fm forms (R129): fmset writes fm[17:0] and zero above; from a scalar with a bit above 17 it raises FMT; fmget reads
fm.

The pack forms, bscale and bapply (R126, R128): they need an accepted fm.cfmt, and raise FMT on every other code. -/
def Obligations.FormatAndPack : Prop :=
  (∀ (s : State) (sw : Bool) (d a : SReg) (i : BitVec 18),
      let x := s.team.getS a
      let sets (j : Instr) (w : Word) : Prop := Completes j s 1 sw fun u u' => u'.fm = w ∧ u'.exec = u.exec ∧ u'.cc = u.cc ∧
        u.SameV u' none ∧ u.SameS u' none ∧ u.SameK u' none ∧ (∀ z, u'.getZ z = u.getZ z) ∧ u'.latch = u.latch
      (Ready s {} → sets (.fmsetImm sw i) (BitVec.setWidth 32 i)) ∧
      (Ready s { sr := [a] } → x.toNat < 2 ^ 18 → sets (.fmset sw a) (BitVec.setWidth 32 x)) ∧
      (Ready s { sr := [a] } → 2 ^ 18 ≤ x.toNat → exec (.fmset sw a) s = .next (s.takeTrap .fmt 0)) ∧
      (Ready s { sw := [d] } → ScalarDone (.fmget sw d) s 1 sw d (BitVec.setWidth 64 s.team.fm) (· = s.team.cc))) ∧
  (∀ (s : State) (sw : Bool) (d a b c : VReg) (k : KReg) (g : Fmt),
      let fm := s.team.fm
      let rm : Nat := fm.toNat / 2 ^ 12 % 4
      let code : Nat := fm.toNat / 2 ^ 8 % 16
      let v (r : VReg) (l : Nat) : Word := s.team.getV r l
      let scale (l : Nat) : Nat := (v b l).toNat % 256
      let dec (l : Nat) : Val := decode32 (fm.getLsbD 15) (v a l)
      let narrow (w : Word) : Nat :=
        convert g rm (fm.getLsbD 14) (fm.getLsbD 15)
          (decodeElem (if g.isFloat then .fp32 else .int32) (fm.getLsbD 15) w.toNat)
      (Ready s (vectorUse s d k [a, b]) →
        VectorDone (.bscale sw d a b k) s 1 sw d k (fun l => round32 rm (fm.getLsbD 14) (fm.getLsbD 15)
          (if scale l = 255 then .nan else scaleVal (dec l) ((scale l : Int) - 127))) ∧
        (Fmt.ofCode code = some g → code ≤ 10 →
          VectorDone (.bapply sw d a b k) s 1 sw d k (fun l => place g (roundTo g rm (fm.getLsbD 14) (fm.getLsbD 15)
            (if scale l = 255 then .nan else scaleVal (dec l) (127 - (scale l : Int)))))) ∧
        (g = .fp16 ∨ g = .bf16 → Fmt.ofCode code = some g →
          VectorDone (.pack2 sw d a b k) s 1 sw d k
            (fun l => BitVec.ofNat 32 (narrow (v a l) + 2 ^ 16 * narrow (v b l)))) ∧
        (s.team.lanes k ≠ 0 → 10 < code → exec (.bapply sw d a b k) s = .next (s.takeTrap .fmt (s.team.lanes k))) ∧
        (s.team.lanes k ≠ 0 → code ≠ 1 → code ≠ 2 →
          exec (.pack2 sw d a b k) s = .next (s.takeTrap .fmt (s.team.lanes k)))) ∧
      (Ready s (vectorUse s d 0 [a, b, c, d]) →
        (g = .e4m3 ∨ g = .e5m2 ∨ g = .int8 ∨ g = .uint8 → Fmt.ofCode code = some g →
          VectorDone (.pack4 sw d a b c) s 1 sw d 0 (fun l => BitVec.ofNat 32 (narrow (v a l) + 2 ^ 8 * narrow (v b l)
            + 2 ^ 16 * narrow (v c l) + 2 ^ 24 * ((v d l).toNat / 2 ^ 24)))) ∧
        (s.team.exec ≠ 0 → code ≠ 3 → code ≠ 4 → code ≠ 6 → code ≠ 7 →
          exec (.pack4 sw d a b c) s = .next (s.takeTrap .fmt s.team.exec))))

/-! Cross-lane and mask forms. -/

/-- The shuffles (R130): lane l of the set takes a of lane j as it stands at issue, or its own a when j names no lane; the
result is pending. -/
def Obligations.Shuffles : Prop :=
  ∀ (s : State) (sw : Bool) (d a b : VReg) (r : SReg) (k : KReg),
    let pick (l : Nat) (j : Int) : Word :=
      if 0 ≤ j ∧ j < (s.team.tsize : Int) then s.team.getV a j.toNat else s.team.getV a l
    let x : Nat := (s.team.getS r).toNat
    (Ready s (vectorUse s d k [a, b]) →
      VectorPending (.shflIdx sw d a b k) s sw d k (fun l => pick l (s.team.getV b l).toNat)) ∧
    (Ready s { vectorUse s d k [a] with sr := [r] } →
      VectorPending (.shflXor sw d a r k) s sw d k (fun l => pick l (l ^^^ x : Nat)) ∧
      VectorPending (.shflUp sw d a r k) s sw d k (fun l => pick l ((l : Int) - x)) ∧
      VectorPending (.shflDn sw d a r k) s sw d k (fun l => pick l ((l : Int) + x)) ∧
      VectorPending (.bcast sw d a r k) s sw d k (fun l => pick l x))

/-- rdc and scan (R99, R131): the tree over the lanes of the set, extended to the scalar; the scan at lane l is the tree over
the lanes of the set up to l.

The tree over integer lanes gives the wrapped sum of the lanes that take part, whatever the team's size (R99). -/
def Obligations.ReduceAndScan : Prop :=
  (∀ (s : State) (sw : Bool) (d : SReg) (v a : VReg) (k : KReg),
      let tree (o : RedOp) (upto : Nat) : Word := ((treeReduce o s.team.fm (Nat.log2 s.team.tsize)
        ((List.range s.team.tsize).map fun l =>
          if (s.team.lanes k).getLsbD l && decide (l ≤ upto) then some (o.leaf s.team.fm (s.team.getV a l)) else none)).getD
          o.identity)
      let all (o : RedOp) : Word := tree o s.team.tsize
      (Ready s { vr := [a.toNat], sw := [d], kr := predK k, lanes := some (s.team.lanes k) } →
        ScalarPending (.rdcAdd sw d a k) s sw d (BitVec.signExtend 64 (all .add)) ∧
        ScalarPending (.rdcMin sw d a k) s sw d (BitVec.signExtend 64 (all .min)) ∧
        ScalarPending (.rdcMax sw d a k) s sw d (BitVec.signExtend 64 (all .max)) ∧
        ScalarPending (.rdcMinU sw d a k) s sw d (BitVec.setWidth 64 (all .minU)) ∧
        ScalarPending (.rdcMaxU sw d a k) s sw d (BitVec.setWidth 64 (all .maxU)) ∧
        ScalarPending (.rdcFadd sw d a k) s sw d (BitVec.setWidth 64 (all .fadd)) ∧
        ScalarPending (.rdcFmin sw d a k) s sw d (BitVec.setWidth 64 (all .fmin)) ∧
        ScalarPending (.rdcFmax sw d a k) s sw d (BitVec.setWidth 64 (all .fmax))) ∧
      (Ready s (vectorUse s v k [a]) →
        VectorPending (.scanAdd sw v a k) s sw v k (tree .add) ∧ VectorPending (.scanMin sw v a k) s sw v k (tree .min) ∧
        VectorPending (.scanMax sw v a k) s sw v k (tree .max) ∧ VectorPending (.scanMinU sw v a k) s sw v k (tree .minU) ∧
        VectorPending (.scanMaxU sw v a k) s sw v k (tree .maxU) ∧ VectorPending (.scanFadd sw v a k) s sw v k (tree .fadd) ∧
        VectorPending (.scanFmin sw v a k) s sw v k (tree .fmin) ∧ VectorPending (.scanFmax sw v a k) s sw v k (tree .fmax))) ∧
  (∀ (fm : Word) (n : Nat) (l : List (Option Word)), l.length = 2 ^ n →
      (treeReduce .add fm n l).getD 0 = (l.filterMap id).foldl (· + ·) 0)

/-- The mask forms (R133): every result is ANDed with k0, and B tells whether it is empty.

The mask counting forms (R134): kpop and kfirst write B from the mask read, kset from the mask written. -/
def Obligations.MaskFormsAndCounts : Prop :=
  (∀ (s : State) (sw : Bool) (d a b : KReg), d ≠ 0 →
      let x := s.team.getK a
      let y := s.team.getK b
      let k0 := s.team.getK 0
      (Ready s { kr := [a, b], kw := [d] } →
        MaskDone (.kand sw d a b) s sw d (x &&& y &&& k0) ∧ MaskDone (.kor sw d a b) s sw d ((x ||| y) &&& k0) ∧
        MaskDone (.kxor sw d a b) s sw d ((x ^^^ y) &&& k0) ∧ MaskDone (.kandn sw d a b) s sw d (x &&& ~~~y &&& k0)) ∧
      (Ready s { kr := [a], kw := [d] } →
        MaskDone (.knot sw d a) s sw d (~~~x &&& k0) ∧ MaskDone (.kmov sw d a) s sw d (x &&& k0))) ∧
  (∀ (s : State) (sw : Bool) (d : SReg) (a m : KReg) (n : BitVec 18),
      let x := s.team.getK a
      let cc := s.team.cc
      let b (c' : BitVec 5) : Prop := flagsAre c' (ccZ cc) (ccN cc) (ccC cc) (ccV cc) (x == 0)
      (Ready s { kr := [a], sw := [d] } →
        ScalarDone (.kpop sw d a) s 1 sw d (BitVec.ofNat 64 ((List.range 1024).filter fun l => x.getLsbD l).length) b ∧
        (x = 0 → ScalarDone (.kfirst sw d a) s 1 sw d (BitVec.allOnes 64) b) ∧
        ∀ l, x.getLsbD l = true → (∀ j, j < l → x.getLsbD j = false) →
          ScalarDone (.kfirst sw d a) s 1 sw d (BitVec.ofNat 64 l) b) ∧
      (m ≠ 0 → Ready s { kw := [m] } → ∃ r : Mask,
        (∀ l, l < 1024 → r.getLsbD l = (decide (l < n.toNat) && (s.team.getK 0).getLsbD l)) ∧ MaskDone (.kset sw m n) s sw m r))


/-! Memory. -/

/-- ld (R205): when every active lane's address is aligned and may be read, the result is pending, with the place of each lane
and its value still to be read; the acquiring form also begins an acquire, which later accesses wait for (R241).

sld (R206): as ld, from the block's stash; a mapped byte is the global byte that it stands for (R183).

Where the team's queued matrix work has still to write bytes that a lane names, both wait, and issue again (R147, R153, R206).

In ld and st a lane whose address is not a multiple of the access size raises ALIGN for the lanes concerned, before anything is
written (R204); in sld and sst, also a base of 2^20 or more. With an empty exec the four forms have no effect (R203). -/
def Obligations.Loads : Prop :=
  (∀ (s : State) (sw : Bool) (d : VReg) (b : SReg) (x : VReg) (w h : BitVec 2) (pa : Nat → Nat),
      let use : Use := { vr := [x.toNat], vw := dataRegs d w, sr := [b], lanes := some s.team.exec }
      let ls := lanesOf s.team.tsize s.team.exec
      let va (l : Nat) : Nat := (s.team.getS b + BitVec.setWidth 64 (s.team.getV x l)).toNat
      let f (u : Team) : Team := u.withPend s.seq (.v d.toNat (if w = 3 then 2 else 1))
        (.load w.toNat (ls.map fun l => (l, .lin (pa l), none)))
      Ready s use → s.team.rebrew = none → s.team.exec ≠ 0 → (∀ l ∈ ls, va l % 2 ^ w.toNat = 0) →
        (∀ l ∈ ls, s.translate s.ctx (va l) .read = .ok (pa l) ∧ s.accessFault s.ctx (va l) .read = none) →
        let held := s.queueMeets (ls.map fun l => .lin (pa l)) (2 ^ w.toNat) false
        (held = false → (∃ t, exec (.ld sw d b x w h false) s = .next t ∧ s.SameButTeams t ∧ t.seq = s.seq + 1 ∧ s.Went t use 1 sw f) ∧
          ∃ t, exec (.ld sw d b x w h true) s = .next t ∧ s.SameButTeams t ∧ t.seq = s.seq + 1 ∧
            s.Went t use 1 sw (fun u => (f u).withAcquire s.seq)) ∧
        (held = true → ∀ o, exec (.ld sw d b x w h o) s = .next ((s.touch use).waitFor .matrix))) ∧
  (∀ (s : State) (sw : Bool) (d : VReg) (b : SReg) (x : VReg) (w : BitVec 2),
      let use : Use := { vr := [x.toNat], vw := dataRegs d w, sr := [b], lanes := some s.team.exec }
      let ls := lanesOf s.team.tsize s.team.exec
      let off (l : Nat) : Nat := (s.team.getS b).toNat + (s.team.getV x l).toNat
      let f (u : Team) : Team := u.withPend s.seq (.v d.toNat (if w = 3 then 2 else 1))
        (.load w.toNat (ls.map fun l => (l, s.block.place (off l), none)))
      Ready s use → s.team.exec ≠ 0 → (s.team.getS b).toNat < 2 ^ 20 →
        (∀ l ∈ ls, off l % 2 ^ w.toNat = 0 ∧ off l + 2 ^ w.toNat ≤ 1024 * s.block.stashKiB) →
        let held := s.queueMeets (ls.map fun l => s.block.place (off l)) (2 ^ w.toNat) false
        (held = false → (∃ t, exec (.sld sw d b x w false) s = .next t ∧ s.SameButTeams t ∧ t.seq = s.seq + 1 ∧ s.Went t use 1 sw f) ∧
          ∃ t, exec (.sld sw d b x w true) s = .next t ∧ s.SameButTeams t ∧ t.seq = s.seq + 1 ∧
            s.Went t use 1 sw (fun u => (f u).withAcquire s.seq)) ∧
        (held = true → ∀ o, exec (.sld sw d b x w o) s = .next ((s.touch use).waitFor .matrix))) ∧
  (∀ (s : State) (sw : Bool) (d : VReg) (b : SReg) (x : VReg) (w h : BitVec 2) (o : Bool) (l0 : Nat) (rest : List Nat),
      let reads : Use := { vr := [x.toNat], vw := dataRegs d w, sr := [b], lanes := some s.team.exec }
      let writes : Use := { vr := x.toNat :: dataRegs d w, sr := [b], lanes := some s.team.exec }
      let va (l : Nat) : DWord := s.team.getS b + BitVec.setWidth 64 (s.team.getV x l)
      let bad := (lanesOf s.team.tsize s.team.exec).filter fun l => (va l).toNat % 2 ^ w.toNat != 0
      let trap : Host.Outcome State Fault Refusal :=
        .next (s.takeTrap .align (maskOf s.team.tsize (l0 :: rest).contains) { addr := va l0 })
      s.team.rebrew = none → s.team.exec ≠ 0 → bad = l0 :: rest →
        (Ready s reads → exec (.ld sw d b x w h o) s = trap) ∧ (Ready s writes → exec (.st sw d b x w h o) s = trap)) ∧
  (∀ (s : State) (sw : Bool) (d : VReg) (b : SReg) (x : VReg) (w : BitVec 2) (o : Bool) (l0 : Nat) (rest : List Nat),
      let reads : Use := { vr := [x.toNat], vw := dataRegs d w, sr := [b], lanes := some s.team.exec }
      let writes : Use := { vr := x.toNat :: dataRegs d w, sr := [b], lanes := some s.team.exec }
      let base := (s.team.getS b).toNat
      let off (l : Nat) : Nat := base % 2 ^ 20 + (s.team.getV x l).toNat
      let bad := (lanesOf s.team.tsize s.team.exec).filter fun l => decide (2 ^ 20 ≤ base) || off l % 2 ^ w.toNat != 0
      let trap : Host.Outcome State Fault Refusal :=
        .next (s.takeTrap .align (maskOf s.team.tsize (l0 :: rest).contains) { addr := BitVec.ofNat 64 (off l0) })
      s.team.exec ≠ 0 → bad = l0 :: rest →
        (Ready s reads → exec (.sld sw d b x w o) s = trap) ∧ (Ready s writes → exec (.sst sw d b x w o) s = trap)) ∧
  (∀ (s : State) (sw : Bool) (d : VReg) (b : SReg) (x : VReg) (w h : BitVec 2) (o : Bool),
      let reads : Use := { vr := [x.toNat], vw := dataRegs d w, sr := [b], lanes := some s.team.exec }
      let writes : Use := { vr := x.toNat :: dataRegs d w, sr := [b], lanes := some s.team.exec }
      let idle (i : Instr) (u : Use) : Prop := Ready s u → ∃ t, exec i s = .next t ∧ s.SameOutside t ∧ s.Went t {} 1 sw id
      s.team.exec = 0 → idle (.sld sw d b x w o) reads ∧ idle (.sst sw d b x w o) writes ∧
        (s.team.rebrew = none → idle (.ld sw d b x w h o) reads ∧ idle (.st sw d b x w h o) writes))

/-- st (R184, R205, R236): each lane's bytes are a store of their own, in ascending lane order, that its core has still to accept
and its home slice to order; the word itself changes no byte. With a release, the release begins first (R241).

sst (R206): likewise, each lane a store to the block's stash, or to the global bytes that a mapped unit stands for (R183), where
those may be written.

Both wait, and issue again, while the team's queued matrix work has still to read or write bytes that a lane names (R147, R153,
R206). -/
def Obligations.Stores : Prop :=
  (∀ (s : State) (sw rel : Bool) (d : VReg) (b : SReg) (x : VReg) (w h : BitVec 2) (pa : Nat → Nat),
      let use : Use := { vr := x.toNat :: dataRegs d w, sr := [b], lanes := some s.team.exec }
      let ls := lanesOf s.team.tsize s.team.exec
      let va (l : Nat) : Nat := (s.team.getS b + BitVec.setWidth 64 (s.team.getV x l)).toNat
      let data (l : Nat) : List Byte := toBytesLE (2 ^ w.toNat)
        ((s.team.getV d l).toNat + 2 ^ 32 * (if w = 3 then s.team.getVn (d.toNat + 1) l else 0).toNat)
      let q := if rel then s.seq + 1 else s.seq
      Ready s use → s.team.rebrew = none → s.team.exec ≠ 0 → (∀ l ∈ ls, va l % 2 ^ w.toNat = 0) →
        (∀ l ∈ ls, s.translate s.ctx (va l) .write = .ok (pa l) ∧ s.accessFault s.ctx (va l) .write = none) →
        (∀ l ∈ ls, s.readonlyPage s.ctx (va l) = false ∧ s.pinnedPa (pa l) = false) →
        let held := s.queueMeets (ls.map fun l => .lin (pa l)) (2 ^ w.toNat) true
        (held = true → exec (.st sw d b x w h rel) s = .next ((s.touch use).waitFor .matrix)) ∧
        (held = false → ∃ t, exec (.st sw d b x w h rel) s = .next t ∧ t.mem = s.mem ∧ s.SameButTeams { t with stores := s.stores } ∧
          t.stores = s.stores ++ ls.zipIdx.map (fun p =>
            { id := q + p.2, core := s.team.core, launch := s.team.launch, team := s.cur, what := .lin (pa p.1) (data p.1),
              stream := h == 1, accepted := false }) ∧
          t.seq = q + ls.length ∧
          s.Went t use 1 sw (fun u => if rel then u.withRelease s.seq 4 [0, 1, 2, 3] [] else u))) ∧
  (∀ (s : State) (sw rel : Bool) (d : VReg) (b : SReg) (x : VReg) (w : BitVec 2),
      let use : Use := { vr := x.toNat :: dataRegs d w, sr := [b], lanes := some s.team.exec }
      let ls := lanesOf s.team.tsize s.team.exec
      let off (l : Nat) : Nat := (s.team.getS b).toNat + (s.team.getV x l).toNat
      let data (l : Nat) : List Byte := toBytesLE (2 ^ w.toNat)
        ((s.team.getV d l).toNat + 2 ^ 32 * (if w = 3 then s.team.getVn (d.toNat + 1) l else 0).toNat)
      let q := if rel then s.seq + 1 else s.seq
      Ready s use → s.team.exec ≠ 0 → (s.team.getS b).toNat < 2 ^ 20 →
        (∀ l ∈ ls, s.block.mayWrite (off l) = true ∧ (∀ va, s.block.mappedVa (off l) = some va → s.readonlyPage s.ctx va = false) ∧
          ∀ pa, s.block.place (off l) = .lin pa → s.pinnedPa pa = false) →
        (∀ l ∈ ls, off l % 2 ^ w.toNat = 0 ∧ off l + 2 ^ w.toNat ≤ 1024 * s.block.stashKiB) →
        let held := s.queueMeets (ls.map fun l => s.block.place (off l)) (2 ^ w.toNat) true
        (held = true → exec (.sst sw d b x w rel) s = .next ((s.touch use).waitFor .matrix)) ∧
        (held = false → ∃ t, exec (.sst sw d b x w rel) s = .next t ∧ s.SameButTeams { t with stores := s.stores } ∧
          t.stores = s.stores ++ ls.zipIdx.map (fun p =>
            { id := q + p.2, core := s.team.core, launch := s.team.launch, team := s.cur,
              what := match s.block.place (off p.1) with
                | .lin pa => .lin pa (data p.1)
                | .stash o | .priv o => .stash s.team.block o (data p.1),
              stream := false, accepted := false }) ∧
          t.seq = q + ls.length ∧ s.Went t use 1 sw (fun u => if rel then u.withRelease s.seq 1 [] [] else u)))

/-- pld and pst (R185, R207): word o of lane l lies at PRIVBASE + (o / 4 * TSIZE + l) * 4; pld's value is fixed as the word issues,
but for a poisoned line (R393); an offset beyond the area raises STACKLIM for its lanes. -/
def Obligations.PrivateMemory : Prop :=
  ∀ (s : State) (sw : Bool) (d : VReg) (b : SReg) (x : VReg) (w : BitVec 2) (l0 : Nat) (rest : List Nat),
    let reads : Use := { vr := [x.toNat], vw := dataRegs d w, sr := [b], lanes := some s.team.exec }
    let writes : Use := { vr := x.toNat :: dataRegs d w, sr := [b], lanes := some s.team.exec }
    let ls := lanesOf s.team.tsize s.team.exec
    let off (l : Nat) : DWord := s.team.getS b + BitVec.setWidth 64 (s.team.getV x l)
    let va (o l : Nat) : Nat := s.team.privbase + (o / 4 * s.team.tsize + l) * 4
    let word (o l : Nat) (x : Word) (u : Team) : Team := u.writePriv (va o l) (toBytesLE 4 x.toNat)
    let out := ls.filter fun l => decide (s.team.privBytes < (off l).toNat + 2 ^ w.toNat)
    let trap : Host.Outcome State Fault Refusal :=
      .next (s.takeTrap .stacklim (maskOf s.team.tsize (l0 :: rest).contains) { addr := off l0 })
    s.team.rebrew = none → s.team.exec ≠ 0 → (∀ l ∈ ls, (off l).toNat % 4 = 0) →
      (out = [] →
        (Ready s reads → ∃ t, exec (.pld sw d b x w) s = .next t ∧ s.SameButTeams t ∧ t.seq = s.seq + 1 ∧
          s.Went t reads 1 sw (fun u => u.withPend s.seq (.v d.toNat (if w = 3 then 2 else 1))
            (.load w.toNat (ls.map fun l =>
              let p : Place := .priv (va (off l).toNat l)
              (l, p, if (s.touch reads).poisonedPlace s.cur p then none
                else some ((s.touch reads).placeValue s.cur p (2 ^ w.toNat) (4 * s.team.tsize))))))) ∧
        (2 ≤ w.toNat → Ready s writes → ∃ t, exec (.pst sw d b x w) s = .next t ∧ s.SameOutside t ∧
          s.Went t writes 1 sw (fun u => ls.foldl (fun u l =>
            let low := word (off l).toNat l (s.team.getV d l) u
            if w = 3 then word ((off l).toNat + 4) l (s.team.getVn (d.toNat + 1) l) low else low) u))) ∧
      (out = l0 :: rest →
        (Ready s reads → exec (.pld sw d b x w) s = trap) ∧ (Ready s writes → exec (.pst sw d b x w) s = trap))

/-- pref, cwb, ifen and the fences (R210, R213, R230, R231) complete wherever they may issue. pref changes nothing.

cwb orders the stores of the core that write a line of a page of the range that has a translation, and no other; a length of 0 or
above 2^20, or a range past 2^48, raises PROT.

ifen orders the stores that the core has accepted, makes them visible to the die's shared instruction level, and drops the context's
L1 instruction lines on the core and the pipe's loop buffer, and nothing else.

A fence begins an acquire of the results before it, a release at its scope, or both, and the team goes on. -/
def Obligations.Fences : Prop :=
  ∀ (s : State) (sw : Bool) (a b : SReg) (x : VReg) (h : BitVec 2) (p : BitVec 3) (o : BitVec 2),
    let nothing (i : Instr) : Prop := ∃ t, exec i s = .next t ∧ s.SameOutside t ∧ s.SameOthers t ∧
      t.team = s.team.advance s.seq 1 sw
    let va := (s.team.getS a).toNat
    let n := (s.team.getS b).toNat
    let scope := p.toNat
    (Ready s { vr := [x.toNat], sr := [b], lanes := some s.team.exec } → s.team.rebrew = none → nothing (.pref sw b x h)) ∧
    (Ready s { sr := [a, b] } → s.team.rebrew = none →
      (0 < n → n ≤ 2 ^ 20 → va + n ≤ 2 ^ 48 →
        (∃ t, exec (.cwb sw a b) s = .next t ∧ t = (s.performAll (s.storesIn s.team.core va n)).advance 1 sw) ∧
        ∀ w, w ∈ s.storesIn s.team.core va n ↔ w ∈ s.stores ∧ w.core = s.team.core ∧ ∃ pa data, w.what = .lin pa data ∧
          ∃ page e, va / 65536 ≤ page ∧ page ≤ (va + n - 1) / 65536 ∧ s.lookup s.ctx (65536 * page) = .ok e ∧
            pa / 65536 = (e.pa + (65536 * page - e.va)) / 65536 ∧
            65536 * page + pa / 512 % 128 * 512 < va + n ∧ va < 65536 * page + pa / 512 % 128 * 512 + 512) ∧
      (n = 0 ∨ 2 ^ 20 < n ∨ 2 ^ 48 < va + n → exec (.cwb sw a b) s = .next (s.takeTrap .prot 0 { addr := s.team.getS a }))) ∧
    (Ready s {} →
      (let u := (s.performAll (s.stores.filter fun w => w.core == s.team.core && w.accepted)).refreshLevel (s.team.core / 48)
       ∃ t, exec (.ifen sw) s = .next t ∧ t = State.advance { u with
         icache := u.icache.filter fun l => !(l.core == s.team.core && l.asid == s.asid s.ctx),
         loopBuffers := u.loopBuffers.erase s.team.pipe } 1 sw) ∧
      ∃ t, exec (.fen sw p o) s = .next t ∧ s.SameButTeams { t with launches := s.launches } ∧
        (scope ≠ 5 → t.launches = s.launches) ∧ t.seq = s.seq + (if o.getLsbD 1 then 2 else 1) ∧
        s.Went t {} 1 sw (fun u =>
          let u1 : Team := if o.getLsbD 0 then { u with acqs := u.acqs ++ [{ id := s.seq, fence := true }] } else u
          if o.getLsbD 1 then u1.withRelease s.seq scope (if 4 ≤ scope then [0, 1, 2, 3] else [])
            (if scope = 5 then s.launch.peers else []) else u1))

/-- smap and sunmap (R211, R212). smap adds a range with the translations of its pages, and raises ALIGN, PROT or the fault of its
pages where R211 says; what s61 holds at these is the model's choice (log 72). sunmap makes the range plain stash again with the last
mapped values, leaves the other stash bytes, and raises PROT for a range that is none.

Both hold the team while its own queued engine work uses the range, and sunmap until the team's loads have their values and the core's
stores to it have been ordered (R147, log 19). A poisoned line of the range is MCHK (R393). -/
def Obligations.StashMapping : Prop :=
  ∀ (s : State) (sw : Bool) (a b c : SReg) (m : StashMap),
    let off := (s.team.getS a).toNat
    let va := (s.team.getS b).toNat
    let len := (s.team.getS c).toNat
    let k := s.block
    let meets (m : StashMap) : Bool := decide (off < m.off + m.len ∧ m.off < off + len ∧ 0 < len ∧ 0 < m.len)
    let at_ (n : Nat) : Detail := { addr := BitVec.ofNat 64 n }
    (Ready s { sr := [a, b, c] } → s.team.rebrew = none →
      (off % 512 ≠ 0 ∨ va % 512 ≠ 0 ∨ len % 512 ≠ 0 → exec (.smap sw a b c) s =
        .next (s.takeTrap .align 0 (at_ (if off % 512 ≠ 0 then off else if va % 512 ≠ 0 then va else len)))) ∧
      (off % 512 = 0 → va % 512 = 0 → len % 512 = 0 →
        (len = 0 ∨ 1024 * k.stashKiB < off + len ∨ (∃ m ∈ k.maps, meets m = true) ∨ 8 ≤ k.maps.length ∨
          2 ^ 48 < va + len → exec (.smap sw a b c) s =
            .next (s.takeTrap .prot 0 (at_ (if 2 ^ 48 < va + len then va else off)))) ∧
        (0 < len → off + len ≤ 1024 * k.stashKiB → (∀ m ∈ k.maps, meets m = false) → k.maps.length < 8 → va + len ≤ 2 ^ 48 →
          (∀ (cause : Cause) (x : Nat), s.rangeFault va len .read = some (cause, x) → exec (.smap sw a b c) s =
            .next (s.takeTrap cause 0 { addr := BitVec.ofNat 64 x, walk := some (x, 1) })) ∧
          (s.rangeFault va len .read = none →
            (s.team.stashBusy s.seq off len true = false → (∃ t, exec (.smap sw a b c) s = .next t ∧ t = State.advance
                (s.setBlock { k with maps := k.maps ++ [⟨off, len, va, s.mapPages s.ctx va len⟩] }) 1 sw) ∧
              ∀ p, p ∈ s.mapPages s.ctx va len ↔ va / 65536 ≤ p.page ∧ p.page ≤ (va + len - 1) / 65536 ∧ ∃ e,
                s.lookup s.ctx (65536 * p.page) = .ok e ∧ p.frame = (e.pa + (65536 * p.page - e.va)) / 65536 ∧ p.perm = e.perm) ∧
            (s.team.stashBusy s.seq off len true = true →
              exec (.smap sw a b c) s = .next (s.setTeam { s.team with wait := .unmap })))))) ∧
    (Ready s { sr := [a, b] } → s.team.rebrew = none →
      ((∀ m ∈ k.maps, ¬ (m.off = off ∧ m.len = va)) → exec (.sunmap sw a b) s =
        .next (s.takeTrap .prot 0 { addr := s.team.getS a })) ∧
      (k.maps.find? (fun x => x.off = off ∧ x.len = va) = some m →
        (s.mapClean k m = true → s.team.loadsFixed s.seq = true → s.team.stashBusy s.seq off va true = false →
          (s.mapPoisoned k m = true → exec (.sunmap sw a b) s = .next (s.mchkTeam s.cur s.team.pc)) ∧
          (s.mapPoisoned k m = false → ∃ t, exec (.sunmap sw a b) s = .next t ∧
            s.SameOutside { t with blocks := s.blocks, tlbs := s.tlbs } ∧ s.SameOthers t ∧ t.team = s.team.advance s.seq 1 sw ∧
            (t.blockOf s.team.block).maps = k.maps.filter (fun x => x.off != off) ∧
            (∀ i, i < m.len → ∀ pa, k.place (m.off + i) = .lin pa →
              (t.blockOf s.team.block).stash.read (m.off + i) = s.mem.read pa) ∧
            (∀ i, i < m.off ∨ m.off + m.len ≤ i → (t.blockOf s.team.block).stash.read i = k.stash.read i) ∧
            ∀ id, id ≠ s.team.block → t.blockOf id = s.blockOf id)) ∧
        (s.mapClean k m = false ∨ s.team.loadsFixed s.seq = false ∨ s.team.stashBusy s.seq off va true = true →
          exec (.sunmap sw a b) s = .next (s.setTeam { s.team with wait := .unmap }))))

/-! Atomics and copies. -/

/-- The atomics and reductions (R224 to R228): when every active lane may be written, the team has one more atomic, with each
lane's address and operand; a form with a result leaves it pending; a release begins first, and an acquire with the atomic (R241).
Under DET each line that has no tag takes the block's, and a lane whose line another block has tagged raises DETX; an address that is
no multiple of the access raises ALIGN (R204). Queued matrix work that has still to read or write the bytes holds the word (R147).

What an atomic leaves in memory for a lane (R224, R225): f(old, x) at the width of the access, and for amocas the new value
only where the old one equals the value compared with; the floating sum is rounded once, to nearest even, with no flush. -/
def Obligations.Atomics : Prop :=
  (∀ (s : State) (sw w rel : Bool) (d : VReg) (b : SReg) (x : VReg) (o : BitVec 2) (pa : Nat → Nat) (l0 : Nat) (rest : List Nat),
      let ls := lanesOf s.team.tsize s.team.exec
      let va (l : Nat) : DWord := s.team.getS b + BitVec.setWidth 64 (s.team.getV x l)
      let det := s.launch.lflags.getLsbD 0
      let tag (l : Nat) : Option Nat := s.launch.detTags.find? (pa l / 512)
      let other (l : Nat) : Bool := det && (tag l).any (· != s.block.index)
      let open_ : Prop := (∀ l ∈ ls, s.translate s.ctx (va l).toNat .write = .ok (pa l) ∧
        s.accessFault s.ctx (va l).toNat .write = none ∧ s.readonlyPage s.ctx (va l).toNat = false ∧ s.pinnedPa (pa l) = false)
      let trap (c : Cause) : Host.Outcome State Fault Refusal :=
        .next (s.takeTrap c (maskOf s.team.tsize (l0 :: rest).contains) { addr := va l0 })
      let does (i : Instr) (op : AtomOp) (wide res : Bool) (o : BitVec 2) : Prop :=
        let n := if wide then 2 else 1
        let group (k : Nat) : List Nat := (List.range k).map (d.toNat + ·)
        let use : Use := { vr := x.toNat :: group (if op = .cas then 2 * n else n), vw := if res then group n else [],
                           sr := [b], lanes := some s.team.exec }
        let value (r l : Nat) : DWord := if wide then BitVec.setWidth 64 (s.team.getVn r l) +
            BitVec.setWidth 64 (s.team.getVn (r + 1) l) <<< 32 else BitVec.setWidth 64 (s.team.getVn r l)
        let q := if o.getLsbD 1 then s.seq + 1 else s.seq
        let a : Atom := { id := q, op := op, wide := wide, dst := if res then some d.toNat else none, results := [],
                          todo := ls.map fun l => { lane := l, pa := pa l, compare := value d.toNat l,
                                                    operand := value (if op = .cas then d.toNat + n else d.toNat) l } }
        let f (u : Team) : Team :=
          let u1 := if o.getLsbD 1 then u.withRelease s.seq 4 [0, 1, 2, 3] [] else u
          let u2 : Team := if o.getLsbD 0 then u1.withAcquire q else u1
          let u3 : Team := { u2 with atoms := u2.atoms ++ [a] }
          if res then u3.withPend q (.v d.toNat n) (.atomic q) else u3
        let held := s.queueMeets (ls.map fun l => .lin (pa l)) (4 * n) true
        Ready s use →
          (ls.filter (fun l => (va l).toNat % (4 * n) != 0) = l0 :: rest → exec i s = trap .align) ∧
          ((∀ l ∈ ls, (va l).toNat % (4 * n) = 0) → open_ →
            (ls.filter other = l0 :: rest → exec i s = trap .detx) ∧
            (ls.filter other = [] → held = true → exec i s = .next ((s.touch use).waitFor .matrix)) ∧
            (ls.filter other = [] → held = false → ∃ t : State, exec i s = .next t ∧ t.seq = q + 1 ∧
              s.SameButTeams { t with launches := s.launches } ∧ (det = false → t.launches = s.launches) ∧
              (det = true → (∃ tags, t.launches = (s.setLaunch { s.launch with detTags := tags }).launches) ∧
                ∀ l ∈ ls, (t.launchOf s.team.launch).detTags.find? (pa l / 512) = some ((tag l).getD s.block.index)) ∧
              s.Went t use 1 sw f))
      s.team.rebrew = none → s.team.exec ≠ 0 →
        (does (.amoAdd sw d b x w o) .add w true o ∧ does (.amoMin sw d b x w o) .min w true o ∧
          does (.amoMax sw d b x w o) .max w true o ∧ does (.amoAnd sw d b x w o) .and w true o ∧
          does (.amoOr sw d b x w o) .or w true o ∧ does (.amoXor sw d b x w o) .xor w true o ∧
          does (.amoXchg sw d b x w o) .xchg w true o ∧ does (.amoFadd sw d b x o) .fadd false true o ∧
          does (.amocas sw d b x w o) .cas w true o) ∧
        let r : BitVec 2 := if rel then 2 else 0
        does (.redAdd sw d b x w rel) .add w false r ∧ does (.redMin sw d b x w rel) .min w false r ∧
          does (.redMax sw d b x w rel) .max w false r ∧ does (.redAnd sw d b x w rel) .and w false r ∧
          does (.redOr sw d b x w rel) .or w false r ∧ does (.redXor sw d b x w rel) .xor w false r ∧
          does (.redFadd sw d b x rel) .fadd false false r) ∧
  (∀ (id : Nat) (wide : Bool) (todo : List AtomLane) (l : AtomLane) (old : Nat), old < 2 ^ (if wide then 64 else 32) →
      let size := 2 ^ (if wide then 64 else 32)
      let x := l.operand.toNat % size
      let a (op : AtomOp) : Atom :=
        { id := id, op := op, wide := wide, dst := none, todo := todo, results := [] }
      let out (op : AtomOp) : Nat := (a op).result l old
      let int (v : Nat) : Int := if 2 * v < size then v else (v : Int) - size
      out .add = (old + x) % size ∧ out .and = old &&& x ∧ out .or = old ||| x ∧ out .xor = old ^^^ x ∧ out .xchg = x ∧
        (out .min = old ∨ out .min = x) ∧ int (out .min) = min (int old) (int x) ∧
        (out .max = old ∨ out .max = x) ∧ int (out .max) = max (int old) (int x) ∧
        (old = l.compare.toNat % size → out .cas = x) ∧ (old ≠ l.compare.toNat % size → out .cas = old) ∧
        (wide = false → out .fadd = (encode32 (addVal 0 (decode32 false (BitVec.ofNat 32 old))
          (decode32 false (BitVec.setWidth 32 l.operand)))).toNat))

/-- The copies (R215, R216): operands out of place raise ALIGN; a range beyond its space or over its own source raises PROT, and
so does a cpym of a kernel without clusters or toward a rank that no block has; otherwise the copy joins the team's open batch,
with nothing copied yet, and one of no bytes adds nothing to it. What s61 holds at these traps is the model's choice (log 72).

cpyt (R217): a stash offset out of place raises ALIGN; a range beyond the stash, and a name that no tile has, raise PROT, and for
a store a readonly or compressed tensor as well; a pinned one raises RPIN; otherwise the copy of the tile's 512 bytes joins the
open batch. -/
def Obligations.Copies : Prop :=
  (∀ (s : State) (sw x y : Bool) (m : BitVec 4) (a b c : SReg) (bs : List Nat),
      let dst := (s.team.getS a).toNat
      let src := (s.team.getS b).toNat
      let n := (s.team.getS c).toNat
      let size := 1024 * s.block.stashKiB
      let copy (kind : CopyKind) (dst src count : Nat) (targets : List Nat) (tile : Option TileName) : Copy :=
        { id := s.seq, kind := kind, at_ := s.team.pc, dst := dst, src := src, count := count, done := 0, targets := targets,
          tile := tile, batch := none, fault := none }
      let joins (i : Instr) (cs : List Copy) : Prop := ∃ t, exec i s = .next t ∧ s.SameButTeams t ∧ t.seq = s.seq + 1 ∧
        s.Went t {} 1 sw (fun u => { u with copies := u.copies ++ cs, copen := true })
      let traps (i : Instr) (c : Cause) (v : Nat) : Prop := exec i s = .next (s.takeTrap c 0 { addr := BitVec.ofNat 64 v })
      let beyond (stash : Bool) (v : Nat) : Bool := if stash then decide (size < v + n) else decide (2 ^ 48 ≤ v ∨ 2 ^ 48 < v + n)
      let odd (stash : Bool) (v : Nat) : Bool := v % 4 != 0 || stash && decide (2 ^ 20 ≤ v)
      let placed (stash : Bool) (v : Nat) : Prop := v % 4 = 0 ∧ n % 4 = 0 ∧ (stash = true → v < 2 ^ 20)
      let within (stash : Bool) (v : Nat) : Prop := if stash then v + n ≤ size else v < 2 ^ 48 ∧ v + n ≤ 2 ^ 48
      let apart : Prop := ¬ (dst < src + n ∧ src < dst + n)
      let whole : Prop := within x dst ∧ within y src ∧ (x = false → y = false → n ≤ 65536) ∧ (x = y → apart)
      let blocks := ((List.range 4).filter fun i => m.getLsbD i).mapM s.groupBlock
      Ready s { sr := [a, b, c] } → s.team.rebrew = none →
        (¬ (placed x dst ∧ placed y src) →
          traps (.cpy sw y x a b c) .align (if odd x dst then dst else if odd y src then src else n)) ∧
        (placed x dst → placed y src →
          (whole → joins (.cpy sw y x a b c) (if n = 0 then [] else [copy (.bytes x y) dst src n [] none])) ∧
          (¬ whole → traps (.cpy sw y x a b c) .prot (if beyond x dst then dst else if beyond y src then src else dst))) ∧
        (¬ (placed true dst ∧ placed false src) →
          traps (.cpym sw m a b c) .align (if odd true dst then dst else if odd false src then src else n)) ∧
        (placed true dst → placed false src →
          (within true dst → within false src → s.launch.clusters = true → blocks = some bs →
            joins (.cpym sw m a b c) (if n = 0 then [] else bs.map fun k => copy .multicast dst src n [k] none)) ∧
          (¬ (within true dst ∧ within false src) ∨ s.launch.clusters = false ∨ blocks = none →
            traps (.cpym sw m a b c) .prot (if beyond true dst then dst else if beyond false src then src else dst)))) ∧
  (∀ (s : State) (sw : Bool) (a b c : SReg) (x : Desc),
      let off := (s.team.getS a).toNat
      let rc := (s.team.getS c).toNat
      let n : TileName := ⟨(s.team.getS b).toNat, rc / 65536, rc % 65536⟩
      let copy (kind : CopyKind) (dst src : Nat) : Copy :=
        { id := s.seq, kind := kind, at_ := s.team.pc, dst := dst, src := src, count := 512, done := 0, targets := [],
          tile := some n, desc := some x, batch := none, fault := none }
      let joins (i : Instr) (q : Copy) : Prop := ∃ t, exec i s = .next t ∧ s.SameButTeams { t with descs := s.descs } ∧
        t.seq = s.seq + 1 ∧ s.Went t {} 1 sw (fun u => { u with copies := u.copies ++ [q], copen := true })
      let both (c' : Cause) (d : Detail) : Prop := exec (.cpytTs sw a b c) s = .next (s.takeTrap c' 0 d) ∧
        exec (.cpytSt sw a b c) s = .next (s.takeTrap c' 0 d)
      Ready s { sr := [a, b, c] } → s.team.rebrew = none →
        (off % 128 ≠ 0 ∨ 2 ^ 20 ≤ off → both .align { addr := s.team.getS a }) ∧
        (off % 128 = 0 → off < 2 ^ 20 →
          (1024 * s.block.stashKiB < off + 512 ∨ 2 ^ 20 ≤ n.tensor ∨ 2 ^ 32 ≤ rc → both .prot { addr := s.team.getS a }) ∧
          (off + 512 ≤ 1024 * s.block.stashKiB → n.tensor < 2 ^ 20 → rc < 2 ^ 32 →
            s.desc s.ctx n.tensor = .invalid ∨ s.desc s.ctx n.tensor = .ok x ∧ x.hasTile n.row n.col = false → both .prot {})) ∧
        (off % 128 = 0 → off < 2 ^ 20 → off + 512 ≤ 1024 * s.block.stashKiB → n.tensor < 2 ^ 20 → rc < 2 ^ 32 →
          s.desc s.ctx n.tensor = .ok x → x.hasTile n.row n.col = true →
          joins (.cpytTs sw a b c) (copy .tileToStash off 0) ∧
          (x.readonly = true ∨ x.compressed = true → exec (.cpytSt sw a b c) s = .next (s.takeTrap .prot 0)) ∧
          (x.readonly = false → x.compressed = false → s.pinnedTensor n.tensor x.recomputable = true →
            exec (.cpytSt sw a b c) s = .next (s.takeTrap .rpin 0)) ∧
          (x.readonly = false → x.compressed = false → s.pinnedTensor n.tensor x.recomputable = false →
            joins (.cpytSt sw a b c) (copy .stashToTile 0 off))))

/-- bcl, bwt and bqry (R154, R219 to R222): bcl numbers the open batch and opens the next, and bcl.c holds the team for the
oldest of 255 incomplete batches; bwt goes on when the batch has completed and waits otherwise; a copy's fault is raised in its
place as soon as it has been found; bqry's word is pending. -/
def Obligations.Batches : Prop :=
  ∀ (s : State) (sw : Bool) (d a : SReg) (timeout : BitVec 32) (n : Int),
    let u := s.team
    let cnum := BitVec.ofNat 64 (u.cnext % 256)
    let mnum := BitVec.ofNat 64 (u.mnext % 256)
    let cbatch : Int := (u.cnext : Int) - 1 - (((u.cnext : Int) - 1 - ((u.getS a).toNat % 256 : Nat)) % 256)
    let mbatch : Int := (u.mnext : Int) - 1 - (((u.mnext : Int) - 1 - ((u.getS a).toNat % 256 : Nat)) % 256)
    let past (b : Option Nat) : Prop := ∀ k, b = some k → (k : Int) ≤ n → False
    (Ready s { sw := [d] } →
      (255 ≤ u.closedCopies → (∃ c ∈ u.copies, c.batch = none) → ∃ k : Nat,
        exec (.bclC sw d) s = .next (s.setTeam { u with wait := .room k }) ∧ (∃ c ∈ u.copies, c.batch = some k) ∧
          ∀ c ∈ u.copies, ∀ j, c.batch = some j → k ≤ j) ∧
      (u.closedCopies < 255 ∨ (∀ c ∈ u.copies, c.batch ≠ none) → ∃ t, exec (.bclC sw d) s = .next t ∧ s.SameButTeams t ∧ t.seq = s.seq ∧
        s.Went t {} 1 sw (fun u => ({ u with copies := u.copies.map (fun (c : Copy) => { c with batch := some (c.batch.getD u.cnext) }),
                                             cnext := u.cnext + 1, copen := false } : Team).setS d cnum)) ∧
      (∃ t, exec (.bclM sw d) s = .next t ∧ s.SameButTeams t ∧ t.seq = s.seq ∧
        s.Went t {} 1 sw (fun u => ({ u with mqueue := u.mqueue.map (fun (m : MItem) => { m with batch := some (m.batch.getD u.mnext) }),
                                             mnext := u.mnext + 1, mopen := false } : Team).setS d mnum)) ∧
      ScalarPending (.bqryC sw d) s sw d (u.batchWord false) ∧ ScalarPending (.bqryM sw d) s sw d (u.batchWord true)) ∧
    (Ready s { sr := [a] } →
      (n = cbatch → (∀ c ∈ u.copies, past c.batch) → ∃ t, exec (.bwtC sw a timeout) s = .next t ∧ s.SameButTeams t ∧
        s.Went t {} 2 sw id) ∧
      (n = mbatch → (∀ m ∈ u.mqueue, past m.batch) → ∃ t, exec (.bwtM sw a timeout) s = .next t ∧ s.SameButTeams t ∧
        s.Went t {} 2 sw id) ∧
      (n = cbatch → (∃ c ∈ u.copies, ∃ k, c.batch = some k ∧ (k : Int) ≤ n) →
        (∀ c ∈ u.copies, ∀ k, c.batch = some k → (k : Int) ≤ n → c.fault = none) → ∃ t price, exec (.bwtC sw a timeout) s = .next t ∧ s.SameButTeams t ∧ s.SameOthers t ∧
          t.team = { u with wait := .batchC n price, timeout := timeout.toNat, afterWords := 2, afterSw := sw }) ∧
      (∀ (c : Copy) (cause : Cause) (det : Detail), n = cbatch →
        faultOf (u.copies.filter fun c => c.batch.any fun k => decide ((k : Int) ≤ n)) = some (c, cause, det) →
        exec (.bwtC sw a timeout) s = .next (s.raiseCopy c cause det)) ∧
      (n = mbatch → (∃ m ∈ u.mqueue, ∃ k, m.batch = some k ∧ (k : Int) ≤ n) →
        ∃ t price, exec (.bwtM sw a timeout) s = .next t ∧ s.SameButTeams t ∧ s.SameOthers t ∧
          t.team = { u with wait := .batchM n price, timeout := timeout.toNat, afterWords := 2, afterSw := sw }))


/-! Tiles. -/

/-- The forms that name a tile raise PROT for an identifier or index that is out of range, for an invalid descriptor and for a
tile outside the tensor (R173, R176, R208); with an empty exec they have no effect. -/
def Obligations.TileNames : Prop :=
  ∀ (s : State) (sw : Bool) (d : VReg) (a b c : SReg),
    let n : TileName := ⟨(s.team.getS a).toNat, (s.team.getS b).toNat, (s.team.getS c).toNat⟩
    let trap : Host.Outcome State Fault Refusal := .next (s.takeTrap .prot 0)
    let bad : Prop := 2 ^ 20 ≤ n.tensor ∨ 2 ^ 16 ≤ n.row ∨ 2 ^ 16 ≤ n.col ∨ s.desc s.ctx n.tensor = .invalid ∨
      ∃ x, s.desc s.ctx n.tensor = .ok x ∧ (x.rows ≤ 16 * n.row ∨ x.cols ≤ x.tw * n.col)
    let all (i : Instr) (u : Use) : Prop := Ready s u →
      (s.team.exec = 0 → ∃ t, exec i s = .next t ∧ s.SameOutside t ∧ s.Went t {} 1 sw id) ∧
      (s.team.exec ≠ 0 → bad → exec i s = trap)
    let plain : Use := { sr := [a, b, c], lanes := some s.team.exec }
    s.team.rebrew = none →
      all (.tld sw d a b c) { plain with vw := tileRegs d } ∧ all (.tst sw d a b c) { plain with vr := tileRegs d } ∧
      all (.discard sw a b c) plain ∧ all (.lastuse sw a b c) plain ∧ all (.rmat sw a b c) plain ∧
      all (.rdrop sw a b c) plain

/-- tld (R197, R208, R274, R342): the line, with the descriptor that the word used (R177), is the pending result, read when its value
is fixed; one that a chain has just made for the team is read at once. A miss that rebrews the tile, or joins the chain that brews it,
holds the team until the line is there; every other goes on. -/
def Obligations.TileLoad : Prop :=
  ∀ (s : State) (sw : Bool) (d : VReg) (a b c : SReg) (x : Desc) (l : TileLine),
    let n : TileName := ⟨(s.team.getS a).toNat, (s.team.getS b).toNat, (s.team.getS c).toNat⟩
    let use : Use := { vw := tileRegs d, sr := [a, b, c], lanes := some s.team.exec }
    let same (t : State) : Prop := s.SameButTeams { t with descs := s.descs, launches := s.launches }
    Ready s use → s.team.rebrew = none → s.team.exec ≠ 0 → n.tensor < 2 ^ 20 → n.row < 2 ^ 16 → n.col < 2 ^ 16 →
      s.desc s.ctx n.tensor = .ok x → x.hasTile n.row n.col = true → s.tileFault s.ctx x n .read = none →
      (s.readRebrews n x = false → s.team.keeps ≠ some n →
        ∃ t, exec (.tld sw d a b c) s = .next t ∧ same t ∧ t.seq = s.seq + 1 ∧
          s.Went t use 1 sw (fun u => u.withPend s.seq (.v d.toNat 4) (.tile n x none))) ∧
      (s.team.keeps = some n → s.tileLine n = some l → l.poisoned = false → (∀ w ∈ s.stores, w.what.tile? ≠ some n) →
        s.team.rels = [] → s.team.acqs = [] → (∀ p ∈ s.team.pend, p.awaitsTile n = false) →
        s.tileOwned n (some (s.cur, s.seq)) = false → (∀ p ∈ s.team.pend, p.id ≠ s.seq) →
        ∃ t, exec (.tld sw d a b c) s = .next t ∧ same t ∧ t.seq = s.seq + 1 ∧
          s.Went t use 1 sw (fun u => u.withPend s.seq (.v d.toNat 4) (.tile n x (some l.words)))) ∧
      (s.readRebrews n x = true →
        ∃ t, exec (.tld sw d a b c) s = .next t ∧ same t ∧ s.SameOthers t ∧
          t.team = { (s.touch use).team with
            wait := if s.dropsTile s.cur n = false ∧ s.brewing n = true then .brewing n else .tile n })

/-- tst, discard and lastuse (R189 to R191, R208, R209): each is a store to its tile that its home slice has still to order, and the
word itself changes no line. A fault of the memory behind the tile is raised before.

As the home slice orders it: the stored line is what later reads of the tile give, with the elements beyond the tensor zero, and
of a recomputable tensor it is PRESENT with its map bit clear;
discard leaves zero in an ordinary tile and drops any other; no other tile changes. -/
def Obligations.TileStore : Prop :=
  (∀ (s : State) (sw : Bool) (d : VReg) (a b c : SReg) (x : Desc),
      let n : TileName := ⟨(s.team.getS a).toNat, (s.team.getS b).toNat, (s.team.getS c).toNat⟩
      let plain : Use := { sr := [a, b, c], lanes := some s.team.exec }
      s.team.rebrew = none → s.team.exec ≠ 0 → n.tensor < 2 ^ 20 → n.row < 2 ^ 16 → n.col < 2 ^ 16 →
        s.desc s.ctx n.tensor = .ok x → x.hasTile n.row n.col = true →
        (∀ cause det, s.tileFault s.ctx x n .write = some (cause, det) →
          (Ready s { plain with vr := tileRegs d } → exec (.tst sw d a b c) s = .next (s.takeTrap cause 0 det)) ∧
          (Ready s plain → exec (.discard sw a b c) s = .next (s.takeTrap cause 0 det))) ∧
        (s.tileFault s.ctx x n .write = none →
        (Ready s { plain with vr := tileRegs d } → x.readonly = false → x.compressed = false →
          s.pinnedTensor n.tensor x.recomputable = false → s.Stores (.tst sw d a b c) sw
            (.tile s.ctx n (lineWords (x.clip n.row n.col (lineBytes (s.team.tileData d)))) x)) ∧
        (Ready s { plain with vr := tileRegs d } → x.readonly = true ∨ x.compressed = true →
          exec (.tst sw d a b c) s = .next (s.takeTrap .prot 0)) ∧
        (Ready s plain → x.readonly = false ∨ x.compressed = true →
          x.compressed = true ∨ x.recomputable = true ∨ s.pinnedTensor n.tensor false = false →
          s.Stores (.discard sw a b c) sw (.discard s.ctx n x))) ∧
        (Ready s plain → s.Stores (.lastuse sw a b c) sw (.lastUse s.ctx n x))) ∧
  (∀ (s : State) (ctx : Nat) (n : TileName) (ws : List Word) (x : Desc) (l : TileLine),
      let leaves (w : Write) (p : Option TileLine → Prop) : Prop := ∃ t, w.perform s = some t ∧
        ({ t with tiles := s.tiles } : State) = s ∧ p (t.tileAt? n) ∧ ∀ m, m ≠ n → t.tileAt? m = s.tileAt? m
      (x.recomputable = false → leaves (.tile ctx n ws x) fun r => ∃ y, r = some y ∧ y.state = .present ∧ y.dirty = true ∧
        y.words = lineWords (x.clip n.row n.col (lineBytes ws))) ∧
      (∀ (r : Recipe) (s1 : State), x.recomputable = true → s.recipe ctx n.tensor x = some r →
        s.writeMap ctx x r n false = some s1 → ∃ (t : State) (y : TileLine), (Write.tile ctx n ws x).perform s = some t ∧
          t.mem = s1.mem ∧ t.tileAt? n = some y ∧ y.state = .present ∧ y.map = false ∧
          y.words = lineWords (x.clip n.row n.col (lineBytes ws)) ∧ ∀ m, m ≠ n → t.tileAt? m = s1.tileAt? m) ∧
      (x.compressed = false → x.recomputable = false → leaves (.discard ctx n x) fun r => ∃ y, r = some y ∧ y.state = .present ∧
        y.words = lineWords (x.clip n.row n.col (lineBytes (List.replicate 128 0)))) ∧
      (x.compressed = true → leaves (.discard ctx n x) (· = none)) ∧
      (x.compressed = false → x.recomputable = true → s.tileLine n = some l →
        leaves (.discard ctx n x) (· = some { l with state := .absent, words := [] })) ∧
      (x.resident = false → s.tileLine n = some l → leaves (.lastUse ctx n x) (· = some { l with lastUse := true })) ∧
      (s.tileLine n = none → leaves (.lastUse ctx n x) (· = s.tileAt? n)))

/-- rmat and rdrop (R349): both raise PROT for a tensor that is not recomputable, and rmat for one without a materialisation area;
otherwise each is a store to its tile, rmat once a line that has to be rebrewed is there. A launch that does not price the tensor has
RDEPTH for a record that cannot be read (R354).

As the home slice orders it, rmat writes the line to the tile's materialised copy, sets the map bit and M, and reads the copy of an
ABSENT tile with M = 1; rdrop clears M and makes the tile ABSENT. -/
def Obligations.Materialise : Prop :=
  (∀ (s : State) (sw : Bool) (a b c : SReg) (x : Desc) (r : Recipe),
      let n : TileName := ⟨(s.team.getS a).toNat, (s.team.getS b).toNat, (s.team.getS c).toNat⟩
      let s0 := s.cacheDesc s.ctx n.tensor
      Ready s { sr := [a, b, c], lanes := some s.team.exec } → s.team.rebrew = none → s.team.exec ≠ 0 → n.tensor < 2 ^ 20 →
        n.row < 2 ^ 16 → n.col < 2 ^ 16 → s.desc s.ctx n.tensor = .ok x → x.hasTile n.row n.col = true →
        (x.recomputable = false → exec (.rmat sw a b c) s = .next (s.takeTrap .prot 0) ∧
          exec (.rdrop sw a b c) s = .next (s.takeTrap .prot 0)) ∧
        (x.recomputable = true → s0.recipe s0.ctx n.tensor x = none → s.launch.priced.contains n.tensor = false →
          exec (.rmat sw a b c) s = .next (s.takeTrap .rdepth 0 { tile := some n, addr := n.word, unpriced := true })) ∧
        (x.recomputable = true → s0.recipe s0.ctx n.tensor x = some r →
          (r.mat = 0 → exec (.rmat sw a b c) s = .next (s.takeTrap .prot 0)) ∧
          (∀ cause det, r.mat ≠ 0 → s0.recipeFault s0.ctx x n true = some (cause, det) →
            exec (.rmat sw a b c) s = .next (s.takeTrap cause 0 det)) ∧
          (r.mat ≠ 0 → s0.recipeFault s0.ctx x n true = none →
            (s0.readRebrews n x = false → s.Stores (.rmat sw a b c) sw (.rmat s.ctx n x)) ∧
            (s0.readRebrews n x = true → ∃ t, exec (.rmat sw a b c) s = .next t ∧
              s.SameButTeams { t with descs := s.descs, launches := s.launches } ∧ s.SameOthers t ∧ t.team = { s.team with
                wait := if s.dropsTile s.cur n = false ∧ s.brewing n = true then .brewing n else .tile n })) ∧
          (∀ cause det, s0.recipeFault s0.ctx x n false = some (cause, det) →
            exec (.rdrop sw a b c) s = .next (s.takeTrap cause 0 det)) ∧
          (s0.recipeFault s0.ctx x n false = none → s.Stores (.rdrop sw a b c) sw (.rdrop s.ctx n x)))) ∧
  (∀ (s s1 s2 : State) (ctx : Nat) (n : TileName) (x : Desc) (r : Recipe) (l y : TileLine),
      let tileNumber := n.row * x.tileCols + n.col
      s.recipe ctx n.tensor x = some r →
        (s.tileLine n = none → s.withMap ctx x r n = some y → y.map = true →
          ∀ bs, s.fillRead ctx (r.mat + 512 * tileNumber) 512 = .ok bs → (Write.rmat ctx n x).perform s =
            some (s.setTile { y with state := .present, stored := false, words := lineWords (x.clip n.row n.col bs) })) ∧
        (s.tileLine n = some l → s.withMap ctx x r n = some y →
          (y.map = true → (Write.rmat ctx n x).perform s = some s) ∧
          (y.map = false → s.writeVirt ctx (r.mat + 512 * tileNumber) (lineBytes y.words) = some s1 →
            s1.writeMap ctx x r n true = some s2 → (Write.rmat ctx n x).perform s = some (s2.setTile { y with map := true }))) ∧
        (s.writeMap ctx x r n false = some s1 → ∃ (t : State) (z : TileLine), (Write.rdrop ctx n x).perform s = some t ∧
          t.tileAt? n = some z ∧ z.state = .absent ∧ z.map = false ∧ z.words = [] ∧ t.mem = s1.mem ∧
          ∀ m, m ≠ n → t.tileAt? m = s1.tileAt? m))

/-! The matrix unit and the ternary array. -/

/-- The matrix and ternary forms (R142 to R149, R158): with the tile granted, the codes of fm accepted, the stash operand in
place and no malformed element, the form joins the team's queue with its steps, its first register and its stash offset, and
fm as it is; it waits while the queue is full. Before that come, in this order, REGBLK for a tile that is not granted, FMT for a
code that the form does not take, ALIGN for an offset that is not a multiple of 128, PROT for a step beyond the stash, and FMT
for the lanes that hold a malformed ternary element. s61 takes the operand's address, which is the model's reading (log 72). -/
def Obligations.MatrixForms : Prop :=
  ∀ (s : State) (sw r : Bool) (z : ZReg) (a : VReg) (b : SReg) (n : BitVec 8) (ai : BitVec 6) (bi : BitVec 12),
    let fm := s.team.fm
    let x := (s.team.getS b).toNat
    let queues (i : Instr) (words steps : Nat) (ainc binc : Int) : Prop :=
      let group := aGroup fm i
      let regs := (List.range steps).flatMap fun (j : Nat) =>
        (List.range group).map (((a.toNat : Int) + (j : Int) * ainc).toNat + ·)
      let item : MItem := { id := s.seq, instr := i, at_ := s.team.pc, stepsLeft := steps, nextA := a.toNat, nextB := x,
                            fm := fm, batch := none }
      let inside (j : Nat) : Prop := 0 ≤ (x : Int) + j * binc ∧ (x : Int) + j * binc + bSpan i fm ≤ 1024 * s.block.stashKiB
      let bad := s.team.badTernLanes regs
      Ready s { vr := regs, sr := [b], lanes := some s.team.exec } → s.team.exec ≠ 0 →
        (s.team.ntile ≤ z.toNat → exec i s = .next (s.takeTrap .regblk 0)) ∧
        (z.toNat < s.team.ntile → formFmOk fm i = false → exec i s = .next (s.takeTrap .fmt 0)) ∧
        (z.toNat < s.team.ntile → formFmOk fm i = true →
          (x % 128 ≠ 0 ∨ 2 ^ 20 ≤ x → exec i s = .next (s.takeTrap .align 0 { addr := s.team.getS b })) ∧
          (x % 128 = 0 → x < 2 ^ 20 → (∃ j : Nat, j < steps ∧ ¬ inside j) →
            exec i s = .next (s.takeTrap .prot 0 { addr := s.team.getS b })) ∧
          (x % 128 = 0 → x < 2 ^ 20 → (∀ j : Nat, j < steps → inside j) → isTernary i = true → bad ≠ 0 →
            exec i s = .next (s.takeTrap .fmt bad)) ∧
          (x % 128 = 0 → x < 2 ^ 20 → (∀ j : Nat, j < steps → inside j) → (isTernary i = true → bad = 0) →
            16 ≤ s.team.mqueue.length → exec i s = .next (s.setTeam { s.team with wait := .matrix })) ∧
          (x % 128 = 0 → x < 2 ^ 20 → (∀ j : Nat, j < steps → inside j) →
            (isTernary i = true → bad = 0) → s.team.mqueue.length < 16 →
            ∃ t, exec i s = .next t ∧ s.SameButTeams t ∧ t.seq = s.seq + 1 ∧
              s.Went t {} words sw (fun u =>
                { (if ainc = 0 then u.useLatch r a.toNat group else u) with mqueue := u.mqueue ++ [item], mopen := true })))
    let loop (i : Instr) : Prop := queues i 2 n.toNat ai.toInt (128 * bi.toInt)
    queues (.mmaBf16 sw z a b r) 1 1 0 0 ∧ queues (.mmaF16 sw z a b r) 1 1 0 0 ∧ queues (.mmaF8 sw z a b r) 1 1 0 0 ∧
      queues (.mmaF4 sw z a b r) 1 1 0 0 ∧ queues (.mmaI8 sw z a b r) 1 1 0 0 ∧ queues (.mmaH16 sw z a b r) 1 1 0 0 ∧
      queues (.tsa sw z a b r) 1 1 0 0 ∧ loop (.mmlBf16 sw z a b r n ai bi) ∧ loop (.mmlF16 sw z a b r n ai bi) ∧
      loop (.mmlF8 sw z a b r n ai bi) ∧ loop (.mmlF4 sw z a b r n ai bi) ∧ loop (.mmlI8 sw z a b r n ai bi) ∧
      loop (.mmlH16 sw z a b r n ai bi) ∧ loop (.tsl sw z a b r n ai bi)

/-- The codes of fm that each matrix and ternary form takes (R142).

An integer or ternary step adds the exact dot product to the element, then clamps under fm.sat or wraps (R98). -/
def Obligations.MatrixArithmetic : Prop :=
  (∀ (fm : Word) (sw r : Bool) (z : ZReg) (a : VReg) (b : SReg) (n : BitVec 8) (ai : BitVec 6) (bi : BitVec 12),
      let af := fm.toNat % 16
      let bf := fm.toNat / 16 % 16
      let cf := fm.toNat / 256 % 16
      let takes (i j : Instr) (p : Prop) : Prop := (formFmOk fm i = true ↔ p) ∧ (formFmOk fm j = true ↔ p)
      takes (.mmaBf16 sw z a b r) (.mmlBf16 sw z a b r n ai bi) (af = 2 ∧ bf = 2 ∧ cf = 0) ∧
        takes (.mmaH16 sw z a b r) (.mmlH16 sw z a b r n ai bi) (af = 2 ∧ bf = 2 ∧ cf = 0) ∧
        takes (.mmaF16 sw z a b r) (.mmlF16 sw z a b r n ai bi) (af = 1 ∧ bf = 1 ∧ cf = 0) ∧
        takes (.mmaF8 sw z a b r) (.mmlF8 sw z a b r n ai bi) ((af = 3 ∨ af = 4) ∧ (bf = 3 ∨ bf = 4) ∧ cf = 0) ∧
        takes (.mmaF4 sw z a b r) (.mmlF4 sw z a b r n ai bi) (af = 5 ∧ bf = 5 ∧ cf = 0) ∧
        takes (.mmaI8 sw z a b r) (.mmlI8 sw z a b r n ai bi) ((af = 6 ∨ af = 7) ∧ (bf = 6 ∨ bf = 7) ∧ cf = 10) ∧
        takes (.tsa sw z a b r) (.tsl sw z a b r n ai bi) (af = 9 ∧ bf = 6 ∧ cf = 10)) ∧
  (∀ (fm old : Word) (as bs : List Int), as.length = bs.length →
      let total : Int := old.toInt + ((List.range as.length).map fun k => as.getD k 0 * bs.getD k 0).sum
      (fm.getLsbD 14 = false → intElem fm old as bs = BitVec.ofInt 32 total) ∧
      (fm.getLsbD 14 = true → (intElem fm old as bs).toInt = max (-(2 ^ 31)) (min (2 ^ 31 - 1) total)))

/-- The tile transfers (R138, R151 to R153): each joins the queue, and zcvt with a pending result. A tile that is not granted
raises REGBLK; a stash offset out of place ALIGN, and a range beyond the stash PROT; zst raises PROT at the first row whose
mapped page may not be written, and RPIN for a pinned one; an fm.afmt of a zcvt that is neither FP32 nor INT32, or an fm.cfmt above 10, raises FMT. Each word
that traps in none of these ways waits while the queue holds 16 items (R390), and joins it otherwise; an empty exec gives it no
effect. s61 takes the address, which is the model's reading (log 72). -/
def Obligations.TileTransfers : Prop :=
  ∀ (s : State) (sw : Bool) (z : ZReg) (a : VReg) (b : SReg) (f : Fmt),
    let x := (s.team.getS b).toNat
    let fm := s.team.fm
    let item (i : Instr) (steps off first : Nat) : MItem :=
      { id := s.seq, instr := i, at_ := s.team.pc, stepsLeft := steps, nextA := first, nextB := off, fm := fm, batch := none }
    let queues (i : Instr) (u : Use) (m : MItem) (p : List Pend) : Prop :=
      (16 ≤ s.team.mqueue.length → exec i s = .next ((s.touch u).setTeam { (s.touch u).team with wait := .matrix })) ∧
      (s.team.mqueue.length < 16 →
        ∃ t, exec i s = .next t ∧ s.SameButTeams t ∧ t.seq = s.seq + 1 ∧ s.Went t u 1 sw (fun u =>
          { u with mqueue := u.mqueue ++ [m], mopen := true, pend := u.pend ++ p }))
    let out (i : Instr) : Prop := s.team.ntile ≤ z.toNat → exec i s = .next (s.takeTrap .regblk 0)
    let at_ : Detail := { addr := s.team.getS b }
    let group := if f = .tern then 1 else 4 * f.width / 8
    let cvt : Use := { vw := (List.range group).map (a.toNat + ·), lanes := some s.team.exec }
    let row (r : Nat) : Nat := x + 128 * r
    let forbidden (r : Nat) : Prop := s.block.mayWrite (row r) = false ∨
      ∃ va, s.block.mappedVa (row r) = some va ∧ s.readonlyPage s.ctx va = true
    let pinned (r : Nat) : Prop := ∃ pa, s.block.place (row r) = .lin pa ∧ s.pinnedPa pa = true
    let idle (i : Instr) : Prop := ∃ t, exec i s = .next t ∧ s.SameOutside t ∧ s.Went t {} 1 sw id
    (s.team.exec = 0 → (Ready s { lanes := some s.team.exec } → idle (.zclr sw z)) ∧
      (Ready s { sr := [b], lanes := some s.team.exec } → idle (.zld sw z b) ∧ idle (.zst sw z b)) ∧
      (Fmt.ofCode (Fm.cfmt fm) = some f → Fm.cfmt fm ≤ 10 → a.toNat % group = 0 → Ready s cvt → idle (.zcvt sw z a))) ∧
    (s.team.exec ≠ 0 →
      (Ready s { lanes := some s.team.exec } → out (.zclr sw z) ∧
        (z.toNat < s.team.ntile → queues (.zclr sw z) {} (item (.zclr sw z) 1 0 0) [])) ∧
      (Ready s { sr := [b], lanes := some s.team.exec } → out (.zld sw z b) ∧ out (.zst sw z b) ∧
        (z.toNat < s.team.ntile → x % 128 ≠ 0 ∨ 2 ^ 20 ≤ x → exec (.zld sw z b) s = .next (s.takeTrap .align 0 at_) ∧
          exec (.zst sw z b) s = .next (s.takeTrap .align 0 at_)) ∧
        (z.toNat < s.team.ntile → x % 128 = 0 → x < 2 ^ 20 → 1024 * s.block.stashKiB < x + 4096 →
          exec (.zld sw z b) s = .next (s.takeTrap .prot 0 at_) ∧ exec (.zst sw z b) s = .next (s.takeTrap .prot 0 at_)) ∧
        (z.toNat < s.team.ntile → x % 128 = 0 → x < 2 ^ 20 → x + 4096 ≤ 1024 * s.block.stashKiB →
          queues (.zld sw z b) {} (item (.zld sw z b) 1 x 0) [] ∧
          (∀ r, r < 32 → (∀ q, q < r → ¬ forbidden q) → forbidden r →
            exec (.zst sw z b) s = .next (s.takeTrap .prot 0 { addr := BitVec.ofNat 64 (row r) })) ∧
          (∀ r, r < 32 → (∀ q, q < 32 → ¬ forbidden q) → (∀ q, q < r → ¬ pinned q) → pinned r →
            exec (.zst sw z b) s = .next (s.takeTrap .rpin 0 { addr := BitVec.ofNat 64 (row r) })) ∧
          ((∀ r, r < 32 → ¬ forbidden r) → (∀ r, r < 32 → ¬ pinned r) →
            queues (.zst sw z b) {} (item (.zst sw z b) 1 x 0) []))) ∧
      (10 < Fm.cfmt fm → Ready s { lanes := some s.team.exec } → out (.zcvt sw z a) ∧
        (z.toNat < s.team.ntile → exec (.zcvt sw z a) s = .next (s.takeTrap .fmt 0))) ∧
      (Fm.cfmt fm ≤ 10 → Fmt.ofCode (Fm.cfmt fm) = some f → a.toNat % group = 0 → Ready s cvt → out (.zcvt sw z a) ∧
        (z.toNat < s.team.ntile → Fm.afmt fm = 0 ∨ Fm.afmt fm = 10 →
          queues (.zcvt sw z a) cvt (item (.zcvt sw z a) 1 0 0)
            [{ id := s.seq, dst := .v a.toNat group, src := .matrix s.seq, kind := .matrix, landed := false }]) ∧
        (z.toNat < s.team.ntile → Fm.afmt fm ≠ 0 → Fm.afmt fm ≠ 10 → exec (.zcvt sw z a) s = .next (s.takeTrap .fmt 0))))

/-- MATRIX_STEP (R143, R146, R149 to R153, R156): the unit runs the next step of a live team's oldest item, once the step's
operands are ready and no save has stopped the team. A clear leaves zeros, a load the 1024 words of its stash bytes, a matrix
step the tile of R143, and a store writes the next line of its destination from the tile and nothing else: in memory where a
mapped range holds it, in the block's stash elsewhere; no other tile, no vector, scalar or mask register changes. An item goes with
its last step, a zcvt with its result. A step that is not ready changes nothing; one that would read a poisoned line raises MCHK in
its place (R393).

The step of a zcvt gives its pending result the words of the register group: row i in the row layout of R139, its 32 elements
converted to fm.cfmt and packed (R152). -/
def Obligations.MatrixSteps : Prop :=
  (∀ (s : State) (team : Nat) (m : MItem) (rest : List MItem),
    let u := s.teamOf team
    let z := tileOfForm m.instr
    let block := s.blockOf u.block
    u.mqueue = m :: rest →
      (s.stepReady team m = false → exec (.matrixStep team) s = .next s) ∧
      (u.status = .live → 0 < m.stepsLeft → m.done < 4096 → s.stepReady team m = true →
        m.begun = true ∨ (s.launchOf u.launch).saving = false →
        (s.stepPoisoned team m = true → exec (.matrixStep team) s = .next (s.mchkTeam team m.at_)) ∧
        (s.stepPoisoned team m = false → ∃ t, exec (.matrixStep team) s = .next t ∧ (∀ id, id ≠ team → t.teamOf id = s.teamOf id) ∧
          (∀ y, y ≠ z → (t.teamOf team).getZ y = u.getZ y) ∧ (t.teamOf team).regs.v = u.regs.v ∧
          (t.teamOf team).regs.s = u.regs.s ∧ (t.teamOf team).regs.k = u.regs.k ∧ (t.teamOf team).cc = u.cc ∧
          (isZst m.instr = false → t.mem = s.mem ∧ t.blocks = s.blocks) ∧
          match m.instr with
          | .zclr .. => (t.teamOf team).getZ z = List.replicate 1024 0 ∧
              (m.stepsLeft = 1 → (t.teamOf team).mqueue = rest)
          | .zld .. => (t.teamOf team).getZ z = ((List.range 1024).map fun j =>
              BitVec.ofNat 32 (s.stashBits team m.nextB 4096 / 2 ^ (32 * j))) ∧
              (m.stepsLeft = 1 → (t.teamOf team).mqueue = rest)
          | .zst .. =>
            let len := min (4096 - m.done) (512 - (m.nextB + m.done) % 512)
            (t.teamOf team).getZ z = u.getZ z ∧
              (m.done + len = 4096 → (t.teamOf team).mqueue = rest) ∧
              (m.done + len ≠ 4096 → ∃ n, (t.teamOf team).mqueue = n :: rest ∧ n.id = m.id ∧ n.done = m.done + len) ∧
              (∀ pa, block.place (m.nextB + m.done) = .lin pa →
                t.mem = s.mem.writeBytes pa (((lineBytes (u.getZ z)).drop m.done).take len) ∧ t.blocks = s.blocks) ∧
              (∀ o, block.place (m.nextB + m.done) = .stash o → block.saved = false → (u.getZ z).length = 1024 →
                t.mem = s.mem ∧ (∀ b, b ≠ u.block → t.blockOf b = s.blockOf b) ∧
                (∀ i, i < len → (t.blockOf u.block).stash.read (o + i) = (lineBytes (u.getZ z)).getD (m.done + i) 0) ∧
                ∀ a, a < o ∨ o + len ≤ a → (t.blockOf u.block).stash.read a = block.stash.read a)
          | .zcvt _ _ a => (t.teamOf team).getZ z = u.getZ z ∧
              (t.teamOf team).pend = (u.pend.map fun (p : Pend) =>
                if p.id = m.id then { p with src := .lanes (zcvtValues m.fm a.toNat (u.getZ z)) } else p) ∧
              ∃ n, (t.teamOf team).mqueue = n :: rest ∧ n.id = m.id ∧ n.stepsLeft = m.stepsLeft - 1
          | i => (t.teamOf team).getZ z = s.stepTile team i m.fm m.nextA m.nextB (u.getZ z) ∧
              (m.stepsLeft = 1 → (t.teamOf team).mqueue = rest) ∧
              (m.stepsLeft ≠ 1 → ∃ n, (t.teamOf team).mqueue = n :: rest ∧ n.stepsLeft = m.stepsLeft - 1 ∧
                n.instr = m.instr ∧ n.fm = m.fm ∧ n.id = m.id ∧
                ((n.nextB : Int) = max 0 ((m.nextB : Int) + bStep m.instr)))))) ∧
  (∀ (fm : Word) (a i j : Nat) (tile : List Word) (f g : Fmt), i < 32 → j < 32 →
      Fmt.ofCode (Fm.afmt fm) = some f → Fmt.ofCode (Fm.cfmt fm) = some g → Fm.afmt fm ≤ 10 → Fm.cfmt fm ≤ 10 →
      let bit := g.width * j
      let half := 16 * g.width
      ∃ x : Word, (a + bit % half / 32, i + 32 * (bit / half), x) ∈ zcvtValues fm a tile ∧
        x.toNat / 2 ^ (bit % 32) % 2 ^ g.width =
          convert g (Fm.rm fm) (Fm.sat fm) (Fm.ftz fm) (decodeElem f (Fm.ftz fm) (tileAt tile i j).toNat) % 2 ^ g.width)

/-! Control. -/

/-- br, bcc, bmz, bmnz, jmp and nop (R35, R283, R289): where the team goes on; no register, flag or lane changes.

The conditions of R35 on Z, N, C, V and B. -/
def Obligations.BranchesAndConditions : Prop :=
  (∀ (s : State) (sw : Bool) (c : BitVec 4) (k : KReg) (o : BitVec 20) (a : SReg),
      let target : BitVec 48 := s.team.pc + 4 * BitVec.signExtend 48 o
      let x := (s.team.getS a).toNat
      let goes (i : Instr) (pc : BitVec 48) : Prop := s.Reaches pc → s.MovesTo i pc sw s.team
      let next (i : Instr) : Prop := ∃ t, exec i s = .next t ∧ s.SameOutside t ∧ s.SameOthers t ∧
        t.team = s.team.advance s.seq 1 sw
      let meets : Prop := s.team.getK k &&& s.team.exec ≠ 0
      (Ready s {} → goes (.br sw o) target ∧ next (.nop sw) ∧
        (condHolds c s.team.cc = true → goes (.bcc sw c o) target) ∧ (condHolds c s.team.cc = false → next (.bcc sw c o))) ∧
      (Ready s { kr := [k] } → (meets → goes (.bmnz sw k o) target ∧ next (.bmz sw k o)) ∧
        (¬ meets → goes (.bmz sw k o) target ∧ next (.bmnz sw k o))) ∧
      (Ready s { sr := [a] } →
        (s.team.pc.toNat < x → s.inCode x = true → x < 2 ^ 48 → goes (.jmp sw a) (BitVec.ofNat 48 x)) ∧
        (x ≤ s.team.pc.toNat ∨ s.inCode x = false → exec (.jmp sw a) s = .next (s.takeTrap .illegal 0)))) ∧
  (∀ cc : BitVec 5,
      let z := cc.getLsbD 0
      let n := cc.getLsbD 1
      let c := cc.getLsbD 2
      let v := cc.getLsbD 3
      let b := cc.getLsbD 4
      condHolds 0 cc = true ∧ condHolds 1 cc = z ∧ condHolds 2 cc = !z ∧ condHolds 3 cc = (n != v) ∧
        condHolds 4 cc = (n == v) ∧ condHolds 5 cc = (!z && n == v) ∧ condHolds 6 cc = (z || n != v) ∧
        condHolds 7 cc = !c ∧ condHolds 8 cc = c ∧ condHolds 9 cc = (c && !z) ∧ condHolds 10 cc = (!c || z) ∧
        condHolds 11 cc = v ∧ condHolds 12 cc = !v ∧ condHolds 13 cc = b ∧ condHolds 14 cc = !b)

/-- call, calli and ret (R283, R286, R289): a call pushes a CALL entry and writes lk; with an empty exec it goes past its
clause; DEPTH at the bound, ILLEGAL for a target that no direct call names; ret restores exec and fm and goes to RPC.

exit (R155, R219, R223, R290): the lanes of exec leave k0 for good, once the team's copies, atomics and matrix work are done; the
team waits for those, and a copy's fault is raised in its place;
ILLEGAL in a handler and in a rebrew slot. -/
def Obligations.CallsAndExit : Prop :=
  (∀ (s : State) (sw : Bool) (o : BitVec 20) (a : SReg) (e : Entry) (rest : List Entry),
      let u := s.team
      let target : BitVec 48 := u.pc + 4 * BitVec.signExtend 48 o
      let x := u.getS a
      let entry : Entry := { kind := .call, mask := u.exec, rpc := s.after, at_ := u.pc, fm := u.fm }
      let called : Team := ({ u with stack := entry :: u.stack } : Team).setS 63 (BitVec.setWidth 64 s.after)
      let depth : Prop := (u.stack.filter fun e => e.kind == .call).length < s.callBound
      (u.exec = 0 → Ready s {} → s.MovesTo (.call sw o) s.after sw u) ∧
      (u.exec = 0 → Ready s { sr := [a] } → s.MovesTo (.calli sw a) s.after sw u) ∧
      (u.exec ≠ 0 → u.spilled = [] → u.stack.length < 16 →
        (Ready s { sw := [63] } → depth → s.Reaches target → s.MovesTo (.call sw o) target sw called) ∧
        (Ready s { sw := [63] } → ¬ depth → exec (.call sw o) s = .next (s.takeTrap .depth 0)) ∧
        (Ready s { sr := [a], sw := [63] } → depth → s.callTarget x.toNat = true → s.Reaches (BitVec.setWidth 48 x) →
          s.MovesTo (.calli sw a) (BitVec.setWidth 48 x) sw called) ∧
        (Ready s { sr := [a], sw := [63] } → depth → s.callTarget x.toNat = false →
          exec (.calli sw a) s = .next (s.takeTrap .illegal 0))) ∧
      (Ready s {} → u.stack = e :: rest →
        (e.kind = .call → s.isHeader s.ctx e.rpc.toNat = true → s.Reaches e.rpc →
          s.MovesTo (.ret sw) e.rpc sw ((({ u with stack := rest } : Team).setExec (e.mask &&& u.k0)).setFm e.fm)) ∧
        (e.kind ≠ .call → exec (.ret sw) s = .next (s.takeTrap .illegal 0))) ∧
      (Ready s {} → u.stack = [] → u.spilled = [] → exec (.ret sw) s = .next (s.takeTrap .illegal 0))) ∧
  (∀ (s : State) (sw : Bool), Ready s {} →
      let u := s.team
      (u.rebrew ≠ none ∨ u.inHandler = true → exec (.exit sw) s = .next (s.takeTrap .illegal 0)) ∧
      (∀ (c : Copy) (cause : Cause) (det : Detail), u.rebrew = none → u.inHandler = false →
        faultOf u.copies = some (c, cause, det) → exec (.exit sw) s = .next (s.raiseCopy c cause det)) ∧
      (u.rebrew = none → u.inHandler = false → (∀ c ∈ u.copies, c.fault = none) →
        (u.copies = [] → u.atoms = [] → u.mqueue = [] →
          s.MovesTo (.exit sw) s.after sw ((u.setK0 (u.k0 &&& ~~~ u.exec)).setExec 0)) ∧
        (u.copies ≠ [] ∨ u.atoms ≠ [] ∨ u.mqueue ≠ [] → exec (.exit sw) s = .next (s.setTeam { u with wait := .drain false }))))

/-- mif, melse and mend (R286, R291, R295): the lanes of each arm, and fm from the entry; the mend of a demoted entry resumes
its loop. -/
def Obligations.MaskedArms : Prop :=
  ∀ (s : State) (sw : Bool) (k : KReg) (o : BitVec 20) (e l : Entry) (rest more : List Entry),
    let u := s.team
    let target : BitVec 48 := u.pc + 4 * BitVec.signExtend 48 o
    let within := u.exec &&& u.getK k
    let entry : Entry :=
      { kind := .ifArm, mask := u.exec, aux := u.exec &&& ~~~ u.getK k, at_ := target, fm := u.fm }
    let arm : Team := ({ u with stack := entry :: u.stack } : Team).setExec within
    let next (i : Instr) (u' : Team) : Prop := ∃ t, exec i s = .next t ∧ s.SameOutside t ∧ s.SameOthers t ∧
      t.team = u'.advance s.seq 1 sw
    let others := e.aux &&& u.k0
    let top : Entry := { e with kind := .elseArm, rpc := target, aux := 0 }
    let elseArm : Team := (({ u with stack := top :: rest } : Team).setExec others).setFm e.fm
    (Ready s { kr := [k] } → u.stack.length < 16 →
      (within ≠ 0 → next (.mif sw k o) arm) ∧
      (within = 0 → s.Reaches target → s.MovesTo (.mif sw k o) target sw arm)) ∧
    (Ready s {} → u.stack = e :: rest →
      (e.kind = .ifArm → (others ≠ 0 → next (.melse sw o) elseArm) ∧
        (others = 0 → s.Reaches target → s.MovesTo (.melse sw o) target sw elseArm)) ∧
      (e.kind ≠ .ifArm → exec (.melse sw o) s = .next (s.takeTrap .illegal 0)) ∧
      (e.kind = .ifArm ∨ e.kind = .elseArm → e.demoted = false →
        next (.mend sw) ((({ u with stack := rest } : Team).setExec (e.mask &&& u.k0)).setFm e.fm)) ∧
      (e.kind = .ifArm ∨ e.kind = .elseArm → e.demoted = true → rest = l :: more → l.kind = .loop → s.Reaches e.at_ →
        s.LoopsTo (.mend sw) 1 e.at_ sw
          ((({ u with stack := { l with mark := s.seq + 1 } :: more } : Team).setExec (e.mask &&& u.k0)).setFm e.dfm)) ∧
      (e.kind ≠ .ifArm → e.kind ≠ .elseArm → exec (.mend sw) s = .next (s.takeTrap .illegal 0)))

/-- lpb, lpb.w and lpe (R286, R292, R293, R296): a loop opens with its bound and count, and with a body of at most 32 words it
takes its pipe's loop buffer; a trip ends the loop, raises TRIP at the bound, or, where an instruction of the trip has changed
something or the address steps do, begins the next trip with the address steps applied.

A spin trip of a loop below an arm with an else part (R276, R295): the loop's lanes are set aside in a D entry, and the
team goes to the arm's target with an empty exec, so that the else lanes run. -/
def Obligations.Loops : Prop :=
  (∀ (s : State) (sw : Bool) (d : SReg) (o : BitVec 15) (bound steps : BitVec 32) (o' : BitVec 20) (e : Entry)
      (rest : List Entry),
      let u := s.team
      let exit : BitVec 48 := u.pc + 4 * BitVec.setWidth 48 o
      let n := (u.getS d).toNat
      let entry (w : Bool) (count : Word) : Entry :=
        { kind := .loop, whileLoop := w, mask := u.exec, at_ := s.after, rpc := exit, trips := bound - 1, count := count,
          steps := steps, fm := u.fm, mark := s.seq + 1 }
      let opened (w : Bool) (count : Word) : Team := { u with stack := entry w count :: u.stack }
      let words := (exit.toNat - s.after.toNat) / 4
      let buffered (i : Instr) : Prop := ∃ t, exec i s = .next t ∧
        (1 ≤ words → words ≤ 32 → t.loopBuffers.find? u.pipe =
          some { team := s.cur, first := s.after.toNat, span := words, filling := true, words := [] }) ∧
        (words = 0 ∨ 32 < words → t.loopBuffers = s.loopBuffers)
      let next := (u.exec ||| e.aux) &&& u.k0
      let step (r : SReg) (x : DWord) (u : Team) : Team := u.setS r (u.getS r + x)
      let r1 : SReg := BitVec.extractLsb' 26 6 e.steps
      let x1 : DWord := 4 * BitVec.signExtend 64 (BitVec.extractLsb' 16 10 e.steps)
      let r2 : SReg := BitVec.extractLsb' 10 6 e.steps
      let x2 : DWord := 4 * BitVec.signExtend 64 (BitVec.extractLsb' 0 10 e.steps)
      let moves : Prop := (r1 ≠ 0 ∧ x1 ≠ 0) ∨ (r2 ≠ 0 ∧ x2 ≠ 0)
      let top : Entry := { e with aux := 0, trips := e.trips - 1, count := if e.whileLoop then e.count else e.count - 1,
                                  mark := s.seq + 1, again := true }
      let ends : Prop := next = 0 ∨ (e.whileLoop = false ∧ e.count = 0)
      (Ready s { sr := [d] } →
        (u.exec = 0 ∨ n = 0 → s.Reaches exit → s.MovesTo (.lpb sw d o bound steps) exit sw u) ∧
        (u.exec ≠ 0 → 0 < n → u.stack.length < 16 →
          s.LoopsTo (.lpb sw d o bound steps) 1 s.after sw (opened false (BitVec.ofNat 32 (min n (2 ^ 32) - 1))) ∧
            buffered (.lpb sw d o bound steps))) ∧
      (Ready s {} →
        (u.exec = 0 → s.Reaches exit → s.MovesTo (.lpbW sw o bound steps) exit sw u) ∧
        (u.exec ≠ 0 → u.stack.length < 16 → s.LoopsTo (.lpbW sw o bound steps) 1 s.after sw (opened true 0) ∧
          buffered (.lpbW sw o bound steps)) ∧
        (u.stack = e :: rest → e.kind ≠ .loop → exec (.lpe sw o') s = .next (s.takeTrap .illegal 0)) ∧
        (u.stack = e :: rest → e.kind = .loop →
          (ends → s.Reaches e.rpc → s.LoopsTo (.lpe sw o') 0 e.rpc sw
            ((({ u with stack := rest } : Team).setExec (e.mask &&& u.k0)).setFm e.fm)) ∧
          (¬ ends → e.trips = 0 → exec (.lpe sw o') s = .next (s.takeTrap .trip next)) ∧
          (¬ ends → e.trips ≠ 0 → u.pend = [] → e.mark ≤ u.changes ∨ moves → s.Reaches e.at_ →
            s.LoopsTo (.lpe sw o') 1 e.at_ sw ((step r2 x2 (step r1 x1 { u with stack := top :: rest })).setExec next))))) ∧
  (∀ (s : State) (sw : Bool) (o : BitVec 20) (e arm : Entry) (rest : List Entry),
      let u := s.team
      let next := (u.exec ||| e.aux) &&& u.k0
      let top : Entry := { e with aux := 0, trips := e.trips - 1, count := if e.whileLoop then e.count else e.count - 1,
                                  mark := s.seq + 1, again := true }
      let d : Entry := { kind := .ifArm, demoted := true, mask := next, aux := arm.aux, at_ := e.at_, fm := arm.fm,
                         dfm := u.fm, trips := 1 }
      Ready s {} → u.stack = e :: arm :: rest → u.stack.length < 16 → e.kind = .loop → arm.kind = .ifArm →
        arm.demoted = false → arm.aux ≠ 0 → u.pend = [] → u.changes < e.mark → e.steps = 0 → next ≠ 0 →
        (e.whileLoop = true ∨ e.count ≠ 0) → e.trips ≠ 0 → s.Reaches e.at_ →
        ∃ t, exec (.lpe sw o) s = .next t ∧ s.SameOutside { t with seq := s.seq, loopBuffers := s.loopBuffers } ∧
          t.seq = s.seq + 1 ∧ s.SameOthers t ∧
          t.team = { ({ u with stack := d :: top :: { arm with aux := 0 } :: rest } : Team).setExec 0 with
                     pc := arm.at_, wait := .none })

/-- mbrk and mcont (R293, R294): the lanes leave the innermost loop, or park until its next trip, and go from the arms above the
loop, and the word has its next one after it. With no lane left anywhere in the trip those arms go and the trip ends at once, as
lpe ends it, with the lanes that are parked: the loop is over when none is or its count is out; else TRIP is raised at this word at
the bound, or the next trip begins with the parked lanes and the address steps applied, where the trip was no spin trip.

ILLEGAL where a CALL or TRAP entry, or the bottom of the stack, lies above the loop. -/
def Obligations.LoopExits : Prop :=
  ∀ (s : State) (sw : Bool) (k : KReg) (arms rest : List Entry) (e : Entry),
    let u := s.team
    let b := u.exec &&& u.getK k
    let left := u.exec &&& ~~~ b
    let parked : Entry := { e with aux := e.aux ||| b }
    let arms' : List Entry := arms.map fun a => { a with mask := a.mask &&& ~~~ b, aux := a.aux &&& ~~~ b }
    let gone : Prop := left = 0 ∧ ∀ a ∈ arms', a.mask = 0 ∧ a.aux = 0
    let next (i : Instr) (stack : List Entry) : Prop := ∃ t, exec i s = .next t ∧ s.SameOutside t ∧ s.SameOthers t ∧
      t.team = (({ u with stack := stack } : Team).setExec left).advance s.seq 1 sw
    let step (r : SReg) (x : DWord) (u : Team) : Team := u.setS r (u.getS r + x)
    let r1 : SReg := BitVec.extractLsb' 26 6 e.steps
    let x1 : DWord := 4 * BitVec.signExtend 64 (BitVec.extractLsb' 16 10 e.steps)
    let r2 : SReg := BitVec.extractLsb' 10 6 e.steps
    let x2 : DWord := 4 * BitVec.signExtend 64 (BitVec.extractLsb' 0 10 e.steps)
    let moves : Prop := (r1 ≠ 0 ∧ x1 ≠ 0) ∨ (r2 ≠ 0 ∧ x2 ≠ 0)
    let top : Entry := { e with aux := 0, trips := e.trips - 1, count := if e.whileLoop then e.count else e.count - 1,
                                mark := s.seq + 1, again := true }
    let tripEnds (i : Instr) (waiting : Mask) : Prop :=
      let lanes := waiting &&& u.k0
      let over_ : Prop := lanes = 0 ∨ (e.whileLoop = false ∧ e.count = 0)
      (over_ → s.Reaches e.rpc → s.LoopsTo i 0 e.rpc sw ((({ u with stack := rest } : Team).setExec (e.mask &&& u.k0)).setFm e.fm)) ∧
      (¬ over_ → e.trips = 0 → exec i s = .next (s.takeTrap .trip lanes)) ∧
      (¬ over_ → e.trips ≠ 0 → u.pend = [] → e.mark ≤ u.changes ∨ moves → s.Reaches e.at_ →
        s.LoopsTo i 1 e.at_ sw ((step r2 x2 (step r1 x1 { u with stack := top :: rest })).setExec lanes))
    Ready s { kr := [k] } → u.spilled = [] → (∀ a ∈ arms, (a.kind = .ifArm ∨ a.kind = .elseArm) ∧ a.demoted = false) →
      (u.stack = arms ++ e :: rest → e.kind = .loop →
        (¬ gone → next (.mbrk sw k) (arms' ++ e :: rest) ∧ next (.mcont sw k) (arms' ++ parked :: rest)) ∧
        (gone → tripEnds (.mbrk sw k) e.aux ∧ tripEnds (.mcont sw k) parked.aux)) ∧
      (u.stack = arms ∨ (u.stack = arms ++ e :: rest ∧ (e.kind = .call ∨ e.kind = .trap)) →
        exec (.mbrk sw k) s = .next (s.takeTrap .illegal u.exec) ∧ exec (.mcont sw k) s = .next (s.takeTrap .illegal u.exec))

/-! Barriers, spawned teams, register blocks. -/

/-- The barriers of every level (R243, R246, R272, R273, R297): an arrival begins a release. Where that has nothing left to
perform, the arrival is recorded with the word: of a participant that is not the last it is noted, the last turns the phase and
every waiter goes on that is not switched out. Within a cycle the phase turns only when every event of the cycle is recorded. Otherwise the barrier stays as it is, and the release tells of the arrival. bar.wt waits, and bar.sync does
both. A release at a grid barrier has always base dies still to report. -/
def Obligations.Barriers : Prop :=
  ∀ (s : State) (sw : Bool) (l : BitVec 2) (n : BitVec 3) (timeout : BitVec 32),
    let u := s.team
    let b := s.barrier s.cur l.toNat n.toNat
    let turns : Prop := b.arrived.length + 1 = s.participants s.cur l.toNat ∧ s.cycleTraps = none
    let flipped : Barrier := { phase := !b.phase, waiters := [], arrived := [] }
    let resumed (t : State) : Prop := ∀ w ∈ b.waiters, w ≠ s.cur → (s.teamOf w).wait = .barrier l.toNat n.toNat →
      (s.teamOf w).status ≠ .saved → t.teamOf w = (s.teamOf w).endHold t.seq
    let rel : Release := { id := s.seq, scope := if l = 0 then 1 else if l = 1 then 2 else 4,
                           dies := if l = 2 then [0, 1, 2, 3] else [], peers := [], age := 0, arrive := some (l.toNat, n.toNat) }
    let held : Team := { u with wait := .barrier l.toNat n.toNat, waited := 0, timeout := timeout.toNat, afterWords := 2,
                                afterSw := sw }
    Ready s {} → u.rebrew = none → l = 0 ∨ (l = 1 ∧ n.toNat < 4) ∨ (l = 2 ∧ n.toNat < 2) →
      (∃ t, exec (.barWt sw l n timeout) s = .next t ∧ s.SameOthers t ∧ t.seq = s.seq ∧ t.mem = s.mem ∧
        t.stores = s.stores ∧ t.barrier s.cur l.toNat n.toNat = { b with waiters := b.waiters ++ [s.cur] } ∧
        t.team = held) ∧
      (l = 2 → s.relDone s.cur rel = false) ∧
      (u.spawner = none → u.rels = [] → u.acqs = [] → u.wait = .none → u.status = .live → s.cur ∉ b.arrived →
        s.cur ∉ b.waiters →
        (s.relDone s.cur rel = false →
          (∃ t, exec (.barArr sw l n) s = .next t ∧ t.seq = s.seq + 1 ∧ s.SameOthers t ∧ t.barrier s.cur l.toNat n.toNat = b ∧
            t.team = ({ u with rels := [rel] } : Team).advance t.seq 1 sw) ∧
          ∃ t, exec (.barSync sw l n timeout) s = .next t ∧ t.seq = s.seq + 1 ∧ s.SameOthers t ∧
            t.barrier s.cur l.toNat n.toNat = { b with waiters := b.waiters ++ [s.cur] } ∧
            t.team = { held with rels := [rel] }) ∧
        (s.relDone s.cur rel = true →
          (¬ turns → ∃ t, exec (.barArr sw l n) s = .next t ∧ t.seq = s.seq + 1 ∧ s.SameOthers t ∧
            t.team = u.advance t.seq 1 sw ∧
            t.barrier s.cur l.toNat n.toNat = { b with arrived := b.arrived ++ [s.cur] }) ∧
          (turns → ∃ t, exec (.barArr sw l n) s = .next t ∧ t.seq = s.seq + 1 ∧ t.team = u.advance t.seq 1 sw ∧
            t.barrier s.cur l.toNat n.toNat = flipped ∧ resumed t) ∧
          (¬ turns → ∃ t, exec (.barSync sw l n timeout) s = .next t ∧ s.SameOthers t ∧ t.team = held ∧
            t.barrier s.cur l.toNat n.toNat = { b with arrived := b.arrived ++ [s.cur], waiters := b.waiters ++ [s.cur] }) ∧
          (turns → ∃ t, exec (.barSync sw l n timeout) s = .next t ∧ t.seq = s.seq + 1 ∧
            t.team = ({ u with waited := 0, timeout := 0, afterWords := 2, afterSw := sw, stamp := t.seq } : Team).advance
              t.seq 2 sw ∧ t.barrier s.cur l.toNat n.toNat = flipped ∧ resumed t)))

/-- spawn (R266, R267, R298): a new team of 64 lanes in the spawning team's block and core, with its s1 to s8, at the target;
SPAWN beyond the bound, ILLEGAL for a target that is no header of the kernel. -/
def Obligations.Spawn : Prop :=
  ∀ (s : State) (sw : Bool) (o : BitVec 20) (slot : Nat),
    let u := s.team
    let root := u.spawner.getD s.cur
    let target : BitVec 48 := u.pc + 4 * BitVec.signExtend 48 o
    let id := s.newTeam
    Ready s { sr := (List.range 8).map fun i => BitVec.ofNat 6 (i + 1) } →
      (u.rebrew ≠ none ∨ s.inCode target.toNat = false → exec (.spawn sw o) s = .next (s.takeTrap .illegal 0)) ∧
      (u.rebrew = none → s.inCode target.toNat = true →
        (s.kernel.spawn ≤ (s.teamOf root).spawns → exec (.spawn sw o) s = .next (s.takeTrap .spawn 0)) ∧
        ((s.teamOf root).spawns < s.kernel.spawn → s.pickSlot u.core 1 (s.unplaced u.core none) = some slot → u.status = .live →
          (s.teamOf root).status ≠ .vacant →
          ∃ t, exec (.spawn sw o) s = .next t ∧ t.seq = s.seq + 1 ∧ t.mem = s.mem ∧ t.team.regs = u.regs ∧
            u.WentOn t.team t.seq 1 sw ∧ (t.teamOf root).spawns = (s.teamOf root).spawns + 1 ∧
            t.block.teams = s.block.teams ++ [id] ∧ (∀ i, i ≠ id → i ≠ s.cur → i ≠ root → t.teamOf i = s.teamOf i) ∧
            let v := t.teamOf id
            v.status = .live ∧ v.pc = target ∧ v.tsize = 64 ∧ v.core = u.core ∧ v.block = u.block ∧ v.launch = u.launch ∧
              v.index = u.index ∧ v.slot = slot ∧ v.exec = allLanes 64 ∧ v.k0 = allLanes 64 ∧ v.held = 1 ∧ v.cc = 0 ∧
              v.fm = 0 ∧ (∀ r : SReg, 1 ≤ r.toNat → r.toNat ≤ 8 → v.getS r = u.getS r) ∧
              v.getS 62 = BitVec.ofNat 64 s.kernel.privBytes ∧ v.getS 63 = 0 ∧ v.stack = [] ∧ v.pend = []))

/-- racq, rrel and tset (R270, R301, R302): a block comes with zeros, within the kernel's bound, and goes with its values; the
timer is armed for %tmr plus the operand, and disarmed by zero. A sum beyond 64 bits arms it at 2^64 - 1, which is the model's choice
(log 26). -/
def Obligations.BlocksAndTimer : Prop :=
  ∀ (s : State) (sw : Bool) (n : BitVec 3) (a : SReg),
    let u := s.team
    let held := u.held.getLsbD n.toNat
    let mine (r : VReg) : Prop := r.toNat / 8 = n.toNat
    let next (i : Instr) (words : Use) (p : Team → Prop) : Prop := ∃ t, exec i s = .next t ∧ s.SameOutside t ∧
      s.SameOthers t ∧ u.WentOn t.team s.seq 1 sw ∧ t.team.cc = u.cc ∧ u.SameS t.team none ∧ u.SameK t.team none ∧
      u.SameMode t.team ∧ (words.vw = [] → t.team.latch = u.latch) ∧ p t.team
    (Ready s {} →
      (held = true → next (.racq sw n) {} fun v => v.held = u.held ∧ u.SameV v none) ∧
      (held = false → s.blockBound ≤ u.heldCount → exec (.racq sw n) s = .next (s.takeTrap .regblk 0)) ∧
      (held = false → u.heldCount < s.blockBound → next (.racq sw n) {} fun v =>
        (∀ j, v.held.getLsbD j = (u.held.getLsbD j || decide (j = n.toNat))) ∧
        (∀ r l, mine r → v.getV r l = 0) ∧ ∀ r l, ¬ mine r → v.getV r l = u.getV r l) ∧
      (held = false → next (.rrel sw n) {} fun v => v.held = u.held ∧ u.SameV v none)) ∧
    (held = true → Ready s { vw := blockRegs n.toNat } → next (.rrel sw n) { vw := blockRegs n.toNat } fun v =>
      (∀ j, v.held.getLsbD j = (u.held.getLsbD j && decide (j ≠ n.toNat))) ∧
        ∀ r l, ¬ mine r → v.getV r l = u.getV r l) ∧
    (Ready s { sr := [a] } →
      (u.rebrew = none → next (.tset sw a) {} fun v => u.SameV v none ∧ v.timerArmed = (u.getS a != 0) ∧
        v.timerDue = false ∧ v.tdue.toNat = min (2 ^ 64 - 1) (u.tmr.toNat + (u.getS a).toNat)) ∧
      (u.rebrew ≠ none → exec (.tset sw a) s = .next (s.takeTrap .illegal 0)))


/-! Child grids. -/

/-- launch, the child's acceptance, and cwait (R268, R299, R300): a record that is out of place or that the bounds do not allow
starts nothing, and one that cannot be read raises what a load of it would; once the team's earlier accesses have performed, a
child that is quoted is reserved, and the team holds for the
release toward it; once it has performed the child is live and its identifier is written; cwait gives the child's completion word, or waits for it. -/
def Obligations.Children : Prop :=
  ∀ (s : State) (sw : Bool) (d a : SReg) (timeout : BitVec 32) (c : Launch) (pa n child rel : Nat) (w : DWord),
    let u := s.team
    let x := u.getS a
    let id := s.nextQid
    let record := (List.range 64).map fun i => s.placeByte s.cur (.lin pa) i
    (Ready s { sr := [a], sw := [d] } → u.rebrew = none →
      (x.toNat % 64 ≠ 0 → exec (.launch sw d a) s = .next (s.takeTrap .align 0 { addr := x })) ∧
      (∀ cause, x.toNat % 64 = 0 → x.toNat < 2 ^ 48 → s.accessFault s.ctx x.toNat .read = some cause →
        exec (.launch sw d a) s = .next (s.takeTrap cause 0 { addr := x, walk := some (x.toNat, 1) })) ∧
      (x.toNat % 64 = 0 → x.toNat < 2 ^ 48 → s.accessFault s.ctx x.toNat .read = none →
        s.translate s.ctx x.toNat .read = .ok pa → s.earlierDone = true → s.lineOwned (pa / 512) s.cur s.seq = false →
        (s.poisonedAt pa = true → exec (.launch sw d a) s = .next (s.mchkTeam s.cur u.pc)) ∧
        (s.poisonedAt pa = false → 10 ≤ s.launch.depth ∨ s.kernel.launch ≤ u.launches →
          exec (.launch sw d a) s = .next (s.takeTrap .launch 0)) ∧
        (s.poisonedAt pa = false → s.childQuote record = none → exec (.launch sw d a) s = .next (s.takeTrap .launch 0)) ∧
        (s.poisonedAt pa = false → s.childQuote record = some c → u.launch ≠ id → ∃ t, exec (.launch sw d a) s = .next t ∧ t.nextQid = id + 1 ∧
          t.launchOf id = c ∧ t.launch.children = s.launch.children ++ [id] ∧ t.mem = s.mem ∧ s.SameOthers t ∧
          t.team = { u.withRelease s.seq 4 [0, 1, 2, 3] [] with
                     launches := u.launches + 1, wait := .launching id d s.seq, waited := 0, timeout := 0, afterWords := 1,
                     afterSw := sw })) ∧
      (x.toNat ∉ s.launch.children → exec (.cwait sw d a timeout) s = .next (s.takeTrap .launch 0)) ∧
      (x.toNat ∈ s.launch.children →
        ((s.launchOf x.toNat).completion = some w → ScalarDone (.cwait sw d a timeout) s 2 sw d w (· = u.cc)) ∧
        ((s.launchOf x.toNat).completion = none → ∃ t, exec (.cwait sw d a timeout) s = .next t ∧ s.SameOutside t ∧
          s.SameOthers t ∧
          t.team = { u with wait := .child x.toNat d, timeout := timeout.toNat, afterWords := 2, afterSw := sw }))) ∧
    (let v := s.teamOf n
     let s0 := s.dropRelease n rel
     v.wait = .launching child d rel → (s.launchOf child).phase = .open →
      (s.relNumberDone n rel = false → exec (.childLaunchDone n) s = .next s) ∧
      (s.relNumberDone n rel = true → s0.residentOk (s0.launchOf child) = true →
        ∃ t, exec (.childLaunchDone n) s = .next t ∧ (t.launchOf child).phase = .live ∧ (t.launchOf child).accepted = s.ns ∧
          (∀ i, i ≠ n → t.teamOf i = s.teamOf i) ∧
          t.teamOf n = (({ v with rels := v.rels.filter fun r => r.id != rel } : Team).setS d (BitVec.ofNat 64 child)).endHold
            s.seq))

/-! Exceptions. -/

/-- Taking an exception (R284, R378 to R382, R384): a cause that the program handles starts the user handler at the word that
raised it, once the results of the team's older instructions have been written; a terminal one leaves a record first; with no
reachable handler the launch ends; a cause of the privileged handler
waits for it, with the core's emergency block when that is free. -/
def Obligations.TrapEntry : Prop :=
  ∀ (s : State) (cause : Cause) (lanes : Mask) (det : Detail),
    let u := s.team
    let named := if lanes ≠ 0 then lanes else if u.exec ≠ 0 then u.exec else u.k0
    let t := s.takeTrap cause lanes det
    let due : Due := { cause := cause, lanes := named, detail := det, place := some (u.pc, u.pc), fwd := false }
    (s.CanEnter → cause.privileged = false →
      (cause.resumable = true → s.SameOutside t ∧ s.Enters t cause named det u.pc u.pc) ∧
      (cause.resumable = false → u.inTerminal = false → s.cycleTraps = none →
        s.Enters t cause named det u.pc u.pc ∧ t.launch.breaches.length = s.launch.breaches.length + 1)) ∧
    (u.rebrew = none → u.inv = none → s.handlerOk = true → u.handlerRuns < 65535 → u.stack.length < 16 →
      cause.privileged = false → cause.resumable = true ∨ u.inTerminal = false → u.retired = false →
        s.SameOutside t ∧ s.SameOthers t ∧ t.team = { u with latch := none, wait := .landing s.seq, due := some due }) ∧
    (u.rebrew = none → u.inv = none → cause.privileged = false → cause ≠ .timer → s.handlerOk = false → s.cycleTraps = none →
      (t.launchOf u.launch).phase = .done ∧ (t.launchOf u.launch).breaches.length ≠ 0) ∧
    (u.rebrew = none → u.inv = none → cause = .page ∨ cause = .prot ∨ cause = .mchk →
      ∃ e : PrivEntry, e.cause = cause ∧ e.lanes = named ∧ e.mask = u.exec ∧ e.at_ = u.pc ∧ e.rpc = u.pc ∧ e.fm = u.fm ∧
        e.detail = det ∧ e.needsBlock = (s.emergency.find? u.core).isSome ∧ s.SameOthers t ∧
        t.team = { u with latch := none, privEntry := some e, wait := .handler, waited := 0, timeout := 0 } ∧
        (e.needsBlock = false → t.emergency.find? u.core = some s.cur) ∧
        (e.needsBlock = true → t.emergency = s.emergency))

/-- trap, brk and tret (R380, R387, R388): SYSCALL and BKPT with their codes, with the place that each resumes at; tret restores
what the entry saved and resumes at RPC, or past the word when the handler has cleared s59; after a terminal cause it ends the
launch. -/
def Obligations.TrapWords : Prop :=
  ∀ (s : State) (sw : Bool) (c : BitVec 8) (e : Entry) (rest : List Entry) (back : BitVec 48),
    let u := s.team
    let enters (i : Instr) (cause : Cause) (rpc : BitVec 48) : Prop := ∃ t, exec i s = .next t ∧ s.SameOutside t ∧
      s.Enters t cause (if u.exec ≠ 0 then u.exec else u.k0) { sub := c } u.pc rpc ∧ t.team.wait = parkIf u s.seq sw
    (Ready s {} → s.CanEnter → u.status = .live →
      enters (.trap sw c) .syscall s.after ∧ enters (.brk sw c) .bkpt (u.pc + 4)) ∧
    (Ready s { sr := [59], sw := [59, 60, 61] } → u.stack = e :: rest →
      (e.kind ≠ .trap → exec (.tret sw) s = .next (s.takeTrap .illegal 0)) ∧
      (e.kind = .trap → e.term = true → s.cycleTraps = none → ∃ t, exec (.tret sw) s = .next t ∧ (t.launchOf u.launch).phase = .done) ∧
      (e.kind = .trap → e.term = false →
        (u.getS 59 ≠ BitVec.setWidth 64 e.rpc → u.getS 59 ≠ 0 → exec (.tret sw) s = .next (s.takeTrap .illegal u.exec)) ∧
        (back = (if u.getS 59 = BitVec.setWidth 64 e.rpc then e.rpc else BitVec.ofNat 48 (s.nextOf e.at_.toNat)) →
          u.getS 59 = BitVec.setWidth 64 e.rpc ∨ u.getS 59 = 0 → s.Reaches back →
          ∃ t, exec (.tret sw) s = .next t ∧ s.SameOutside t ∧ s.SameOthers t ∧ t.team.pc = back ∧ t.team.stack = rest ∧
            t.team.getS 59 = e.sv59 ∧ t.team.getS 60 = e.sv60 ∧ t.team.getS 61 = e.sv61 ∧ t.team.cc = e.cc ∧
            t.team.fm = e.fm ∧ t.team.exec = e.mask &&& u.k0 ∧ t.team.hcount = e.outer ∧
            t.team.wait = parkIf u s.seq sw ∧ (t.team.repj = e.repj.toNat ∨ t.team.repj = 0) ∧
            (∀ r, r ≠ 59 → r ≠ 60 → r ≠ 61 → t.team.getS r = u.getS r) ∧ t.team.regs.v = u.regs.v ∧
            t.team.regs.k = u.regs.k ∧ t.team.regs.z = u.regs.z)))

/-! System words. -/

/-- fqry, sysr, sysw and the invalidations (R364, R368, R373): a feature, and zero for a number that is not listed; the
privileged words raise PRIV without privilege, and ILLEGAL for a number that is not assigned; a write of a read-only register
changes nothing; an invalidation leaves none of the unpinned translations that it names, nor the instruction lines that they
fetched, and holds the team. -/
def Obligations.SystemWords : Prop :=
  ∀ (s : State) (sw : Bool) (d a b : SReg) (n : BitVec 12) (w : DWord),
    let u := s.team
    let x := u.getS a
    let y := u.getS b
    let user (i : Instr) : Prop := u.privileged = false → exec i s = .next (s.takeTrap .priv 0)
    let wrong (i : Instr) (c : Cause) : Prop := exec i s = .next (s.takeTrap c 0)
    let writes (r : SysRegs) : Prop := ∃ t, exec (.sysw sw a n) s = .next t ∧
      ({ t with teams := s.teams, sys := s.sys } : State) = s ∧ t.sys = r ∧ s.SameOthers t ∧
      t.team = u.advance s.seq 1 sw
    let drops (i : Instr) (asid : Nat) (page : Option Nat) : Prop := ∃ t, exec i s = .next t ∧
      ({ t with teams := s.teams, tlbs := s.tlbs, icache := s.icache, descs := s.descs } : State) = s ∧ s.SameOthers t ∧
      t.team = { u with wait := .tlbi s.seq, waited := 0, timeout := 0, afterWords := 1, afterSw := sw } ∧
      (∀ e, e ∈ t.tlbs ↔ e ∈ s.tlbs ∧ s.drops asid page e.2 = false) ∧
      (∀ l, l ∈ t.icache ↔ l ∈ s.icache ∧ s.drops asid page l.tag = false) ∧ ∀ e ∈ t.descs, s.asid e.ctx ≠ asid
    (Ready s { sw := [d] } → ScalarDone (.fqry sw d n) s 1 sw d (s.launch.features.getD n.toNat 0) (· = u.cc)) ∧
    (user (.sysr sw d n) ∧ user (.sysw sw a n) ∧ user (.tlbi sw) ∧ user (.tlbiId sw a) ∧ user (.tlbiVa sw a b)) ∧
    (u.privileged = true →
      (s.sysRead n.toNat = none → wrong (.sysr sw d n) .illegal ∧ wrong (.sysw sw a n) .illegal) ∧
      (Ready s { sw := [d] } → s.sysRead n.toNat = some w → ScalarDone (.sysr sw d n) s 1 sw d w (· = u.cc)) ∧
      (Ready s { sr := [a] } →
        (n.toNat ∈ [0x000, 0x001, 0x002, 0x008, 0x022, 0x050, 0x058, 0x066, 0x108, 0x109, 0x10A, 0x10C] → writes s.sys) ∧
        (n = 0x020 → 1 ≤ x.toNat % 2048 → x.toNat % 2048 ≤ 1900 →
          writes { s.sys with budget := BitVec.ofNat 64 (x.toNat % 2048) }) ∧
        (n = 0x020 → x.toNat % 2048 = 0 ∨ 1900 < x.toNat % 2048 → writes s.sys) ∧
        (n = 0x065 → writes { s.sys with ahandle := x }) ∧
        (n = 0x024 → bits x.toNat 63 62 = 1 → drops (.sysw sw a n) (bits x.toNat 59 48) none)) ∧
      (Ready s {} → drops (.tlbi sw) (s.asid s.ctx) none) ∧
      (Ready s { sr := [a] } → (x.toNat < 2 ^ 12 → drops (.tlbiId sw a) x.toNat none) ∧
        (2 ^ 12 ≤ x.toNat → wrong (.tlbiId sw a) .prot)) ∧
      (Ready s { sr := [a, b] } →
        (x.toNat < 2 ^ 12 → y.toNat < 2 ^ 48 → drops (.tlbiVa sw a b) x.toNat (some y.toNat)) ∧
        (2 ^ 12 ≤ x.toNat ∨ 2 ^ 48 ≤ y.toNat → wrong (.tlbiVa sw a b) .prot)))

/-! Prefixes and the output of a recipe. -/

/-- rep and inv (R36, R47, R75, R76, R161, R162): a prefix that stands before what it may not modify raises ILLEGAL; rep leaves
the number of repetitions; inv begins the run at lo for the lanes whose bracket has no NaN and is in order, of no lane where there
is none, and skips its routine when exec is empty. -/
def Obligations.Prefixes : Prop :=
  ∀ (s : State) (n : BitVec 6) (ds as bs cs : BitVec 2) (t lo hi x y : VReg) (tol : BitVec 5) (dir : Bool) (len : BitVec 4)
    (ws : List RWord) (e : Nat),
    let u := s.team
    let use : Use := { vr := [t.toNat], vw := [lo.toNat, hi.toNat, x.toNat, y.toNat], lanes := some u.exec }
    let routine := s.routine (len.toNat + 1) t lo hi x y
    let inv : Instr := .inv t lo hi tol dir x y len
    let pass (l : Nat) : Bool := u.exec.getLsbD l && !isNan32 (u.getV t l) && !isNan32 (u.getV lo l) &&
      !isNan32 (u.getV hi l) && decide (orderedImage (u.getV lo l) ≤ orderedImage (u.getV hi l))
    (Ready s {} →
      (s.repOk ds as bs cs = false → exec (.rep n ds as bs cs) s = .next (s.takeTrap .illegal 0)) ∧
      (s.repOk ds as bs cs = true → ∃ v, exec (.rep n ds as bs cs) s = .next v ∧ s.SameOutside v ∧ s.SameOthers v ∧
        v.team = { u with rep := some { count := n.toNat + 1, d := ds, a := as, b := bs, c := cs, j := u.repj },
                          repj := 0 })) ∧
    (routine = none → exec inv s = .next (s.takeTrap .illegal u.exec)) ∧
    (routine = some (ws, e) → Ready s use →
      (u.exec = 0 → ∃ v, exec inv s = .next v ∧ s.SameOutside v ∧ s.SameOthers v ∧
        v.team = { u with pc := BitVec.ofNat 48 (4 * e) }) ∧
      ((∀ l, u.exec.getLsbD l = true → l < u.tsize) → u.tsize ≤ 1024 → u.exec ≠ 0 →
        ∃ v, exec inv s = .next v ∧ s.SameOutside v ∧ s.SameOthers v ∧ v.team.pc = u.pc + 8 ∧
          (∀ l, v.team.exec.getLsbD l = pass l) ∧ (∀ l, pass l = true → v.team.getV x l = u.getV lo l) ∧
          u.SameV v.team (some x) ∧ u.SameS v.team none ∧ u.SameK v.team none ∧ v.team.cc = u.cc ∧
          ∃ i : InvState, v.team.inv = some i ∧ i.at_ = u.pc ∧ i.exec = u.exec ∧ i.phase = .low ∧ i.pos = 0 ∧
            i.len = len.toNat + 1 ∧ i.tol = tol ∧ i.dir = dir))

/-- rput (R348): once the slot's work is done its tile is PRESENT, with the registers' words clipped to the tensor, and the slot
retires; outside a rebrew slot it raises ILLEGAL. -/
def Obligations.RecipeOutput : Prop :=
  ∀ (s : State) (sw : Bool) (d : VReg) (r : RebrewSlot) (x : Desc),
    let u := s.team
    (u.rebrew = none → Ready s { vr := tileRegs d, lanes := some 0 } →
      exec (.rput sw d) s = .next (s.takeTrap .illegal 0)) ∧
    (u.rebrew = some r → Ready s { vr := tileRegs d } → u.copies = [] →
      (u.mqueue ≠ [] ∨ u.atoms ≠ [] ∨ (∃ p ∈ u.pend, p.landed = false) →
        exec (.rput sw d) s = .next (s.setTeam { u with wait := .drain true })) ∧
      (u.mqueue = [] → u.atoms = [] → (∀ p ∈ u.pend, p.landed = true) → s.desc s.ctx r.name.tensor = .ok x →
        ∃ t, exec (.rput sw d) s = .next t ∧ t.mem = s.mem ∧ s.SameOthers t ∧ t.team.status = .retired ∧
          (∃ y, t.tileAt? r.name = some y ∧ y.state = .present ∧
            y.words = lineWords (x.clip r.name.row r.name.col (lineBytes (u.tileData d)))) ∧
          (∀ m, m ≠ r.name → t.tileAt? m = s.tileAt? m) ∧
          ∀ q ∈ t.brews, ¬ (q.core = r.server ∧ q.name = r.name)))


/-! Command streams. -/

/-- The packets (R57, R281, R312, R318, R320, R321, R369 to R371, R394): a ring that does not run, and a QUOTE or ACCEPT while a
fence holds the front cores, changes nothing; REG registers an image or refuses it, and writes its record; QUOTE leaves a hold or
a refusal under the next identifier; ACCEPT starts the launch, or closes the quote, and says so in LASTA; REVOKE ends the launch
or the quote, but no child that awaits acceptance and no launch that has only its completion left; FENCE holds the ring; PRED
sets its arms, or stops its ring; SIGNAL writes. That a FENCE which names a launch of another context, or one that is not live, is
satisfied at once is the model's reading (log 38). -/
def Obligations.Packets : Prop :=
  ∀ (s s1 : State) (r : Ring) (addr res qid lid mask value : BitVec 64) (flags ctrl : BitVec 32) (q : QuoteFields) (m : Image)
    (reason : Nat) (l : Launch) (w : Nat),
    let x := s.ringOf r
    let ctx := s.ringCtx r
    let with_ (f : Delta → Delta) : RingState := { x with delta := f x.delta }
    let kept (f : Delta → Delta) : State := s.setRing r (with_ f)
    let noted (t : State) (outcome : Nat) : Prop := t.streamField r.stream 44 8 = outcome * 2 ^ 62 + qid.toNat % 2 ^ 62
    let regs (d : Delta) : Delta := { d with reg := (addr, res) }
    let quotes (d : Delta) : Delta := { d with quote := q }
    let accepts (d : Delta) : Delta := { d with accept := (qid, flags) }
    let revokes (d : Delta) : Delta := { d with revoke := lid }
    let preds (d : Delta) : Delta := { d with pred := (addr, mask, value, ctrl) }
    let fences (d : Delta) : Delta := { d with fence := lid }
    let signals (d : Delta) : Delta := { d with signal := (addr, value, ctrl) }
    (s.ringRuns r = false →
      exec (.reg r addr res) s = .next s ∧ exec (.quote r q) s = .next s ∧ exec (.accept r qid flags) s = .next s ∧
        exec (.revoke r lid) s = .next s ∧ exec (.pred r addr mask value ctrl) s = .next s ∧
        exec (.fence r lid) s = .next s ∧ exec (.signal r addr value ctrl) s = .next s) ∧
    (s.quotingPaused = true → exec (.quote r q) s = .next s ∧ exec (.accept r qid flags) s = .next s) ∧
    (s.ringRuns r = true →
      ((kept regs).checkImage ctx addr.toNat = .ok m → ∃ t, exec (.reg r addr res) s = .next t ∧ t.images = s.images ++ [m] ∧
        t.ringOf r = with_ regs ∧
        (State.writeVirt { kept regs with images := s.images ++ [m] } ctx res.toNat (toBytesLE 8 m.handle ++ [0]
          ++ List.replicate 7 0 ++ m.sha ++ List.replicate 16 0) = some s1 → t = s1)) ∧
      ((kept regs).checkImage ctx addr.toNat = .error reason → ∃ t, exec (.reg r addr res) s = .next t ∧ t.images = s.images ∧
        t.ringOf r = with_ regs ∧
        ((kept regs).writeVirt ctx res.toNat (toBytesLE 8 0 ++ toBytesLE 1 reason ++ List.replicate 55 0) = some s1 →
          t = s1)) ∧
      (s.quotingPaused = false →
        ((kept quotes).compute ((kept quotes).requestOf r q) = .ok l → ∃ t, exec (.quote r q) s = .next t ∧
          t.nextQid = s.nextQid + 1 ∧ t.launchOf s.nextQid = l ∧ t.ringOf r = with_ quotes) ∧
        ((kept quotes).compute ((kept quotes).requestOf r q) = .error reason → ∃ t, exec (.quote r q) s = .next t ∧
          t.nextQid = s.nextQid + 1 ∧ (t.launchOf s.nextQid).fig.status = 1 ∧ (t.launchOf s.nextQid).fig.reason = reason ∧
          (t.launchOf s.nextQid).fig.tq = 0 ∧ (t.launchOf s.nextQid).phase ≠ .open) ∧
        (s.launchOf qid.toNat = l →
          (l.phase ≠ .open ∨ l.ctx ≠ ctx ∨ l.parent ≠ none → ∃ t, exec (.accept r qid flags) s = .next t ∧
            t.launches = s.launches ∧ noted t 2) ∧
          (l.phase = .open → l.ctx = ctx → l.parent = none →
            (l.fig.expiry < s.ns ∨ l.fig.opp < s.sys.opp → ∃ t, exec (.accept r qid flags) s = .next t ∧ noted t 2 ∧
              t.launchOf qid.toNat = { l with phase := .lapsed, pieces := [], fig := { l.fig with status := 2, state := 2 } }) ∧
            (s.ns ≤ l.fig.expiry → s.sys.opp ≤ l.fig.opp →
              (flags.getLsbD 0 = true → ∃ t, exec (.accept r qid flags) s = .next t ∧ noted t 1 ∧
                t.launchOf qid.toNat =
                  { l with phase := .declined, pieces := [], fig := { l.fig with status := 0, state := 3 } }) ∧
              (flags.getLsbD 0 = false → ∃ t, exec (.accept r qid flags) s = .next t ∧ noted t 0 ∧
                t.ringOf r = { with_ accepts with accepted := x.accepted ++ [qid.toNat] } ∧
                ((kept accepts).residentOk l = true → (t.launchOf qid.toNat).phase = .live ∧
                  (t.launchOf qid.toNat).accepted = s.ns ∧ (t.launchOf qid.toNat).fig = { l.fig with state := 1 }) ∧
                ((kept accepts).residentOk l = false → (t.launchOf qid.toNat).phase = .done)))))) ∧
      (s.launchOf lid.toNat = l →
        (l.ctx ≠ ctx ∨ (l.phase ≠ .open ∧ l.phase ≠ .live) ∨ (l.phase = .open ∧ l.parent ≠ none) ∨
          s.allRetired lid.toNat = true → exec (.revoke r lid) s = .next (kept revokes)) ∧
        (l.ctx = ctx → l.phase = .open → l.parent = none → ∃ t, exec (.revoke r lid) s = .next t ∧
          t.launchOf lid.toNat = { l with phase := .declined, pieces := [], fig := { l.fig with status := 0, state := 3 } }) ∧
        (l.ctx = ctx → l.phase = .live → s.allRetired lid.toNat = false → ∃ t, exec (.revoke r lid) s = .next t ∧ (t.launchOf lid.toNat).phase = .done ∧
          ∃ b ∈ (t.launchOf lid.toNat).breaches, b.cause = .revoke ∧ b.party = .host)) ∧
      (s.readVirtLE ctx addr.toNat 8 = none → ∃ t, exec (.pred r addr mask value ctrl) s = .next t ∧
        t.streamErr r.stream = 7 ∧ t.ringOf r = { x with stopped := true } ∧ ∀ o, o ≠ r → t.ringOf o = s.ringOf o) ∧
      (s.readVirtLE ctx addr.toNat 8 = some w →
        let first := bits ctrl.toNat 15 8
        let second := bits ctrl.toNat 23 16
        let v := BitVec.ofNat 64 w &&& mask
        let taken := match bits ctrl.toNat 1 0 with
          | 0 => v == value | 1 => v != value | 2 => decide (v.toNat < value.toNat) | _ => decide (value.toNat ≤ v.toNat)
        exec (.pred r addr mask value ctrl) s = .next (s.setRing r { with_ preds with
          arms := if first = 0 ∧ second = 0 then none
                  else some { first := first, second := second, taken := taken, left := (with_ preds).delta } })) ∧
      (let ids := if lid = 0 then x.accepted else if (s.launchOf lid.toNat).ctx = ctx then [lid.toNat] else []
       ((∀ i ∈ ids, (s.launchOf i).phase ≠ .live) → exec (.fence r lid) s = .next (kept fences)) ∧
         ((∃ i ∈ ids, (s.launchOf i).phase = .live) →
           exec (.fence r lid) s = .next (s.setRing r { with_ fences with hold := some ids }))) ∧
      (ctrl.getLsbD 0 = true → exec (.signal r addr value ctrl) s = .next { kept signals with
        hostWrites := s.hostWrites ++ [(BitVec.ofNat 64 (s.endpt r.stream), addr, value)] }) ∧
      (ctrl.getLsbD 0 = false → (kept signals).writeVirt ctx addr.toNat (toBytesLE 8 value.toNat) = some s1 →
        exec (.signal r addr value ctrl) s = .next s1)) ∧
    (x.hold = none → exec (.fenceSatisfied r) s = .next s) ∧
    (∀ ids, x.hold = some ids →
      ((∀ i ∈ ids, (s.launchOf i).phase ≠ .live) →
        exec (.fenceSatisfied r) s = .next (s.setRing r { x with hold := none })) ∧
      ((∃ i ∈ ids, (s.launchOf i).phase = .live) → exec (.fenceSatisfied r) s = .next s))

/-! The host. -/

/-- The claim and the writes of the management window (R181, R322, R325, R360 to R363, R368, R374): what comes from another
endpoint is dropped and counted; a register takes its fields, within its range, and a table the eight bytes written; each write
that has performed is acknowledged, one of TLBINV only later.

Writes of the streams' entries and of memory (R360, R369, R370, R372): a tail and ERR may be written by the stream's own
endpoint and by the manager; ERR 6 stays, and a cleared ERR starts the stopped rings anew; a fabric write performs at the bytes
that it names and at no others, and is acknowledged, or is dropped. That a write which changes nothing is acknowledged too, and
that the reserved bytes of a table's entry keep what is written, is the model's reading (logs 68, 70). -/
def Obligations.EndpointWrites : Prop :=
  (∀ (s : State) (ep newEp val id : DWord) (off : BitVec 24),
      let rejected (i : Instr) : Prop := exec i s = .next { s with sys := { s.sys with mgmtrej := s.sys.mgmtrej + 1 } }
      let manager : Prop := s.sys.mgmtep ≠ 0 ∧ ep = s.sys.mgmtep
      let sets (i : Instr) (r : SysRegs) : Prop := exec i s = .next { s with sys := r, replies := s.replies ++ [.ack ep] }
      let v := val.toNat % 2048
      let p := val.toNat % 4
      let split := BitVec.setWidth 3 val
      let at_ := off.toNat / 8 * 8
      let asid := bits val.toNat 59 48
      let drops (i : Instr) (page : Option Nat) : Prop := ∃ t, exec i s = .next t ∧
        ({ t with tlbs := s.tlbs, icache := s.icache, descs := s.descs, tlbinvHolds := s.tlbinvHolds } : State) = s ∧
        t.tlbinvHolds = s.tlbinvHolds ++ [(ep, s.seq)] ∧ ∀ e, e ∈ t.tlbs ↔ e ∈ s.tlbs ∧ s.drops asid page e.2 = false
      let ctx := bits val.toNat 15 4
      let va := bits val.toNat 63 16
      (id = devid → s.sys.mgmtep = 0 ∨ manager → sets (.managementClaim ep newEp id) { s.sys with mgmtep := newEp }) ∧
      (id ≠ devid ∨ (s.sys.mgmtep ≠ 0 ∧ ¬ manager) → rejected (.managementClaim ep newEp id)) ∧
      (¬ manager → rejected (.systemRegisterWrite ep off val) ∧ rejected (.budgetWrite ep val) ∧ rejected (.oppWrite ep val) ∧
        rejected (.stashcfgWrite ep val) ∧ rejected (.tlbinvIdentifier ep val) ∧ rejected (.tlbinvPage ep val) ∧
        rejected (.areportWrite ep val) ∧ rejected (.preemptSave ep val) ∧ rejected (.preemptRestore ep val) ∧
        rejected (.preemptExport ep val) ∧ rejected (.preemptImport ep val)) ∧
      (manager →
        (1 ≤ v → v ≤ 1900 → sets (.budgetWrite ep val) { s.sys with budget := BitVec.ofNat 64 v }) ∧
        (v = 0 ∨ 1900 < v → sets (.budgetWrite ep val) s.sys) ∧
        (p = 3 → sets (.oppWrite ep val) s.sys) ∧
        (p ≠ 3 → p ≤ s.sys.opp → sets (.oppWrite ep val) { s.sys with oppAsked := p, opp := p, oppPending := false }) ∧
        (p ≠ 3 → s.sys.opp < p → (∃ e ∈ s.launches, e.2.phase = .live ∧ e.2.fig.opp < p) →
          sets (.oppWrite ep val) { s.sys with oppAsked := p, oppPending := true }) ∧
        (p ≠ 3 → s.sys.opp < p → (∀ e ∈ s.launches, ¬ (e.2.phase = .live ∧ e.2.fig.opp < p)) →
          sets (.oppWrite ep val) { s.sys with oppAsked := p, opp := p, oppPending := false }) ∧
        sets (.stashcfgWrite ep val) (if split = 7 then s.sys else { s.sys with stashcfg := split }) ∧
        drops (.tlbinvIdentifier ep val) none ∧ drops (.tlbinvPage ep val) (some (bits val.toNat 47 0)) ∧
        (s.sys.astat ≠ 1 → ctx < 64 → va % 64 = 0 → s.sys.ahandle = 0 →
          (∀ i, i < 7968 → s.accessFault ctx (va + i) .write = none) →
          sets (.areportWrite ep val) { s.sys with areport := val &&& ~~~15, astat := 1 }) ∧
        (s.sys.astat ≠ 1 → 64 ≤ ctx ∨ va % 64 ≠ 0 →
          sets (.areportWrite ep val) { s.sys with areport := val &&& ~~~15, astat := 3 }) ∧
        (at_ = 8 * 0x020 → 1 ≤ v → v ≤ 1900 →
          sets (.systemRegisterWrite ep off val) { s.sys with budget := BitVec.ofNat 64 v }) ∧
        (at_ = 8 * 0x065 → sets (.systemRegisterWrite ep off val) { s.sys with ahandle := val }) ∧
        (at_ = 8 * 0x101 → sets (.systemRegisterWrite ep off val) { s.sys with preaddr := val &&& ~~~63 }) ∧
        (at_ = 8 * 0x010 → sets (.systemRegisterWrite ep off val) s.sys) ∧
        (0x10000 ≤ at_ → at_ < 0x11000 → ∃ t, exec (.systemRegisterWrite ep off val) s = .next t ∧
          ({ t with ctxTable := s.ctxTable, replies := s.replies } : State) = s ∧ t.replies = s.replies ++ [.ack ep] ∧
          (∀ i, i < 8 → t.ctxTable.read (at_ - 0x10000 + i) = BitVec.extractLsb' (8 * i) 8 val) ∧
          ∀ a, a < at_ - 0x10000 ∨ at_ - 0x10000 + 8 ≤ a → t.ctxTable.read a = s.ctxTable.read a) ∧
        (0x22000 ≤ at_ ∨ (0x8000 ≤ at_ ∧ at_ < 0x10000) ∨ (0x11000 ≤ at_ ∧ at_ < 0x20000) →
          rejected (.systemRegisterWrite ep off val)))) ∧
  (∀ (s : State) (ep : DWord) (r : Ring) (val : BitVec 32) (code : BitVec 8) (stream : Nat) (pa : BitVec 64) (data : List Byte),
      let rejected (i : Instr) : Prop := exec i s = .next { s with sys := { s.sys with mgmtrej := s.sys.mgmtrej + 1 } }
      let manager : Prop := s.sys.mgmtep ≠ 0 ∧ ep = s.sys.mgmtep
      let own (i : Nat) : Prop := s.streamOn i = true ∧ s.endpt i = ep.toNat
      let outside (t : State) (a n : Nat) : Prop := ∀ b, b < a ∨ a + n ≤ b → t.streamTable.read b = s.streamTable.read b
      (s.sys.mgmtep ≠ 0 → r.stream < 128 → manager ∨ own r.stream → ∃ t, exec (.streamTailWrite ep r val) s = .next t ∧
        ({ t with streamTable := s.streamTable, replies := s.replies } : State) = s ∧ t.replies = s.replies ++ [.ack ep] ∧
        t.streamField r.stream (if r.high then 16 else 20) 4 = val.toNat ∧
        outside t (64 * r.stream + if r.high then 16 else 20) 4) ∧
      (s.sys.mgmtep = 0 ∨ 128 ≤ r.stream ∨ (¬ manager ∧ ¬ own r.stream) → rejected (.streamTailWrite ep r val)) ∧
      (s.sys.mgmtep ≠ 0 → stream < 128 → manager ∨ own stream →
        (s.streamErr stream = 6 → exec (.streamErrClear ep stream 0) s = .next { s with replies := s.replies ++ [.ack ep] }) ∧
        (s.streamErr stream ≠ 6 → ∃ t, exec (.streamErrClear ep stream 0) s = .next t ∧ t.streamErr stream = 0 ∧
          ({ t with streamTable := s.streamTable, rings := s.rings, replies := s.replies } : State) = s ∧
          t.replies = s.replies ++ [.ack ep] ∧ outside t (64 * stream + 35) 1 ∧
          ∀ h, let x := s.ringOf ⟨stream, h⟩
            t.ringOf ⟨stream, h⟩ = if x.stopped then { x with delta := .zero, arms := none, stopped := false } else x)) ∧
      (¬ manager → code ≠ 0 → rejected (.streamErrClear ep stream code)) ∧
      (manager → pa.toNat + data.length ≤ 0xFFF0000000000 →
        (∀ i, i < data.length → s.ownerOf ((pa.toNat + i) / 512) = none) →
        (∀ e ∈ s.launches, e.2.phase = .live → e.2.named = []) →
        ∃ t, exec (.hostFabricWrite ep (.phys pa) data) s = .next t ∧
          ({ t with mem := s.mem, replies := s.replies } : State) = s ∧ t.replies = s.replies ++ [.ack ep] ∧
          (∀ i, i < data.length → t.mem.read (pa.toNat + i) = data.getD i 0) ∧
          ∀ a, a < pa.toNat ∨ pa.toNat + data.length ≤ a → t.mem.read a = s.mem.read a) ∧
      ((¬ manager ∧ pa.toNat + data.length ≤ 0xFFF0000000000) ∨ 2 ^ 52 < pa.toNat + data.length →
          rejected (.hostFabricWrite ep (.phys pa) data)))

/-- Pre-emption (R282, R326, R389, R391, R392): a launch that no block holds is saved at once, and one whose blocks have all
retired has nothing to save; a block with a team that stands at no boundary stays, and the launch goes on being saved; Restore
lets the saved blocks be placed again; Export takes the launch off the device; Import without its image is refused with a record;
an operation on a launch that is not live is refused. A restored block takes what its images hold. -/
def Obligations.Preemption : Prop :=
  ∀ (s s1 s2 : State) (ep val : DWord) (blk core u : Nat) (m : Image) (l' : Launch) (bs : List Byte),
    let id := val.toNat % 2 ^ 61
    let l := s.launchOf id
    let saved : Prop := ∃ e ∈ s.blocks, e.2.launch = id ∧ e.2.saved = true ∧ e.2.retired = false
    let placed (b : Block) : Prop := b.launch = id ∧ b.saved = false ∧ b.retired = false
    let acked := s.replies ++ [.ack ep]
    let refused (i : Instr) : Prop := exec i s = .next { s with sys := { s.sys with preempt := 3 }, replies := acked }
    let distinct : Prop := ∀ e ∈ s.blocks, s.blockOf e.1 = e.2
    let stuck : Prop := s.stores = [] ∧ distinct ∧ (∃ e ∈ s.blocks, placed e.2) ∧
      ∀ e ∈ s.blocks, placed e.2 → ∃ u ∈ e.2.teams, (s.teamOf u).status = .live ∧ (s.teamOf u).savable = false
    (s.sys.mgmtep ≠ 0 → ep = s.sys.mgmtep →
      (l.phase ≠ .live → refused (.preemptSave ep val) ∧ refused (.preemptRestore ep val) ∧ refused (.preemptExport ep val)) ∧
      (l.phase = .live → s.allRetired id = true → exec (.preemptSave ep val) s = .next
        { s with sys := { s.sys with preempt := 2 }, replies := acked }) ∧
      (l.phase = .live → s.allRetired id = false → (∀ e ∈ s.blocks, ¬ placed e.2) → ∃ t, exec (.preemptSave ep val) s = .next t ∧
        t.sys = { s.sys with preempt := 2, preemptOp := none } ∧ (t.launchOf id).phase = .live ∧
        (t.launchOf id).withdrawn = true ∧ (t.launchOf id).hostDelay = true ∧ (t.launchOf id).saving = false ∧
        (l.yieldClass = false → ∃ b ∈ (t.launchOf id).breaches, b.cause = .forcepre ∧ b.party = .host)) ∧
      (l.phase = .live → l.yieldClass = true → s.allRetired id = false → stuck → exec (.preemptSave ep val) s = .next
        { s.setLaunchOf id { l with hostDelay := true, withdrawn := true, saving := true } with
          sys := { s.sys with preempt := 1, preemptOp := some (id, false) }, replies := acked }) ∧
      (l.phase = .live → l.yieldClass = true → s.allRetired id = false → (∀ e ∈ s.blocks, ¬ placed e.2) → s.quiet id = true →
        ∃ t, exec (.preemptExport ep val) s = .next t ∧ (t.launchOf id).phase = .done ∧ t.sys.preempt = 2 ∧
          t.sys.preemptOp = none) ∧
      (l.phase = .live → saved → exec (.preemptRestore ep val) s = .next
        { s.setLaunchOf id { l with withdrawn := false, saving := false } with
          sys := { s.sys with preempt := 2 }, replies := acked }) ∧
      (l.phase = .live → ¬ saved → refused (.preemptRestore ep val)) ∧
      (let record := s.mem.readBytes s.sys.preaddr.toNat 256
       let sha := (record.drop 8).take 32
       ((∀ i ∈ s.images, i.ctx < 64 → i.sha ≠ sha) → ∃ t, exec (.preemptImport ep val) s = .next t ∧
         t.sys = { s.sys with preempt := 3 } ∧ t.nextQid = s.nextQid + 1 ∧ (t.launchOf s.nextQid).phase = .done ∧
         ∃ b ∈ (t.launchOf s.nextQid).breaches, b.cause = .migrate ∧ b.party = .host) ∧
       (s.contextOf sha = some m → s.importQuote (importRequest m.ctx m.handle s.fresh record) record = some l' →
         State.residentOk { s with nextQid := s.nextQid + 1, fresh := s.fresh + 1 } l' = true →
         ∃ t, exec (.preemptImport ep val) s = .next t ∧ t.sys = { s.sys with preempt := 2 } ∧
           t.nextQid = s.nextQid + 1 ∧ (t.launchOf s.nextQid).phase = .live ∧ (t.launchOf s.nextQid).fig = l'.fig))) ∧
    (l.phase ≠ .live ∨ l.yieldClass = false → exec (.machinePreempt id) s = .next s) ∧
    (l.phase = .live → l.yieldClass = true → l.ending = none → s.allRetired id = false →
      (stuck → exec (.machinePreempt id) s = .next (s.setLaunchOf id { l with saving := true })) ∧
      (s.stores = [] → distinct → s.blocksOf id Block.placed = [blk] →
        (∀ v ∈ (s.blockOf blk).teams, (s.teamOf v).status = .retired ∨
          ((s.teamOf v).status = .live ∧ (s.teamOf v).savable = true)) →
        (∃ v ∈ (s.blockOf blk).teams, (s.teamOf v).status = .live) →
        ∃ t, exec (.machinePreempt id) s = .next t ∧ ((t.launchOf id).phase = .done ∨ ((t.blockOf blk).saved = true ∧
          (∀ v ∈ (s.blockOf blk).teams, (s.teamOf v).status = .live → (t.teamOf v).status = .saved) ∧
          (t.launchOf id).saving = false)))) ∧
    ((s.blockOf blk).launch = id → (s.blockOf blk).saved = true → (s.blockOf blk).retired = false → l.phase = .live →
      l.ending = none → l.saving = false → l.withdrawn = false → core ∈ l.coreList → s.offers id core = true →
      (s.blockOf blk).teams = [u] → (s.teamOf u).status = .saved →
      (∃ f, f + (s.teamOf u).tsize / 64 ≤ 64 ∧ f % 4 = (s.teamOf u).slot % 4 ∧
        s.slotFree core f ((s.teamOf u).tsize / 64) = true) →
      (s.rereadImage blk u = none → ∃ t, exec (.restoreBlock blk core) s = .next t ∧ (t.launchOf id).phase = .done) ∧
      (s.rereadImage blk u = some s1 → s1.rereadStash blk = some s2 →
        ∃ t f, exec (.restoreBlock blk core) s = .next t ∧ f % 4 = (s.teamOf u).slot % 4 ∧ t.launches = s.launches ∧
          t.mem = s.mem ∧ t.blockOf blk = { s2.blockOf blk with saved := false, core := core } ∧
          t.teamOf u = { s1.teamOf u with status := .live, core := core, slot := f, stamp := s1.seq } ∧
          (s.readVirt l.ctx (s.teamOf u).imageVa (imageBytes (s.teamOf u).tsize (s.teamOf u).ntile) = some bs →
            ((∀ i d, (s.teamOf u).wait ≠ .child i d) →
              (∀ lv j, (s.teamOf u).wait = .barrier lv j → u ∈ (s.barrier u lv j).waiters) →
              (t.teamOf u).pc = BitVec.ofNat 48 (fieldLE bs 0 8)) ∧
            (t.teamOf u).fm = BitVec.ofNat 32 (fieldLE bs 16 4) ∧
            (t.teamOf u).cc = BitVec.ofNat 5 (fieldLE bs 10 1))))


/-! What other agents do. -/

/-- RESULT_WRITE, STORE_PERFORM and ATOMIC_APPLY (R43, R44, R169, R224, R236): a result reaches its register and no other, and
stays pending; a park ends with the results that it covers; a store that its core has accepted reaches memory at its bytes and
at no others, after the core's older stores to them, and one that the core may not accept yet waits; plain stash takes a store at
its acceptance; an atomic reads and writes its word in one step. -/
def Obligations.ResultsAndStores : Prop :=
  ∀ (s : State) (team n : Nat) (p : Pend) (w : Store) (a : Atom) (l : AtomLane),
    let u := s.teamOf team
    let others (t : State) : Prop := ∀ i, i ≠ team → t.teamOf i = s.teamOf i
    let landed (t : State) : Prop := ∃ ch, (t.teamOf team).pend = u.pend.map fun (o : Pend) =>
      if o.id = n then { o with landed := true, changed := ch } else o
    let writes (q : Team → Prop) : Prop := ∃ t, exec (.resultWrite team n) s = .next t ∧
      ({ t with teams := s.teams } : State) = s ∧ others t ∧ (t.teamOf team).cc = u.cc ∧ (t.teamOf team).exec = u.exec ∧
      (t.teamOf team).fm = u.fm ∧ (t.teamOf team).pc = u.pc ∧ (t.teamOf team).regs.z = u.regs.z ∧ q (t.teamOf team)
    (u.pend.find? (fun q => q.id = n) = some p → p.landed = false → u.wait = .none → s.poisoned = [] →
      (∀ x r, p.src = .scalar x → p.dst = .s r →
        writes (fun v => v.getS r = (if r = 0 then 0 else x) ∧ u.SameS v (some r) ∧ v.regs.v = u.regs.v ∧ v.regs.k = u.regs.k) ∧
        ∃ t, exec (.resultWrite team n) s = .next t ∧ landed t) ∧
      (∀ m k, k ≠ 0 → p.src = .mask m → p.dst = .k k →
        writes (fun v => v.getK k = m ∧ u.SameK v (some k) ∧ v.regs.v = u.regs.v ∧ v.regs.s = u.regs.s) ∧
        ∃ t, exec (.resultWrite team n) s = .next t ∧ landed t) ∧
      (∀ vals f k, p.src = .lanes vals → p.dst = .v f k → (vals.map fun x => (x.1, x.2.1)).Nodup →
        (∀ x ∈ vals, x.1 < 64 ∧ x.2.1 < u.tsize ∧ x.2.1 < 1024) →
        writes (fun v => (∀ x ∈ vals, v.getVn x.1 x.2.1 = x.2.2) ∧
          (∀ r lane, lane < u.tsize → (∀ x ∈ vals, ¬ (x.1 = r ∧ x.2.1 = lane)) → v.getVn r lane = u.getVn r lane) ∧
          v.regs.s = u.regs.s ∧ v.regs.k = u.regs.k) ∧
        ∃ t, exec (.resultWrite team n) s = .next t ∧ landed t) ∧
      (∀ width items f k, p.src = .load width items → p.dst = .v f k → width < 3 → f < 64 → (items.map (·.1)).Nodup →
        (∀ x ∈ items, x.1 < u.tsize ∧ x.1 < 1024 ∧ x.2.2 ≠ none) →
        writes fun v => (∀ x ∈ items, v.getVn f x.1 = BitVec.setWidth 32 (x.2.2.getD 0)) ∧
          (∀ r lane, lane < u.tsize → (r ≠ f ∨ lane ∉ items.map (·.1)) → v.getVn r lane = u.getVn r lane) ∧
          v.regs.s = u.regs.s ∧ v.regs.k = u.regs.k)) ∧
    (∀ k, u.wait = .park k → (∀ q ∈ u.pend, k ≤ q.id ∨ q.landed = true) → (∀ q ∈ u.pend, q.id = n → q.landed = true) →
      ∃ t, exec (.resultWrite team n) s = .next t ∧ ({ t with teams := s.teams } : State) = s ∧ others t ∧
        (t.teamOf team).wait = .none ∧ (t.teamOf team).pend = (u.pend.filter fun q => !decide (q.id < k)) ∧
        (t.teamOf team).regs = u.regs ∧ (t.teamOf team).pc = u.pc) ∧
    (s.stores.find? (fun v => v.id = n) = some w →
      let gone := s.stores.filter fun v => v.id != n
      (w.accepted = false → s.canAccept w = false → exec (.storePerform n) s = .next s) ∧
      (∀ pa data, w.what = .lin pa data →
        (w.accepted = false → w.stream = false → s.canAccept w = true →
          runAct (.accept n) s = .next { s with stores := gone ++ [{ w with accepted := true }] }) ∧
        (w.accepted = true → s.canPerform w = true → ∃ t, exec (.storePerform n) s = .next t ∧ t.stores = gone ∧
          (∀ i, i < data.length → t.mem.read (pa + i) = data.getD i 0) ∧
          (∀ b, b < pa ∨ pa + data.length ≤ b → t.mem.read b = s.mem.read b) ∧
          ({ t with mem := s.mem, stores := s.stores } : State) = s) ∧
        (w.accepted = true → ∀ xs ys v pb other, s.stores = xs ++ w :: ys → (∀ x ∈ xs, x.id ≠ n) → v ∈ xs →
          v.accepted = true → v.core = w.core → v.what = .lin pb other → pb < pa + data.length → pa < pb + other.length →
          0 < data.length → 0 < other.length → exec (.storePerform n) s = .next s)) ∧
      (∀ blk off data, w.what = .stash blk off data → w.stream = false → w.accepted = false → s.canAccept w = true →
        ∃ t, exec (.storePerform n) s = .next t ∧ t.stores = gone ∧ t.mem = s.mem ∧
          (∀ i, i < data.length → (t.blockOf blk).stash.read (off + i) = data.getD i 0) ∧
          (∀ b, b < off ∨ off + data.length ≤ b → (t.blockOf blk).stash.read b = (s.blockOf blk).stash.read b) ∧
          ∀ b, b ≠ blk → t.blockOf b = s.blockOf b)) ∧
    (u.atoms.find? (fun b => b.id = n / 1024) = some a → a.todo.find? (fun o => o.lane = n % 1024) = some l →
      s.stores = [] → s.poisoned = [] →
      (s.canApply team a l = false → exec (.atomicApply team n) s = .next s) ∧
      (s.canApply team a l = true → ∃ t, exec (.atomicApply team n) s = .next t ∧
        t.mem = s.mem.writeLE l.pa a.bytes (a.result l (s.mem.readLE l.pa a.bytes)) ∧ others t ∧
        ({ t with mem := s.mem, teams := s.teams } : State) = s ∧ (t.teamOf team).regs = u.regs ∧
        ((∃ o ∈ a.todo, o.lane ≠ l.lane) → (t.teamOf team).atoms = u.atoms.map fun (b : Atom) => if b.id = a.id then
          { a with todo := a.todo.filter (fun o => o.lane != l.lane),
                   results := a.results ++ [(l.lane, BitVec.ofNat 64 (s.mem.readLE l.pa a.bytes))] } else b) ∧
        ((∀ o ∈ a.todo, o.lane = l.lane) → (t.teamOf team).atoms = u.atoms.filter fun b => b.id != a.id)))

/-- LINE_FILL, REBREW_SLOT_START, COPY_LINE and INSTRUCTION_FETCH (R173, R187, R197, R218, R219, R342 to R344, R401): a missing
tile is gathered or brewed, or its fault is raised; a slot starts with its recipe's registers; a copy writes its next line, or
stops with a fault; a missing line of code arrives, from memory when the die's shared level does not hold it. -/
def Obligations.Fills : Prop :=
  ∀ (s : State) (team n core : Nat) (name : TileName) (d : Desc) (bs : List Byte) (f : FillFault) (r : Recipe) (x : TileLine)
    (q : BrewReq) (c : Copy) (off len pa va : Nat) (rest : List (Nat × Nat)),
    let u := s.teamOf team
    let l := s.launchOf u.launch
    let others (t : State) : Prop := ∀ i, i ≠ team → t.teamOf i = s.teamOf i
    let tilesBut (t : State) : Prop := ∀ m, m ≠ name → t.tileAt? m = s.tileAt? m
    let a := s.at team
    let bytes := if d.compressed then a.expandTile l.ctx d name else a.gatherTile l.ctx d name
    (u.wait = .tile name → s.tileOwned name (some (team, s.seq)) = false → a.dropsTile team name = false →
      a.desc l.ctx name.tensor = .ok d →
      (d.recomputable = false → s.tileLine name = none →
        (bytes = .ok bs → ∃ t, exec (.lineFill team) s = .next t ∧
          ({ t with tiles := s.tiles, tlbs := s.tlbs, cur := s.cur } : State) = s ∧ tilesBut t ∧
          ∃ y, t.tileAt? name = some y ∧ y.state = .present ∧ y.words = lineWords bs ∧ y.dirty = false) ∧
        (bytes = .error f → exec (.lineFill team) s = .next
          (a.setTeamOf team { u with wait := .none, due := some { cause := f.1, lanes := u.exec, detail := f.2 } }))) ∧
      (d.recomputable = true → u.rebrew = none → a.recipe l.ctx name.tensor d = some r → a.withMap l.ctx d r name = some x →
        x.state = .absent → x.map = false → name.tensor ∈ l.priced → x.name = name → 1 ≤ r.depth →
        ∃ t, exec (.lineFill team) s = .next t ∧ others t ∧ t.teamOf team = { u with wait := .brewing name } ∧
          t.brews = s.brews ++ [{ ctx := l.ctx, launch := u.launch, name := name, level := 1, depth := r.depth,
                                  core := u.core, running := false }] ∧
          t.tileAt? name = some { x with state := .brewing } ∧ tilesBut t)) ∧
    (s.nextBrew core = none → exec (.rebrewSlotStart core) s = .next s) ∧
    (s.nextBrew core = some q → s.recipeOf q.ctx q.name.tensor = some r → s.isHeader q.ctx r.entry = true →
      ∃ t, exec (.rebrewSlotStart core) s = .next t ∧ t.mem = s.mem ∧ (∀ i, i ≠ s.newTeam → t.teamOf i = s.teamOf i) ∧
        let v := t.teamOf s.newTeam
        v.status = .live ∧ v.launch = q.launch ∧ v.pc = BitVec.ofNat 48 r.entry ∧ v.tsize = 64 ∧ v.exec = allLanes 64 ∧
          v.k0 = allLanes 64 ∧ v.held = 1 ∧ v.ntile = r.tiles ∧ v.fm = 0 ∧ v.cc = 0 ∧ v.stack = [] ∧
          v.getS 1 = BitVec.ofNat 64 q.name.row ∧ v.getS 2 = BitVec.ofNat 64 q.name.col ∧
          v.getS 3 = BitVec.ofNat 64 q.name.tensor ∧ v.getS 4 = BitVec.ofNat 64 q.level ∧ v.getS 7 = 0 ∧
          ∃ z, v.rebrew = some z ∧ z.level = q.level ∧ z.name = q.name ∧ z.cyc = r.cyc ∧ z.nj = r.nj) ∧
    (u.copies.find? (fun o => o.id = n / 4 ∧ s.copyRank o = n % 4) = some c → c.fault = none → c.kind = .bytes false false →
      c.left = (off, len) :: rest → (∀ x ∈ s.stores, x.team = team → c.id ≤ x.id) →
      (s.pieceFault u c off len = some f → ∃ t, exec (.copyLine team n) s = .next t ∧
        ({ t with teams := s.teams } : State) = s ∧ others t ∧
        (t.teamOf team).copies = u.copies.map fun (o : Copy) => if o.id = c.id ∧ o.targets = c.targets then
          { c with fault := some f, brewing := false, owned := if f.2.translation then c.owned else c.done } else o) ∧
      (s.pieceFault u c off len = none →
        (s.pieceBusy team c off len = true → exec (.copyLine team n) s = .next s) ∧
        (s.pieceBusy team c off len = false → s.poisoned = [] → s.dstPlace u c off = some (.lin pa) →
          ∃ t, exec (.copyLine team n) s = .next t ∧ t.mem = s.mem.writeBytes pa (s.pieceData team c off len) ∧
            ({ t with mem := s.mem, teams := s.teams } : State) = s ∧ others t ∧ (t.teamOf team).regs = u.regs ∧
            (c.done + len ≠ c.count → (t.teamOf team).copies = u.copies.map fun (o : Copy) =>
              if o.id = c.id ∧ o.targets = c.targets then
                { c with done := c.done + len, owned := max c.owned (c.done + len) } else o) ∧
            (c.done + len = c.count → (t.teamOf team).copies = u.copies.filter fun o =>
              !(o.id == c.id && o.targets == c.targets))))) ∧
    (u.wait = .fetch va → s.poisoned = [] →
      (s.translateOn (some u.pipe) l.ctx (va / 128 * 128) .exec = .ok pa → ∃ t, exec (.instructionFetch team) s = .next t ∧
        ({ t with teams := s.teams, icache := s.icache, codeLevel := s.codeLevel, tlbs := s.tlbs, fresh := s.fresh } : State) = s ∧
        others t ∧ t.teamOf team = { u with wait := .none, stamp := s.seq } ∧
        ∃ k ∈ t.icache, k.core = u.core ∧ k.va = va / 128 * 128 ∧ k.asid = s.asid l.ctx ∧
          ((∀ x ∈ s.codeLevel, ¬ (x.die = u.core / 48 ∧ x.pa = pa)) →
            k.words = (List.range 32).map fun i => BitVec.ofNat 32 (s.mem.readLE (pa + 4 * i) 4))))

/-- The reports that a release waits for, and the timers and limits (R242, R243, R275, R302, R320, R331, R346, R351, R383, R384):
each does nothing before its time; then WAIT, TIMER, TRIP or RDEPTH is raised in the team concerned, the launch that waits for a
peer in vain ends, and a quote lapses. That a cwait on a child which has no record blames the caller while the child is within its
bound, and the machine beyond it, is the model's reading (log 29). -/
def Obligations.Limits : Prop :=
  ∀ (s : State) (team peer die level n child id : Nat) (d : SReg) (k : Int) (price : Nat) (e : Entry) (r : RebrewSlot),
    let u := s.teamOf team
    let l := s.launchOf u.launch
    let c := s.launchOf child
    let q := s.launchOf id
    let traps (i : Instr) (s0 : State) (cause : Cause) (det : Detail) : Prop :=
      exec i s = .next (((s0.at team).takeTrap cause 0 det).at s.cur)
    let idle (i : Instr) : Prop := exec i s = .next s
    let fails (i : Instr) (p : Detail → Prop) : Prop := ∃ t, exec i s = .next t ∧
      (∀ v z, (s.teamOf v).status = .live → (s.teamOf v).rebrew = some z → z.server = r.server →
        (t.teamOf v).status = .stopped) ∧
      (∀ v m, (s.teamOf v).status = .live → (s.teamOf v).rebrew = none → (s.teamOf v).wait = .brewing m →
        (∃ b ∈ s.brews, b.core = r.server ∧ b.name = m ∧ b.running = true) →
        (t.teamOf v).wait = .none ∧ ∃ det, (t.teamOf v).due = some { cause := .rdepth, lanes := (s.teamOf v).exec, detail := det } ∧ p det) ∧
      ∀ b ∈ t.brews, ¬ (b.core = r.server ∧ b.running = true)
    let reported (x : Release) : Release :=
      if s.dieDone team x.id die then { x with dies := x.dies.filter (· != die) } else x
    let answered (x : Release) : Release := { x with peers := x.peers.filter (· != peer) }
    (exec (.flushMarkerReport team die) s = .next (s.setTeamOf team { u with rels := u.rels.map reported }) ∧
      exec (.peerReport team peer) s = .next (s.setTeamOf team { u with rels := u.rels.map answered })) ∧
    (l.phase = .live →
      (l.peerLate = false → (∃ x ∈ u.rels, peer ∈ x.peers ∧ l.peerNs < x.age) →
        ∃ t, exec (.peerlate team peer) s = .next t ∧ (t.launchOf u.launch).peerLate = true ∧
          (t.launchOf u.launch).phase = .live ∧ ∃ b ∈ (t.launchOf u.launch).breaches, b.cause = .peerlate ∧ b.party = .peer) ∧
      ((∀ x ∈ u.rels, peer ∈ x.peers → x.age ≤ l.peerNs) → idle (.peerlate team peer)) ∧
      ((∃ x ∈ u.rels, peer ∈ x.peers) → s.cycleTraps = none → ∃ t, exec (.peerfail team peer) s = .next t ∧ (t.launchOf u.launch).phase = .done ∧
        ∃ b ∈ (t.launchOf u.launch).breaches, b.cause = .peerfail ∧ b.party = .peer) ∧
      ((∀ x ∈ u.rels, peer ∉ x.peers) → idle (.peerfail team peer))) ∧
    (u.waited < u.timeout → idle (.barrierTimeout team) ∧ idle (.batchWaitTimeout team) ∧ idle (.cwaitTimeout team)) ∧
    (u.timeout ≤ u.waited → u.status = .live →
      (u.wait = .barrier level n → let b := s.barrier team level n
        traps (.barrierTimeout team) (s.setBarrier team level n { b with waiters := b.waiters.filter (· != team) }) .wait {}) ∧
      (u.wait = .batchC k price →
        (u.coveredCopies k = [] ∨ (∃ x ∈ u.coveredCopies k, x.fault ≠ none) → idle (.batchWaitTimeout team)) ∧
        (u.coveredCopies k ≠ [] → (∀ x ∈ u.coveredCopies k, x.fault = none) →
          (price ≤ u.timeout → traps (.batchWaitTimeout team) s .wait { party := .machine, record := some .englate }) ∧
          (u.timeout < price → traps (.batchWaitTimeout team) s .wait {}))) ∧
      (u.wait = .batchM k price →
        (u.coveredItems k = [] → idle (.batchWaitTimeout team)) ∧
        (u.coveredItems k ≠ [] →
          (price ≤ u.timeout → traps (.batchWaitTimeout team) s .wait { party := .machine, record := some .englate }) ∧
          (u.timeout < price → traps (.batchWaitTimeout team) s .wait {}))) ∧
      (u.wait = .child child d →
        (c.completion ≠ none → idle (.cwaitTimeout team)) ∧
        (c.completion = none → c.breaches = [] →
          (s.ns - c.accepted ≤ c.fig.tq + c.handlerNs → traps (.cwaitTimeout team) s .wait { party := .caller }) ∧
          (c.fig.tq + c.handlerNs < s.ns - c.accepted → traps (.cwaitTimeout team) s .wait { party := .machine })))) ∧
    (u.status = .live → u.timerArmed = true → u.tdue ≤ u.tmr →
      exec (.timerDue team) s = .next (s.setTeamOf team { u with timerArmed := false, timerDue := true })) ∧
    (u.timerArmed = false ∨ u.tmr < u.tdue → idle (.timerDue team)) ∧
    (u.status = .live → u.wait = .none →
      (u.timerDue = true → u.inHandler = false → u.inv = none → u.rep = none → u.timeout = 0 →
        traps (.timer team) (s.setTeamOf team { u with timerDue := false }) .timer {}) ∧
      (u.timerDue = false ∨ u.inHandler = true → idle (.timer team)) ∧
      (u.hcount < 256 → idle (.userHandlerLimit team)) ∧
      (256 ≤ u.hcount → u.spilled = [] → u.stack.find? (fun x => x.kind == .trap) = some e →
        (e.term = true → s.cycleTraps = none → ∃ t, exec (.userHandlerLimit team) s = .next t ∧ (t.launchOf u.launch).phase = .done) ∧
        (e.term = false → traps (.userHandlerLimit team) s .trip {}))) ∧
    (u.rebrew = some r → u.status = .live →
      (0 < r.cyc → idle (.sliceCycOverrun team)) ∧ (u.energy ≤ 10000 * r.nj → idle (.sliceNjOverrun team)) ∧
      (r.cyc = 0 → fails (.sliceCycOverrun team) fun x => x.costOver = true) ∧
      (10000 * r.nj < u.energy → fails (.sliceNjOverrun team) fun x => x.energyOver = true)) ∧
    (q.phase = .open → q.parent = none →
      (s.ns ≤ q.fig.expiry → idle (.quoteLapse id)) ∧
      (q.fig.expiry < s.ns → ∃ t, exec (.quoteLapse id) s = .next t ∧
        t.launchOf id = { q with phase := .lapsed, pieces := [], fig := { q.fig with status := 2, state := 2 } }))

/-- The scheduler and the privileged handler (R27, R41, R58, R186, R263, R264, R271, R280, R281, R365, R368, R386): a placed
block's teams as they begin, the retirement of a team with its block, a launch's completion word, the emergency block, the
handler's return, an illegal word, and the end of an invalidation's hold. -/
def Obligations.Lifecycle : Prop :=
  ∀ (s : State) (id team core va share before : Nat) (mask : BitVec 3) (slots : List Nat) (e : PrivEntry),
    let l := s.launchOf id
    let k := s.kernelOf l
    let u := s.teamOf team
    let idle (i : Instr) : Prop := exec i s = .next s
    let others (t : State) : Prop := ∀ i, i ≠ team → t.teamOf i = s.teamOf i
    (l.phase ≠ .live ∨ l.gridBlocks ≤ l.nextBlock ∨ l.saving = true ∨ l.withdrawn = true → idle (.placeBlock id)) ∧
    (l.phase = .live → l.ending = none → l.saving = false → l.withdrawn = false → l.nextBlock < l.gridBlocks →
      (s.nextCores id = none → exec (.placeBlock id) s = .next { s with fresh := s.fresh + 1 }) ∧
      (s.nextCores id = some [core] → s.pickSlots core (k.tsize / 64) (s.unplaced core (some id)) k.tpb = some slots → s.freeShare id = some share →
        ∃ t, exec (.placeBlock id) s = .next t ∧ t.mem = s.mem ∧ (t.launchOf id).nextBlock = l.nextBlock + 1 ∧
          (let b := t.blockOf s.newBlock
           b.launch = id ∧ b.index = l.nextBlock ∧ b.core = core ∧ b.imageVa = share ∧ b.stashKiB = k.stashKiB ∧
             b.coord = (l.nextBlock % l.grid.1, l.nextBlock / l.grid.1 % l.grid.2.1, l.nextBlock / (l.grid.1 * l.grid.2.1)) ∧
             b.teams = (List.range slots.length).map (s.newTeam + ·) ∧ b.stash = [] ∧ b.retired = false) ∧
          (∀ i, i < s.newTeam ∨ s.newTeam + slots.length ≤ i → t.teamOf i = s.teamOf i) ∧
          ∀ j slot, slots[j]? = some slot →
            let v := t.teamOf (s.newTeam + j)
            v.status = .live ∧ v.launch = id ∧ v.block = s.newBlock ∧ v.core = core ∧ v.slot = slot ∧ v.tsize = k.tsize ∧
              v.index = j ∧ v.exec = allLanes k.tsize ∧ v.k0 = allLanes k.tsize ∧ v.held = 1 ∧ v.ntile = k.tiles ∧
              v.cc = 0 ∧ v.fm = 0 ∧ v.getS 1 = l.args ∧ v.getS 2 = BitVec.ofNat 64 l.dataVa ∧ v.getS 3 = 0 ∧
              v.getS 62 = BitVec.ofNat 64 k.privBytes ∧ v.pc = BitVec.ofNat 48 (s.entryVa l) ∧ v.stack = [] ∧ v.pend = [])) ∧
    (u.finished = false → u.status ≠ .retired → idle (.teamRetire team)) ∧
    (u.finished = true → ∃ t, exec (.teamRetire team) s = .next t ∧ (t.teamOf team).status = .retired ∧
      (t.teamOf team).pend = [] ∧ (t.teamOf team).privMem = [] ∧ (t.teamOf team).stack = [] ∧
      ((s.blockOf u.block).teams = [team] → (s.blockOf u.block).retired = false → s.stores = [] →
        (t.blockOf u.block).retired = true ∧ (t.blockOf u.block).stash = [] ∧
        (t.launchOf (s.blockOf u.block).launch).retiredBlocks = (s.launchOf (s.blockOf u.block).launch).retiredBlocks + 1)) ∧
    (s.allRetired id = false ∨ s.heldBack id = true → idle (.launchComplete id)) ∧
    (s.allRetired id = true → s.heldBack id = false → ∃ t, exec (.launchComplete id) s = .next t ∧ (t.launchOf id).phase = .done ∧
      (t.launchOf id).completion ≠ none ∧ (∀ w ∈ t.stores, w.launch ≠ id) ∧
      (l.ending = none → (s.drainStores id).2 = true → l.breaches = [] → l.thermalCut = false → s.isLate l = false → s.isOver l = false →
        (t.launchOf id).completion = some (BitVec.ofNat 64 (id % 2 ^ 32 * 2 ^ 32)) ∧ (t.launchOf id).breaches = [])) ∧
    (s.emergency.find? core ≠ none ∨ s.claimant core = none → idle (.emergencyBlockGrant core)) ∧
    (s.emergency.find? core = none → s.claimant core = some team → u.privEntry = some e →
      ∃ t, exec (.emergencyBlockGrant core) s = .next t ∧ others t ∧ t.emergency.find? core = some team ∧
        t.teamOf team = { u with privEntry := some { e with needsBlock := false } }) ∧
    (u.privEntry = some e → u.wait = .handler → u.status = .live →
      (e.needsBlock = true → idle (.privHandlerReturn team)) ∧
      (e.needsBlock = false →
        (e.cause = .page ∨ e.cause = .prot → e.detail.walk = some (va, mask) → e.detail.copy = none →
          (s.at team).nowAllowed va mask = true → ∃ t, exec (.privHandlerReturn team) s = .next t ∧ others t ∧
            ({ t with teams := s.teams, tlbs := s.tlbs, emergency := s.emergency } : State) = s ∧
            t.teamOf team = { u.setExec (e.mask &&& u.k0) with privEntry := none, wait := .none, stamp := s.seq } ∧
            (s.emergency.find? u.core = some team → t.emergency.find? u.core ≠ some team)) ∧
        (e.cause = .page ∨ e.cause = .prot → e.detail.walk = some (va, mask) → (s.at team).nowAllowed va mask = false →
          (s.launchOf u.launch).pins.any (·.pagesHold va) = false → (s.at team).CanEnter → u.inTerminal = false →
          ∃ t, exec (.privHandlerReturn team) s = .next t ∧ (t.teamOf team).pc = BitVec.ofNat 48 (s.launchOf u.launch).entry.uhand ∧
            (t.teamOf team).privEntry = none ∧ ∃ x : Entry, (t.teamOf team).stack = x :: u.stack ∧ x.kind = .trap ∧
              x.cause = some e.cause ∧ x.fwd = true ∧ x.aux = e.lanes ∧ x.rpc = e.rpc ∧ x.at_ = e.at_) ∧
        (e.cause = .mchk → s.cycleTraps = none → ∃ t, exec (.privHandlerReturn team) s = .next t ∧ (t.launchOf u.launch).phase = .done))) ∧
    exec (.illegalWord team) s = .next (((s.at team).takeTrap .illegal 0).at s.cur) ∧
    (u.wait = .tlbi before → u.status = .live →
      (s.usersDone before = false → idle (.tlbiDone team)) ∧
      (s.usersDone before = true → exec (.tlbiDone team) s = .next
        (s.setTeamOf team (({ u with wait := .none } : Team).advance s.seq u.afterWords u.afterSw))))

/-- The device (R157, R181, R311, R323, R325, R370, R374, R393 to R395): costs rise and PLAN counts it; a throttle level beyond
its limit begins an emergency, and one within it ends it; an error is logged and has the outcome of its unit; a reset leaves
memory, fences and poison, and answers the waiting flush markers with FAILED; a lower operating point and a new stash split take
effect once nothing needs the old. The model's own readings: a lasting error of a link is logged and no more (log 48), a reset keeps
memory, poison and fences (log 49), a level within the limit ends an emergency (log 50). -/
def Obligations.DeviceEvents : Prop :=
  ∀ (s s1 : State) (c : CostTable) (level : BitVec 4) (e : ErrorReport) (core : Nat),
    let r := s.sys
    let place := e.location.toNat
    let errors : SysRegs := { r with
      errrec0 := BitVec.ofNat 64 ((if e.soft then 0 else 2 ^ 63) + unitCode e.unit * 2 ^ 56 + place * 2 ^ 48 + s.ns % 2 ^ 48),
      errrec1 := BitVec.setWidth 64 e.addr, softErrors := if e.soft then r.softErrors + 1 else r.softErrors,
      lastingErrors := if e.soft then r.lastingErrors else r.lastingErrors + 1 }
    let ctx := bits r.areport.toNat 15 4
    let va := bits r.areport.toNat 63 16
    let zeros := List.replicate 32 (0 : Byte)
    (∃ t, exec (.costReplan c) s = .next t ∧ ({ t with sys := r } : State) = s ∧ t.sys.plan = r.plan + 1 ∧
      ∀ f ∈ ([(·.hbm), (·.ll), (·.l1), (·.stash), (·.mstart), (·.mstep), (·.trans), (·.alu), (·.e0), (·.e1), (·.e2), (·.e3),
          (·.e4), (·.e5), (·.e6), (·.mmae), (·.tsae), (·.stat)] : List (CostTable → BitVec 16)),
        (f t.sys.costs).toNat = max (f r.costs).toNat (f c).toNat) ∧
    (s.throttleLimit < level.toNat → ∃ t, exec (.thermalEmergency level) s = .next t ∧ t.sys = { r with throt := level } ∧
      t.thermal = true ∧ t.mem = s.mem ∧ t.teams = s.teams) ∧
    (level.toNat ≤ s.throttleLimit →
      (s.thermal = false → exec (.thermalEmergency level) s = .next { s with sys := { r with throt := level } }) ∧
      (s.thermal = true → exec (.thermalEmergency level) s = exec (.thermalEnd level) s)) ∧
    (s.throttleLimit < level.toNat → exec (.thermalEnd level) s = .next s) ∧
    (level.toNat ≤ s.throttleLimit → ∃ t, exec (.thermalEnd level) s = .next t ∧ t.sys = { r with throt := level } ∧
      t.thermal = false ∧ (∀ p, (t.rounds.find? p).all (fun x => x.yielding == 0) = true) ∧
      ∀ id, (s.launchOf id).phase = .live → (s.launchOf id).thermalCut = true → (t.launchOf id).thermalCut = false ∧
        ∃ b ∈ (t.launchOf id).breaches, b.cause = .thermal ∧ b.party = .machine) ∧
    (e.soft = true ∨ e.unit = .link → exec (.errorDetected e) s = .next { s with sys := errors }) ∧
    (e.soft = false →
      (e.unit = .pipe ∨ e.unit = .matrix ∨ e.unit = .ternary → place < 192 → ∃ t, exec (.errorDetected e) s = .next t ∧
        t.sys = errors ∧ t.quotingPaused = true ∧ (∀ i, t.fenced.getLsbD i = (s.fenced.getLsbD i || decide (i = place))) ∧
        ∀ v, (s.teamOf v).status = .live → (s.teamOf v).core = place → (s.teamOf v).rebrew = none →
          (s.launchOf (s.teamOf v).launch).phase = .live → (t.launchOf (s.teamOf v).launch).phase = .done) ∧
      (e.unit = .slice ∨ e.unit = .hbm → ∃ t, exec (.errorDetected e) s = .next t ∧ t.sys = errors ∧ t.mem = s.mem ∧
        t.teams = s.teams ∧ t.launches = s.launches ∧
        (e.tile = none → ∀ x, x ∈ t.poisoned ↔ x = e.addr.toNat / 512 ∨ x ∈ s.poisoned) ∧
        ∀ a b c y, e.tile = some (a, b, c) → s.tileLine ⟨a, b, c⟩ = some y → ∃ z, t.tileAt? ⟨a, b, c⟩ = some z ∧
          (y.recomputable = true → z.state = .absent) ∧ (y.recomputable = false → z = { y with poisoned := true })) ∧
      (e.unit = .frontCore → place < 4 → ∃ t, exec (.errorDetected e) s = .next t ∧ t.sys = errors ∧
        place ∈ t.haltedFronts ∧ (∀ i, i < 32 → t.streamErr (32 * place + i) = 6) ∧
        ∀ id ring, (s.launchOf id).phase = .live → (s.launchOf id).ring = some ring → ring.stream / 32 = place →
          (t.launchOf id).phase = .done)) ∧
    exec .quotingResume s = .next { s with quotingPaused := false } ∧
    (∃ t, exec .deviceReset s = .next t ∧ t.fenced = s.fenced ∧ t.poisoned = s.poisoned ∧ t.agenda = s.agenda ∧
      ({ t with mem := State.reset.mem, fenced := State.reset.fenced, poisoned := [], seq := State.reset.seq,
                fresh := State.reset.fresh, agenda := State.reset.agenda, hostWrites := [], replies := [] } : State) =
        State.reset ∧ (∀ p ∈ s.markers, Reply.failed p ∈ t.replies) ∧
      ((∀ x ∈ s.launches, x.2.phase ≠ .live) → t.mem = s.mem)) ∧
    (r.oppPending = false → exec .oppLoweringApply s = .next s) ∧
    ((∃ x ∈ s.launches, x.2.phase = .live ∧ x.2.fig.opp < r.oppAsked) → exec .oppLoweringApply s = .next s) ∧
    (r.oppPending = true → (∀ x ∈ s.launches, ¬ (x.2.phase = .live ∧ x.2.fig.opp < r.oppAsked)) →
      exec .oppLoweringApply s = .next { s with sys := { r with opp := r.oppAsked, oppPending := false } }) ∧
    ((∃ x ∈ s.blocks, x.2.core = core ∧ x.2.retired = false ∧ x.2.saved = false) → exec (.stashcfgApply core) s = .next s) ∧
    (core < 192 → s.stores = [] → (∀ x ∈ s.blocks, ¬ (x.2.core = core ∧ x.2.retired = false ∧ x.2.saved = false)) →
      ((s.launches.filter fun x => (x.2.phase == .open || x.2.phase == .live) && x.2.parent.isNone && x.2.coreList.contains core).map
        fun x => x.2.fig.stashk).sum ≤ 128 * r.stashcfg.toNat →
      exec (.stashcfgApply core) s = .next { s with stashSplit := s.stashSplit.set core r.stashcfg.toNat }) ∧
    (r.astat ≠ 1 → exec .attestReportDone s = .next s) ∧
    (r.astat = 1 → r.ahandle = 0 →
      (s.writeVirt ctx va (s.report zeros) = some s1 →
        exec .attestReportDone s = .next { s1 with sys := { s1.sys with astat := 2 } }) ∧
      (s.writeVirt ctx va (s.report zeros) = none →
        exec .attestReportDone s = .next { s with sys := { r with astat := 3 } }))


/-! The whole machine. -/

/-- Words written out from the tables of chapter 3 (R33, R62 to R76) read as what they stand for, one or more of each family of
the opcode map, and unassigned opcodes and function values, fields out of range and reserved header values are refused
(R26, R28, R34, R38, R58). -/
def Obligations.DecodeWords : Prop :=
  decode 0x020C4140 [] = .ok (.instr (.sdiv false 3 4 5)) ∧
  decode 0x0C100064 [] = .ok (.instr (.smovi false 4 (.field 100))) ∧
  decode 0x1528B30D [] = .ok (.instr (.vdot4 false 10 11 12 13)) ∧
  decode 0x17044158 [] = .ok (.instr (.vcmpEq false 1 4 5 3)) ∧
  decode 0x230420C4 [] = .ok (.instr (.fma false 1 2 3 4)) ∧
  decode 0x2A146001 [] = .ok (.instr (.froundRz false 5 6)) ∧
  decode 0x38083101 [] = .ok (.instr (.shflXor false 2 3 4 0)) ∧
  decode 0x3A146000 [] = .ok (.instr (.rdcAdd false 5 6 0)) ∧
  decode 0x30146100 [] = .ok (.instr (.cvt false 5 6 1 0)) ∧
  decode 0x330C4807 [] = .ok (.instr (.unpack false 3 4 8 7)) ∧ decode 0x330C4304 [] = .error .field ∧
  decode 0x3F040028 [] = .ok (.instr (.kset false 1 40)) ∧
  decode 0x4008312D [] = .ok (.instr (.ld false 2 3 4 2 3 true)) ∧
  decode 0x46105187 [] = .ok (.instr (.tld false 4 5 6 7)) ∧
  decode 0x48001083 [] = .ok (.instr (.smap false 1 2 3)) ∧
  decode 0x5108312E [] = .ok (.instr (.amoFadd false 2 3 4 2)) ∧
  decode 0x52203133 [] = .ok (.instr (.amocas false 8 3 4 true 3)) ∧
  decode 0x55000012 [] = .ok (.instr (.fen false 4 2)) ∧
  decode 0x56000000 [] = .ok (.instr (.ifen false)) ∧
  decode 0x580420C4 [] = .ok (.instr (.cpy false false true 2 3 4)) ∧
  decode 0x5A0420C4 [] = .ok (.instr (.cpytSt false 2 3 4)) ∧
  decode 0x5C005001 [100] = .ok (.instr (.bwtM false 5 100)) ∧
  decode 0x60640B00 [] = .ok (.instr (.mmaBf16 false 3 8 5 true)) ∧
  decode 0x62240404 [0x23FFC000] = .ok (.instr (.mmlF8 false 1 8 2 false 4 8 0xFFF)) ∧
  decode 0x67480003 [] = .ok (.instr (.zcvt false 2 16)) ∧
  decode 0x6C140003 [10, 0x10010800] = .ok (.instr (.lpb false 5 3 10 0x10010800)) ∧
  decode 0x70000A01 [50] = .ok (.instr (.barSync false 2 1 50)) ∧
  decode 0x74000003 [] = .ok (.instr (.racq false 3)) ∧
  decode 0x77041083 [] = .ok (.instr (.rdrop false 1 2 3)) ∧
  decode 0x7E1DB000 [] = .ok (.instr (.rep 7 1 2 3 0)) ∧
  decode 0x7E105195 [0x1C820000] = .ok (.inv 4 5 6 10 true 7 8 2) ∧
  decode 0x6F000000 [] = .ok (.instr (.exit false)) ∧
  decode 0xEF000000 [] = .ok (.instr (.exit true)) ∧
  decode 0x78020000 [] = .ok (.instr (.tret false)) ∧
  (∀ op : BitVec 7, unassigned op.toNat = true → ∀ (x : BitVec 24) (sw : Bool) ls,
    decode (BitVec.ofBool sw ++ op ++ x) ls = .error .opcode) ∧
  decode 0x78030000 [] = .error .function ∧ decode 0x78020001 [] = .error .field ∧
  decodeHeader 0x5C000000 = some { n := 5, cls := 6, wait := 0, lmap := 0 } ∧ decodeHeader 0x0C000000 = none ∧
  decodeHeader 0x5E000000 = none ∧ decodeHeader 0x5C000001 = none

/-- Every instruction of the stream that the encoding tables admit, with every operand at every value they admit, is read back
from the words that encode it (R33, R60, R62 to R76). -/
def Obligations.DecodeEncode : Prop :=
  ∀ i, WellFormed i = true → isStep i = false →
    ∃ w ls d, encode i = w :: ls ∧ decode w ls = .ok d ∧ d.names i = true

/-- Whatever words are accepted as an instruction are within the encoding tables, and are the words that encode it: no bit of
them is passed over (R34, R38, R58). The words of an inv are read to a form of their own, and the same holds of them (R37). -/
def Obligations.DecodeSound : Prop :=
  (∀ w ls i, decode w ls = .ok (.instr i) → WellFormed i = true ∧ isStep i = false ∧ encode i <+: w :: ls) ∧
  ∀ w ls t lo hi tol dir x y len, decode w ls = .ok (.inv t lo hi tol dir x y len) →
    let i : Instr := .inv t lo hi tol dir x y len
    WellFormed i = true ∧ isStep i = false ∧ encode i <+: w :: ls

/-- A step whose agenda names the issue of a team, live, ready and chosen by its pipe, with no fault to raise, no handler over
its limit and no run of a prefix under way, runs the instruction that the word at its PC decodes to; the word's counts, issue
cycles and energy are settled after it, and what then comes about does (R25 to R32, R43 to R45, R58, R276 to R278). A timer that is
due is taken instead, unless the word traps (R302, R303). At a clause header whose wait is met, the clause's first word issues in
the same step, which is the model's choice (log 58). An empty agenda leaves the machine as it is (log 1). -/
def Obligations.StepRunsDecoded : Prop :=
  ∀ (s : State) (id : Nat) (rest : List Act) (i : Instr) (w : Word),
    let r := (s.takeUp rest).at id
    let u := r.team
    let run := fun (q : State) => match exec i q with
      | .next t =>
        if q.team.takesTimer = true ∧ q.team.trapped (t.teamOf q.cur) = false ∧ t.cycleTraps = q.cycleTraps then
          settled (exec (.timer q.cur) q)
        else .next (t.settleIssue q (.instr i) w).comeAbout
      | .fault f => .fault f
      | .refused f => .refused f
    (s.agenda = [] → step s = .next s) ∧
    (s.agenda = .issue id :: rest → u.status = TeamStatus.live → u.wait = .none → r.scheduledOn u.pipe = some id →
      u.due = none → (∀ v, u.inv = some v → v.begun = true ∧ v.pos < v.len) → u.overHandler = false → u.rep = none →
      (r.isHeader r.ctx u.pc.toNat = false → r.holdsCode u.pc.toNat = true → r.code u.pc.toNat = some w →
        r.misplaced u.pc.toNat w = false → decode w (r.litsAt u.pc.toNat) = .ok (.instr i) → step s = run r) ∧
      ∀ hd, r.isHeader r.ctx u.pc.toNat = true → r.holdsCode u.pc.toNat = true →
        (r.code u.pc.toNat).bind decodeHeader = some hd → r.clauseMet hd.wait = true →
        (hd.wait.getLsbD 2 = false ∨ faultOf u.copies = none) → u.privEntry = none →
        let q := r.enterClause hd.wait
        q.holdsCode q.team.pc.toNat = true → q.code q.team.pc.toNat = some w → q.misplaced q.team.pc.toNat w = false →
        decode w (q.litsAt q.team.pc.toNat) = .ok (.instr i) → step s = run q)

/-- What R39, R310, R363 and R394 say of the machine right after reset: device time is 0, the cost table, the budget, the
operating point and the stash setting have their reset values, nothing has been rejected, counted or logged, no endpoint is
named, TLBINV reads as 0, and DEVID names the part. (That no core is fenced and that memory lists nothing is the model's own
choice: logs 3 and 4.) -/
def Obligations.ResetState : Prop :=
  let s := State.reset
  s.ns = 0 ∧ s.teams = [] ∧ s.launches = [] ∧
  s.sysRead 0x010 = some 0x0960019000280018 ∧ s.sysRead 0x011 = some 0x00100004000C0004 ∧
  s.sysRead 0x012 = some 0x003C001E00140005 ∧ s.sysRead 0x013 = some 0x0000177001900050 ∧
  s.sysRead 0x014 = some 0x0708038403200000 ∧ s.sysRead 0x020 = some 1900 ∧ s.sysRead 0x021 = some 0 ∧
  s.sysRead 0x023 = some 4 ∧ s.sysRead 0x001 = some 0 ∧ s.sysRead 0x002 = some 0 ∧ s.sysRead 0x024 = some 0 ∧
  s.sysRead 0x108 = some 0 ∧ s.sysRead 0x109 = some 0 ∧ s.sysRead 0x10A = some 0 ∧
  (∃ x, s.sysRead 0x000 = some x ∧ BitVec.extractLsb' 24 40 x = 0x5A39019241) ∧
  s.mem = [] ∧ s.fenced = 0 ∧ s.MemoryWf

/-- Every step keeps device memory, the two tables and every block's stash in canonical form. -/
def Obligations.StepKeepsMemoryWf : Prop :=
  ∀ s t, s.MemoryWf → step s = .next t → t.MemoryWf

/-- No instruction stops the machine: each answers a next state in every state, and so does every step. -/
def Obligations.NeverStops : Prop :=
  (∀ i s, ∃ t, exec i s = .next t) ∧ ∀ s, ∃ t, step s = .next t
end

