-- ==== Sys2Proof/Laws/Exec.lean ====
section
/-! SUPPORT. The arm of every instruction: what `exec` does with it is its meaning. -/
namespace Sys2Proof.Machine

@[simp] theorem exec_sadd (sw d a b s) : exec (.sadd sw d a b) s = execSadd sw d a b s := rfl
@[simp] theorem exec_ssub (sw d a b s) : exec (.ssub sw d a b) s = execSsub sw d a b s := rfl
@[simp] theorem exec_smul (sw d a b s) : exec (.smul sw d a b) s = execSmul sw d a b s := rfl
@[simp] theorem exec_smulh (sw d a b s) : exec (.smulh sw d a b) s = execSmulh sw d a b s := rfl
@[simp] theorem exec_smulhU (sw d a b s) : exec (.smulhU sw d a b) s = execSmulhU sw d a b s := rfl
@[simp] theorem exec_scmp (sw a b s) : exec (.scmp sw a b) s = execScmp sw a b s := rfl
@[simp] theorem exec_saddImm (sw d a imm s) : exec (.saddImm sw d a imm) s = execSaddImm sw d a imm s := rfl
@[simp] theorem exec_sdiv (sw d a b s) : exec (.sdiv sw d a b) s = execSdiv sw d a b s := rfl
@[simp] theorem exec_sdivU (sw d a b s) : exec (.sdivU sw d a b) s = execSdivU sw d a b s := rfl
@[simp] theorem exec_srem (sw d a b s) : exec (.srem sw d a b) s = execSrem sw d a b s := rfl
@[simp] theorem exec_sremU (sw d a b s) : exec (.sremU sw d a b) s = execSremU sw d a b s := rfl
@[simp] theorem exec_sand (sw d a b s) : exec (.sand sw d a b) s = execSand sw d a b s := rfl
@[simp] theorem exec_sor (sw d a b s) : exec (.sor sw d a b) s = execSor sw d a b s := rfl
@[simp] theorem exec_sxor (sw d a b s) : exec (.sxor sw d a b) s = execSxor sw d a b s := rfl
@[simp] theorem exec_sshl (sw d a b s) : exec (.sshl sw d a b) s = execSshl sw d a b s := rfl
@[simp] theorem exec_sshr (sw d a b s) : exec (.sshr sw d a b) s = execSshr sw d a b s := rfl
@[simp] theorem exec_ssar (sw d a b s) : exec (.ssar sw d a b) s = execSsar sw d a b s := rfl
@[simp] theorem exec_sandImm (sw d a imm s) : exec (.sandImm sw d a imm) s = execSandImm sw d a imm s := rfl
@[simp] theorem exec_sorImm (sw d a imm s) : exec (.sorImm sw d a imm) s = execSorImm sw d a imm s := rfl
@[simp] theorem exec_sshlImm (sw d a c s) : exec (.sshlImm sw d a c) s = execSshlImm sw d a c s := rfl
@[simp] theorem exec_sshrImm (sw d a c s) : exec (.sshrImm sw d a c) s = execSshrImm sw d a c s := rfl
@[simp] theorem exec_ssarImm (sw d a c s) : exec (.ssarImm sw d a c) s = execSsarImm sw d a c s := rfl
@[simp] theorem exec_smin (sw d a b s) : exec (.smin sw d a b) s = execSmin sw d a b s := rfl
@[simp] theorem exec_smax (sw d a b s) : exec (.smax sw d a b) s = execSmax sw d a b s := rfl
@[simp] theorem exec_sminU (sw d a b s) : exec (.sminU sw d a b) s = execSminU sw d a b s := rfl
@[simp] theorem exec_smaxU (sw d a b s) : exec (.smaxU sw d a b) s = execSmaxU sw d a b s := rfl
@[simp] theorem exec_ssel (sw d a b c s) : exec (.ssel sw d a b c) s = execSsel sw d a b c s := rfl
@[simp] theorem exec_sbfx (sw d a p w s) : exec (.sbfx sw d a p w) s = execSbfx sw d a p w s := rfl
@[simp] theorem exec_sbfi (sw d a p w s) : exec (.sbfi sw d a p w) s = execSbfi sw d a p w s := rfl
@[simp] theorem exec_spopc (sw d a s) : exec (.spopc sw d a) s = execSpopc sw d a s := rfl
@[simp] theorem exec_sclz (sw d a s) : exec (.sclz sw d a) s = execSclz sw d a s := rfl
@[simp] theorem exec_smov (sw d a s) : exec (.smov sw d a) s = execSmov sw d a s := rfl
@[simp] theorem exec_smovi (sw d imm s) : exec (.smovi sw d imm) s = execSmovi sw d imm s := rfl
@[simp] theorem exec_slui (sw d imm s) : exec (.slui sw d imm) s = execSlui sw d imm s := rfl
@[simp] theorem exec_smovSpecial (sw d n s) : exec (.smovSpecial sw d n) s = execSmovSpecial sw d n s := rfl
@[simp] theorem exec_vadd (sw d a b k s) : exec (.vadd sw d a b k) s = execVadd sw d a b k s := rfl
@[simp] theorem exec_vsub (sw d a b k s) : exec (.vsub sw d a b k) s = execVsub sw d a b k s := rfl
@[simp] theorem exec_vadds (sw d a b k s) : exec (.vadds sw d a b k) s = execVadds sw d a b k s := rfl
@[simp] theorem exec_vsubs (sw d a b k s) : exec (.vsubs sw d a b k) s = execVsubs sw d a b k s := rfl
@[simp] theorem exec_vaddsU (sw d a b k s) : exec (.vaddsU sw d a b k) s = execVaddsU sw d a b k s := rfl
@[simp] theorem exec_vsubsU (sw d a b k s) : exec (.vsubsU sw d a b k) s = execVsubsU sw d a b k s := rfl
@[simp] theorem exec_vmul (sw d a b k s) : exec (.vmul sw d a b k) s = execVmul sw d a b k s := rfl
@[simp] theorem exec_vmulh (sw d a b k s) : exec (.vmulh sw d a b k) s = execVmulh sw d a b k s := rfl
@[simp] theorem exec_vmulhU (sw d a b k s) : exec (.vmulhU sw d a b k) s = execVmulhU sw d a b k s := rfl
@[simp] theorem exec_vand (sw d a b k s) : exec (.vand sw d a b k) s = execVand sw d a b k s := rfl
@[simp] theorem exec_vor (sw d a b k s) : exec (.vor sw d a b k) s = execVor sw d a b k s := rfl
@[simp] theorem exec_vxor (sw d a b k s) : exec (.vxor sw d a b k) s = execVxor sw d a b k s := rfl
@[simp] theorem exec_vshl (sw d a b k s) : exec (.vshl sw d a b k) s = execVshl sw d a b k s := rfl
@[simp] theorem exec_vshr (sw d a b k s) : exec (.vshr sw d a b k) s = execVshr sw d a b k s := rfl
@[simp] theorem exec_vsar (sw d a b k s) : exec (.vsar sw d a b k) s = execVsar sw d a b k s := rfl
@[simp] theorem exec_vmin (sw d a b k s) : exec (.vmin sw d a b k) s = execVmin sw d a b k s := rfl
@[simp] theorem exec_vmax (sw d a b k s) : exec (.vmax sw d a b k) s = execVmax sw d a b k s := rfl
@[simp] theorem exec_vminU (sw d a b k s) : exec (.vminU sw d a b k) s = execVminU sw d a b k s := rfl
@[simp] theorem exec_vmaxU (sw d a b k s) : exec (.vmaxU sw d a b k) s = execVmaxU sw d a b k s := rfl
@[simp] theorem exec_vabs (sw d a k s) : exec (.vabs sw d a k) s = execVabs sw d a k s := rfl
@[simp] theorem exec_vmad (sw d a b c s) : exec (.vmad sw d a b c) s = execVmad sw d a b c s := rfl
@[simp] theorem exec_vdot4 (sw d a b c s) : exec (.vdot4 sw d a b c) s = execVdot4 sw d a b c s := rfl
@[simp] theorem exec_vdot4U (sw d a b c s) : exec (.vdot4U sw d a b c) s = execVdot4U sw d a b c s := rfl
@[simp] theorem exec_vcmpEq (sw d a b k s) : exec (.vcmpEq sw d a b k) s = execVcmpEq sw d a b k s := rfl
@[simp] theorem exec_vcmpNe (sw d a b k s) : exec (.vcmpNe sw d a b k) s = execVcmpNe sw d a b k s := rfl
@[simp] theorem exec_vcmpLt (sw d a b k s) : exec (.vcmpLt sw d a b k) s = execVcmpLt sw d a b k s := rfl
@[simp] theorem exec_vcmpLe (sw d a b k s) : exec (.vcmpLe sw d a b k) s = execVcmpLe sw d a b k s := rfl
@[simp] theorem exec_vcmpLtu (sw d a b k s) : exec (.vcmpLtu sw d a b k) s = execVcmpLtu sw d a b k s := rfl
@[simp] theorem exec_vcmpLeu (sw d a b k s) : exec (.vcmpLeu sw d a b k) s = execVcmpLeu sw d a b k s := rfl
@[simp] theorem exec_vsel (sw d a b k m s) : exec (.vsel sw d a b k m) s = execVsel sw d a b k m s := rfl
@[simp] theorem exec_vbfxU (sw d a p w s) : exec (.vbfxU sw d a p w) s = execVbfxU sw d a p w s := rfl
@[simp] theorem exec_vbfxS (sw d a p w s) : exec (.vbfxS sw d a p w) s = execVbfxS sw d a p w s := rfl
@[simp] theorem exec_vbfi (sw d a p w s) : exec (.vbfi sw d a p w) s = execVbfi sw d a p w s := rfl
@[simp] theorem exec_vpopc (sw d a k s) : exec (.vpopc sw d a k) s = execVpopc sw d a k s := rfl
@[simp] theorem exec_vclz (sw d a k s) : exec (.vclz sw d a k) s = execVclz sw d a k s := rfl
@[simp] theorem exec_vmov (sw d a k s) : exec (.vmov sw d a k) s = execVmov sw d a k s := rfl
@[simp] theorem exec_vmovi (sw d imm s) : exec (.vmovi sw d imm) s = execVmovi sw d imm s := rfl
@[simp] theorem exec_vmovLane (sw d s) : exec (.vmovLane sw d) s = execVmovLane sw d s := rfl
@[simp] theorem exec_vaddImm (sw d a imm s) : exec (.vaddImm sw d a imm) s = execVaddImm sw d a imm s := rfl
@[simp] theorem exec_fadd (sw d a b k m s) : exec (.fadd sw d a b k m) s = execFadd sw d a b k m s := rfl
@[simp] theorem exec_fsub (sw d a b k m s) : exec (.fsub sw d a b k m) s = execFsub sw d a b k m s := rfl
@[simp] theorem exec_fmul (sw d a b k m s) : exec (.fmul sw d a b k m) s = execFmul sw d a b k m s := rfl
@[simp] theorem exec_fma (sw d a b c s) : exec (.fma sw d a b c) s = execFma sw d a b c s := rfl
@[simp] theorem exec_fmin (sw d a b k m s) : exec (.fmin sw d a b k m) s = execFmin sw d a b k m s := rfl
@[simp] theorem exec_fmax (sw d a b k m s) : exec (.fmax sw d a b k m) s = execFmax sw d a b k m s := rfl
@[simp] theorem exec_fcmpEq (sw d a b k s) : exec (.fcmpEq sw d a b k) s = execFcmpEq sw d a b k s := rfl
@[simp] theorem exec_fcmpNe (sw d a b k s) : exec (.fcmpNe sw d a b k) s = execFcmpNe sw d a b k s := rfl
@[simp] theorem exec_fcmpLt (sw d a b k s) : exec (.fcmpLt sw d a b k) s = execFcmpLt sw d a b k s := rfl
@[simp] theorem exec_fcmpLe (sw d a b k s) : exec (.fcmpLe sw d a b k) s = execFcmpLe sw d a b k s := rfl
@[simp] theorem exec_fcmpUn (sw d a b k s) : exec (.fcmpUn sw d a b k) s = execFcmpUn sw d a b k s := rfl
@[simp] theorem exec_fcmpOrd (sw d a b k s) : exec (.fcmpOrd sw d a b k) s = execFcmpOrd sw d a b k s := rfl
@[simp] theorem exec_fclass (sw d a k s) : exec (.fclass sw d a k) s = execFclass sw d a k s := rfl
@[simp] theorem exec_frcp (sw d a k m s) : exec (.frcp sw d a k m) s = execFrcp sw d a k m s := rfl
@[simp] theorem exec_frsq (sw d a k m s) : exec (.frsq sw d a k m) s = execFrsq sw d a k m s := rfl
@[simp] theorem exec_fsqrt (sw d a k m s) : exec (.fsqrt sw d a k m) s = execFsqrt sw d a k m s := rfl
@[simp] theorem exec_fexp2 (sw d a k m s) : exec (.fexp2 sw d a k m) s = execFexp2 sw d a k m s := rfl
@[simp] theorem exec_flog2 (sw d a k m s) : exec (.flog2 sw d a k m) s = execFlog2 sw d a k m s := rfl
@[simp] theorem exec_fsin (sw d a k m s) : exec (.fsin sw d a k m) s = execFsin sw d a k m s := rfl
@[simp] theorem exec_fcos (sw d a k m s) : exec (.fcos sw d a k m) s = execFcos sw d a k m s := rfl
@[simp] theorem exec_ftanh (sw d a k m s) : exec (.ftanh sw d a k m) s = execFtanh sw d a k m s := rfl
@[simp] theorem exec_fdiv (sw d a b k m s) : exec (.fdiv sw d a b k m) s = execFdiv sw d a b k m s := rfl
@[simp] theorem exec_froundRn (sw d a s) : exec (.froundRn sw d a) s = execFroundRn sw d a s := rfl
@[simp] theorem exec_froundRz (sw d a s) : exec (.froundRz sw d a) s = execFroundRz sw d a s := rfl
@[simp] theorem exec_froundRu (sw d a s) : exec (.froundRu sw d a) s = execFroundRu sw d a s := rfl
@[simp] theorem exec_froundRd (sw d a s) : exec (.froundRd sw d a) s = execFroundRd sw d a s := rfl
@[simp] theorem exec_fround (sw d a s) : exec (.fround sw d a) s = execFround sw d a s := rfl
@[simp] theorem exec_cvt (sw d a f g s) : exec (.cvt sw d a f g) s = execCvt sw d a f g s := rfl
@[simp] theorem exec_pack2 (sw d a b k s) : exec (.pack2 sw d a b k) s = execPack2 sw d a b k s := rfl
@[simp] theorem exec_pack4 (sw d a b c s) : exec (.pack4 sw d a b c) s = execPack4 sw d a b c s := rfl
@[simp] theorem exec_unpack (sw d a f imm s) : exec (.unpack sw d a f imm) s = execUnpack sw d a f imm s := rfl
@[simp] theorem exec_bscale (sw d a b k s) : exec (.bscale sw d a b k) s = execBscale sw d a b k s := rfl
@[simp] theorem exec_bapply (sw d a b k s) : exec (.bapply sw d a b k) s = execBapply sw d a b k s := rfl
@[simp] theorem exec_fmsetImm (sw imm s) : exec (.fmsetImm sw imm) s = execFmsetImm sw imm s := rfl
@[simp] theorem exec_fmset (sw a s) : exec (.fmset sw a) s = execFmset sw a s := rfl
@[simp] theorem exec_fmget (sw d s) : exec (.fmget sw d) s = execFmget sw d s := rfl
@[simp] theorem exec_shflIdx (sw d a b k s) : exec (.shflIdx sw d a b k) s = execShflIdx sw d a b k s := rfl
@[simp] theorem exec_shflXor (sw d a b k s) : exec (.shflXor sw d a b k) s = execShflXor sw d a b k s := rfl
@[simp] theorem exec_shflUp (sw d a b k s) : exec (.shflUp sw d a b k) s = execShflUp sw d a b k s := rfl
@[simp] theorem exec_shflDn (sw d a b k s) : exec (.shflDn sw d a b k) s = execShflDn sw d a b k s := rfl
@[simp] theorem exec_bcast (sw d a b k s) : exec (.bcast sw d a b k) s = execBcast sw d a b k s := rfl
@[simp] theorem exec_rdcAdd (sw d a k s) : exec (.rdcAdd sw d a k) s = execRdcAdd sw d a k s := rfl
@[simp] theorem exec_rdcMin (sw d a k s) : exec (.rdcMin sw d a k) s = execRdcMin sw d a k s := rfl
@[simp] theorem exec_rdcMax (sw d a k s) : exec (.rdcMax sw d a k) s = execRdcMax sw d a k s := rfl
@[simp] theorem exec_rdcMinU (sw d a k s) : exec (.rdcMinU sw d a k) s = execRdcMinU sw d a k s := rfl
@[simp] theorem exec_rdcMaxU (sw d a k s) : exec (.rdcMaxU sw d a k) s = execRdcMaxU sw d a k s := rfl
@[simp] theorem exec_rdcFadd (sw d a k s) : exec (.rdcFadd sw d a k) s = execRdcFadd sw d a k s := rfl
@[simp] theorem exec_rdcFmin (sw d a k s) : exec (.rdcFmin sw d a k) s = execRdcFmin sw d a k s := rfl
@[simp] theorem exec_rdcFmax (sw d a k s) : exec (.rdcFmax sw d a k) s = execRdcFmax sw d a k s := rfl
@[simp] theorem exec_scanAdd (sw d a k s) : exec (.scanAdd sw d a k) s = execScanAdd sw d a k s := rfl
@[simp] theorem exec_scanMin (sw d a k s) : exec (.scanMin sw d a k) s = execScanMin sw d a k s := rfl
@[simp] theorem exec_scanMax (sw d a k s) : exec (.scanMax sw d a k) s = execScanMax sw d a k s := rfl
@[simp] theorem exec_scanMinU (sw d a k s) : exec (.scanMinU sw d a k) s = execScanMinU sw d a k s := rfl
@[simp] theorem exec_scanMaxU (sw d a k s) : exec (.scanMaxU sw d a k) s = execScanMaxU sw d a k s := rfl
@[simp] theorem exec_scanFadd (sw d a k s) : exec (.scanFadd sw d a k) s = execScanFadd sw d a k s := rfl
@[simp] theorem exec_scanFmin (sw d a k s) : exec (.scanFmin sw d a k) s = execScanFmin sw d a k s := rfl
@[simp] theorem exec_scanFmax (sw d a k s) : exec (.scanFmax sw d a k) s = execScanFmax sw d a k s := rfl
@[simp] theorem exec_voteAny (sw d a k s) : exec (.voteAny sw d a k) s = execVoteAny sw d a k s := rfl
@[simp] theorem exec_voteAll (sw d a k s) : exec (.voteAll sw d a k) s = execVoteAll sw d a k s := rfl
@[simp] theorem exec_voteUni (sw d a k s) : exec (.voteUni sw d a k) s = execVoteUni sw d a k s := rfl
@[simp] theorem exec_ballot (sw d a k s) : exec (.ballot sw d a k) s = execBallot sw d a k s := rfl
@[simp] theorem exec_kand (sw d a b s) : exec (.kand sw d a b) s = execKand sw d a b s := rfl
@[simp] theorem exec_kor (sw d a b s) : exec (.kor sw d a b) s = execKor sw d a b s := rfl
@[simp] theorem exec_kxor (sw d a b s) : exec (.kxor sw d a b) s = execKxor sw d a b s := rfl
@[simp] theorem exec_kandn (sw d a b s) : exec (.kandn sw d a b) s = execKandn sw d a b s := rfl
@[simp] theorem exec_knot (sw d a s) : exec (.knot sw d a) s = execKnot sw d a s := rfl
@[simp] theorem exec_kmov (sw d a s) : exec (.kmov sw d a) s = execKmov sw d a s := rfl
@[simp] theorem exec_kpop (sw d a s) : exec (.kpop sw d a) s = execKpop sw d a s := rfl
@[simp] theorem exec_kfirst (sw d a s) : exec (.kfirst sw d a) s = execKfirst sw d a s := rfl
@[simp] theorem exec_kset (sw d imm s) : exec (.kset sw d imm) s = execKset sw d imm s := rfl
@[simp] theorem exec_ld (sw t b x w h acq s) : exec (.ld sw t b x w h acq) s = execLd sw t b x w h acq s := rfl
@[simp] theorem exec_st (sw t b x w h rel s) : exec (.st sw t b x w h rel) s = execSt sw t b x w h rel s := rfl
@[simp] theorem exec_sld (sw t b x w acq s) : exec (.sld sw t b x w acq) s = execSld sw t b x w acq s := rfl
@[simp] theorem exec_sst (sw t b x w rel s) : exec (.sst sw t b x w rel) s = execSst sw t b x w rel s := rfl
@[simp] theorem exec_pld (sw t b x w s) : exec (.pld sw t b x w) s = execPld sw t b x w s := rfl
@[simp] theorem exec_pst (sw t b x w s) : exec (.pst sw t b x w) s = execPst sw t b x w s := rfl
@[simp] theorem exec_tld (sw d a b c s) : exec (.tld sw d a b c) s = execTld sw d a b c s := rfl
@[simp] theorem exec_tst (sw d a b c s) : exec (.tst sw d a b c) s = execTst sw d a b c s := rfl
@[simp] theorem exec_smap (sw a b c s) : exec (.smap sw a b c) s = execSmap sw a b c s := rfl
@[simp] theorem exec_sunmap (sw a b s) : exec (.sunmap sw a b) s = execSunmap sw a b s := rfl
@[simp] theorem exec_pref (sw b x h s) : exec (.pref sw b x h) s = execPref sw b x h s := rfl
@[simp] theorem exec_discard (sw a b c s) : exec (.discard sw a b c) s = execDiscard sw a b c s := rfl
@[simp] theorem exec_lastuse (sw a b c s) : exec (.lastuse sw a b c) s = execLastuse sw a b c s := rfl
@[simp] theorem exec_cwb (sw a b s) : exec (.cwb sw a b) s = execCwb sw a b s := rfl
@[simp] theorem exec_amoAdd (sw t b x w o s) : exec (.amoAdd sw t b x w o) s = execAmoAdd sw t b x w o s := rfl
@[simp] theorem exec_amoMin (sw t b x w o s) : exec (.amoMin sw t b x w o) s = execAmoMin sw t b x w o s := rfl
@[simp] theorem exec_amoMax (sw t b x w o s) : exec (.amoMax sw t b x w o) s = execAmoMax sw t b x w o s := rfl
@[simp] theorem exec_amoAnd (sw t b x w o s) : exec (.amoAnd sw t b x w o) s = execAmoAnd sw t b x w o s := rfl
@[simp] theorem exec_amoOr (sw t b x w o s) : exec (.amoOr sw t b x w o) s = execAmoOr sw t b x w o s := rfl
@[simp] theorem exec_amoXor (sw t b x w o s) : exec (.amoXor sw t b x w o) s = execAmoXor sw t b x w o s := rfl
@[simp] theorem exec_amoXchg (sw t b x w o s) : exec (.amoXchg sw t b x w o) s = execAmoXchg sw t b x w o s := rfl
@[simp] theorem exec_amoFadd (sw t b x o s) : exec (.amoFadd sw t b x o) s = execAmoFadd sw t b x o s := rfl
@[simp] theorem exec_amocas (sw t b x w o s) : exec (.amocas sw t b x w o) s = execAmocas sw t b x w o s := rfl
@[simp] theorem exec_redAdd (sw t b x w rel s) : exec (.redAdd sw t b x w rel) s = execRedAdd sw t b x w rel s := rfl
@[simp] theorem exec_redMin (sw t b x w rel s) : exec (.redMin sw t b x w rel) s = execRedMin sw t b x w rel s := rfl
@[simp] theorem exec_redMax (sw t b x w rel s) : exec (.redMax sw t b x w rel) s = execRedMax sw t b x w rel s := rfl
@[simp] theorem exec_redAnd (sw t b x w rel s) : exec (.redAnd sw t b x w rel) s = execRedAnd sw t b x w rel s := rfl
@[simp] theorem exec_redOr (sw t b x w rel s) : exec (.redOr sw t b x w rel) s = execRedOr sw t b x w rel s := rfl
@[simp] theorem exec_redXor (sw t b x w rel s) : exec (.redXor sw t b x w rel) s = execRedXor sw t b x w rel s := rfl
@[simp] theorem exec_redFadd (sw t b x rel s) : exec (.redFadd sw t b x rel) s = execRedFadd sw t b x rel s := rfl
@[simp] theorem exec_fen (sw p o s) : exec (.fen sw p o) s = execFen sw p o s := rfl
@[simp] theorem exec_ifen (sw s) : exec (.ifen sw) s = execIfen sw s := rfl
@[simp] theorem exec_cpy (sw y x a b c s) : exec (.cpy sw y x a b c) s = execCpy sw y x a b c s := rfl
@[simp] theorem exec_cpym (sw m a b c s) : exec (.cpym sw m a b c) s = execCpym sw m a b c s := rfl
@[simp] theorem exec_cpytTs (sw a b c s) : exec (.cpytTs sw a b c) s = execCpytTs sw a b c s := rfl
@[simp] theorem exec_cpytSt (sw a b c s) : exec (.cpytSt sw a b c) s = execCpytSt sw a b c s := rfl
@[simp] theorem exec_bclC (sw d s) : exec (.bclC sw d) s = execBclC sw d s := rfl
@[simp] theorem exec_bclM (sw d s) : exec (.bclM sw d) s = execBclM sw d s := rfl
@[simp] theorem exec_bwtC (sw a timeout s) : exec (.bwtC sw a timeout) s = execBwtC sw a timeout s := rfl
@[simp] theorem exec_bwtM (sw a timeout s) : exec (.bwtM sw a timeout) s = execBwtM sw a timeout s := rfl
@[simp] theorem exec_bqryC (sw d s) : exec (.bqryC sw d) s = execBqryC sw d s := rfl
@[simp] theorem exec_bqryM (sw d s) : exec (.bqryM sw d) s = execBqryM sw d s := rfl
@[simp] theorem exec_mmaBf16 (sw z a b r s) : exec (.mmaBf16 sw z a b r) s = execMmaBf16 sw z a b r s := rfl
@[simp] theorem exec_mmaF16 (sw z a b r s) : exec (.mmaF16 sw z a b r) s = execMmaF16 sw z a b r s := rfl
@[simp] theorem exec_mmaF8 (sw z a b r s) : exec (.mmaF8 sw z a b r) s = execMmaF8 sw z a b r s := rfl
@[simp] theorem exec_mmaF4 (sw z a b r s) : exec (.mmaF4 sw z a b r) s = execMmaF4 sw z a b r s := rfl
@[simp] theorem exec_mmaI8 (sw z a b r s) : exec (.mmaI8 sw z a b r) s = execMmaI8 sw z a b r s := rfl
@[simp] theorem exec_mmaH16 (sw z a b r s) : exec (.mmaH16 sw z a b r) s = execMmaH16 sw z a b r s := rfl
@[simp] theorem exec_tsa (sw z a b r s) : exec (.tsa sw z a b r) s = execTsa sw z a b r s := rfl
@[simp] theorem exec_mmlBf16 (sw z a b r n ainc binc s) : exec (.mmlBf16 sw z a b r n ainc binc) s = execMmlBf16 sw z a b r n ainc binc s := rfl
@[simp] theorem exec_mmlF16 (sw z a b r n ainc binc s) : exec (.mmlF16 sw z a b r n ainc binc) s = execMmlF16 sw z a b r n ainc binc s := rfl
@[simp] theorem exec_mmlF8 (sw z a b r n ainc binc s) : exec (.mmlF8 sw z a b r n ainc binc) s = execMmlF8 sw z a b r n ainc binc s := rfl
@[simp] theorem exec_mmlF4 (sw z a b r n ainc binc s) : exec (.mmlF4 sw z a b r n ainc binc) s = execMmlF4 sw z a b r n ainc binc s := rfl
@[simp] theorem exec_mmlI8 (sw z a b r n ainc binc s) : exec (.mmlI8 sw z a b r n ainc binc) s = execMmlI8 sw z a b r n ainc binc s := rfl
@[simp] theorem exec_mmlH16 (sw z a b r n ainc binc s) : exec (.mmlH16 sw z a b r n ainc binc) s = execMmlH16 sw z a b r n ainc binc s := rfl
@[simp] theorem exec_tsl (sw z a b r n ainc binc s) : exec (.tsl sw z a b r n ainc binc) s = execTsl sw z a b r n ainc binc s := rfl
@[simp] theorem exec_zclr (sw z s) : exec (.zclr sw z) s = execZclr sw z s := rfl
@[simp] theorem exec_zld (sw z b s) : exec (.zld sw z b) s = execZld sw z b s := rfl
@[simp] theorem exec_zst (sw z b s) : exec (.zst sw z b) s = execZst sw z b s := rfl
@[simp] theorem exec_zcvt (sw z a s) : exec (.zcvt sw z a) s = execZcvt sw z a s := rfl
@[simp] theorem exec_br (sw o s) : exec (.br sw o) s = execBr sw o s := rfl
@[simp] theorem exec_bcc (sw c o s) : exec (.bcc sw c o) s = execBcc sw c o s := rfl
@[simp] theorem exec_bmz (sw k o s) : exec (.bmz sw k o) s = execBmz sw k o s := rfl
@[simp] theorem exec_bmnz (sw k o s) : exec (.bmnz sw k o) s = execBmnz sw k o s := rfl
@[simp] theorem exec_call (sw o s) : exec (.call sw o) s = execCall sw o s := rfl
@[simp] theorem exec_mif (sw k o s) : exec (.mif sw k o) s = execMif sw k o s := rfl
@[simp] theorem exec_melse (sw o s) : exec (.melse sw o) s = execMelse sw o s := rfl
@[simp] theorem exec_lpb (sw d o bound steps s) : exec (.lpb sw d o bound steps) s = execLpb sw d o bound steps s := rfl
@[simp] theorem exec_lpbW (sw o bound steps s) : exec (.lpbW sw o bound steps) s = execLpbW sw o bound steps s := rfl
@[simp] theorem exec_lpe (sw o s) : exec (.lpe sw o) s = execLpe sw o s := rfl
@[simp] theorem exec_mend (sw s) : exec (.mend sw) s = execMend sw s := rfl
@[simp] theorem exec_mbrk (sw k s) : exec (.mbrk sw k) s = execMbrk sw k s := rfl
@[simp] theorem exec_mcont (sw k s) : exec (.mcont sw k) s = execMcont sw k s := rfl
@[simp] theorem exec_exit (sw s) : exec (.exit sw) s = execExit sw s := rfl
@[simp] theorem exec_nop (sw s) : exec (.nop sw) s = execNop sw s := rfl
@[simp] theorem exec_jmp (sw a s) : exec (.jmp sw a) s = execJmp sw a s := rfl
@[simp] theorem exec_calli (sw a s) : exec (.calli sw a) s = execCalli sw a s := rfl
@[simp] theorem exec_ret (sw s) : exec (.ret sw) s = execRet sw s := rfl
@[simp] theorem exec_barArr (sw l n s) : exec (.barArr sw l n) s = execBarArr sw l n s := rfl
@[simp] theorem exec_barWt (sw l n timeout s) : exec (.barWt sw l n timeout) s = execBarWt sw l n timeout s := rfl
@[simp] theorem exec_barSync (sw l n timeout s) : exec (.barSync sw l n timeout) s = execBarSync sw l n timeout s := rfl
@[simp] theorem exec_spawn (sw o s) : exec (.spawn sw o) s = execSpawn sw o s := rfl
@[simp] theorem exec_launch (sw d a s) : exec (.launch sw d a) s = execLaunch sw d a s := rfl
@[simp] theorem exec_cwait (sw d a timeout s) : exec (.cwait sw d a timeout) s = execCwait sw d a timeout s := rfl
@[simp] theorem exec_racq (sw n s) : exec (.racq sw n) s = execRacq sw n s := rfl
@[simp] theorem exec_rrel (sw n s) : exec (.rrel sw n) s = execRrel sw n s := rfl
@[simp] theorem exec_tset (sw a s) : exec (.tset sw a) s = execTset sw a s := rfl
@[simp] theorem exec_rput (sw d s) : exec (.rput sw d) s = execRput sw d s := rfl
@[simp] theorem exec_rmat (sw a b c s) : exec (.rmat sw a b c) s = execRmat sw a b c s := rfl
@[simp] theorem exec_rdrop (sw a b c s) : exec (.rdrop sw a b c) s = execRdrop sw a b c s := rfl
@[simp] theorem exec_trap (sw c s) : exec (.trap sw c) s = execTrap sw c s := rfl
@[simp] theorem exec_brk (sw c s) : exec (.brk sw c) s = execBrk sw c s := rfl
@[simp] theorem exec_tret (sw s) : exec (.tret sw) s = execTret sw s := rfl
@[simp] theorem exec_fqry (sw d n s) : exec (.fqry sw d n) s = execFqry sw d n s := rfl
@[simp] theorem exec_sysr (sw d n s) : exec (.sysr sw d n) s = execSysr sw d n s := rfl
@[simp] theorem exec_sysw (sw a n s) : exec (.sysw sw a n) s = execSysw sw a n s := rfl
@[simp] theorem exec_tlbi (sw s) : exec (.tlbi sw) s = execTlbi sw s := rfl
@[simp] theorem exec_tlbiId (sw a s) : exec (.tlbiId sw a) s = execTlbiId sw a s := rfl
@[simp] theorem exec_tlbiVa (sw a b s) : exec (.tlbiVa sw a b) s = execTlbiVa sw a b s := rfl
@[simp] theorem exec_rep (n d a b c s) : exec (.rep n d a b c) s = execRep n d a b c s := rfl
@[simp] theorem exec_inv (t lo hi tol dir x y len s) : exec (.inv t lo hi tol dir x y len) s = execInv t lo hi tol dir x y len s := rfl
@[simp] theorem exec_reg (ring addr res s) : exec (.reg ring addr res) s = execReg ring addr res s := rfl
@[simp] theorem exec_quote (ring q s) : exec (.quote ring q) s = execQuote ring q s := rfl
@[simp] theorem exec_accept (ring qid flags s) : exec (.accept ring qid flags) s = execAccept ring qid flags s := rfl
@[simp] theorem exec_revoke (ring lid s) : exec (.revoke ring lid) s = execRevoke ring lid s := rfl
@[simp] theorem exec_pred (ring addr mask value ctrl s) : exec (.pred ring addr mask value ctrl) s = execPred ring addr mask value ctrl s := rfl
@[simp] theorem exec_fence (ring lid s) : exec (.fence ring lid) s = execFence ring lid s := rfl
@[simp] theorem exec_fenceSatisfied (ring s) : exec (.fenceSatisfied ring) s = execFenceSatisfied ring s := rfl
@[simp] theorem exec_signal (ring addr value ctrl s) : exec (.signal ring addr value ctrl) s = execSignal ring addr value ctrl s := rfl
@[simp] theorem exec_streamTailWrite (ep ring val s) : exec (.streamTailWrite ep ring val) s = execStreamTailWrite ep ring val s := rfl
@[simp] theorem exec_streamErrClear (ep stream val s) : exec (.streamErrClear ep stream val) s = execStreamErrClear ep stream val s := rfl
@[simp] theorem exec_hostFabricWrite (ep tgt data s) : exec (.hostFabricWrite ep tgt data) s = execHostFabricWrite ep tgt data s := rfl
@[simp] theorem exec_managementClaim (ep newEp devid s) : exec (.managementClaim ep newEp devid) s = execManagementClaim ep newEp devid s := rfl
@[simp] theorem exec_systemRegisterWrite (ep off val s) : exec (.systemRegisterWrite ep off val) s = execSystemRegisterWrite ep off val s := rfl
@[simp] theorem exec_budgetWrite (ep val s) : exec (.budgetWrite ep val) s = execBudgetWrite ep val s := rfl
@[simp] theorem exec_oppWrite (ep val s) : exec (.oppWrite ep val) s = execOppWrite ep val s := rfl
@[simp] theorem exec_oppLoweringApply (s) : exec (.oppLoweringApply) s = execOppLoweringApply s := rfl
@[simp] theorem exec_stashcfgWrite (ep val s) : exec (.stashcfgWrite ep val) s = execStashcfgWrite ep val s := rfl
@[simp] theorem exec_stashcfgApply (core s) : exec (.stashcfgApply core) s = execStashcfgApply core s := rfl
@[simp] theorem exec_tlbinvIdentifier (ep val s) : exec (.tlbinvIdentifier ep val) s = execTlbinvIdentifier ep val s := rfl
@[simp] theorem exec_tlbinvPage (ep val s) : exec (.tlbinvPage ep val) s = execTlbinvPage ep val s := rfl
@[simp] theorem exec_tlbiDone (team s) : exec (.tlbiDone team) s = execTlbiDone team s := rfl
@[simp] theorem exec_areportWrite (ep val s) : exec (.areportWrite ep val) s = execAreportWrite ep val s := rfl
@[simp] theorem exec_attestReportDone (s) : exec (.attestReportDone) s = execAttestReportDone s := rfl
@[simp] theorem exec_preemptSave (ep lid s) : exec (.preemptSave ep lid) s = execPreemptSave ep lid s := rfl
@[simp] theorem exec_preemptRestore (ep lid s) : exec (.preemptRestore ep lid) s = execPreemptRestore ep lid s := rfl
@[simp] theorem exec_preemptExport (ep lid s) : exec (.preemptExport ep lid) s = execPreemptExport ep lid s := rfl
@[simp] theorem exec_preemptImport (ep lid s) : exec (.preemptImport ep lid) s = execPreemptImport ep lid s := rfl
@[simp] theorem exec_quoteLapse (id s) : exec (.quoteLapse id) s = execQuoteLapse id s := rfl
@[simp] theorem exec_placeBlock (id s) : exec (.placeBlock id) s = execPlaceBlock id s := rfl
@[simp] theorem exec_resultWrite (team n s) : exec (.resultWrite team n) s = execResultWrite team n s := rfl
@[simp] theorem exec_storePerform (n s) : exec (.storePerform n) s = execStorePerform n s := rfl
@[simp] theorem exec_atomicApply (team n s) : exec (.atomicApply team n) s = execAtomicApply team n s := rfl
@[simp] theorem exec_lineFill (team s) : exec (.lineFill team) s = execLineFill team s := rfl
@[simp] theorem exec_rebrewSlotStart (core s) : exec (.rebrewSlotStart core) s = execRebrewSlotStart core s := rfl
@[simp] theorem exec_sliceCycOverrun (team s) : exec (.sliceCycOverrun team) s = execSliceCycOverrun team s := rfl
@[simp] theorem exec_sliceNjOverrun (team s) : exec (.sliceNjOverrun team) s = execSliceNjOverrun team s := rfl
@[simp] theorem exec_copyLine (team n s) : exec (.copyLine team n) s = execCopyLine team n s := rfl
@[simp] theorem exec_matrixStep (team s) : exec (.matrixStep team) s = execMatrixStep team s := rfl
@[simp] theorem exec_flushMarkerReport (team die s) : exec (.flushMarkerReport team die) s = execFlushMarkerReport team die s := rfl
@[simp] theorem exec_peerReport (team peer s) : exec (.peerReport team peer) s = execPeerReport team peer s := rfl
@[simp] theorem exec_peerlate (team peer s) : exec (.peerlate team peer) s = execPeerlate team peer s := rfl
@[simp] theorem exec_peerfail (team peer s) : exec (.peerfail team peer) s = execPeerfail team peer s := rfl
@[simp] theorem exec_barrierTimeout (team s) : exec (.barrierTimeout team) s = execBarrierTimeout team s := rfl
@[simp] theorem exec_batchWaitTimeout (team s) : exec (.batchWaitTimeout team) s = execBatchWaitTimeout team s := rfl
@[simp] theorem exec_cwaitTimeout (team s) : exec (.cwaitTimeout team) s = execCwaitTimeout team s := rfl
@[simp] theorem exec_childLaunchDone (team s) : exec (.childLaunchDone team) s = execChildLaunchDone team s := rfl
@[simp] theorem exec_timerDue (team s) : exec (.timerDue team) s = execTimerDue team s := rfl
@[simp] theorem exec_timer (team s) : exec (.timer team) s = execTimer team s := rfl
@[simp] theorem exec_userHandlerLimit (team s) : exec (.userHandlerLimit team) s = execUserHandlerLimit team s := rfl
@[simp] theorem exec_privHandlerReturn (team s) : exec (.privHandlerReturn team) s = execPrivHandlerReturn team s := rfl
@[simp] theorem exec_emergencyBlockGrant (core s) : exec (.emergencyBlockGrant core) s = execEmergencyBlockGrant core s := rfl
@[simp] theorem exec_machinePreempt (id s) : exec (.machinePreempt id) s = execMachinePreempt id s := rfl
@[simp] theorem exec_restoreBlock (blk core s) : exec (.restoreBlock blk core) s = execRestoreBlock blk core s := rfl
@[simp] theorem exec_teamRetire (team s) : exec (.teamRetire team) s = execTeamRetire team s := rfl
@[simp] theorem exec_launchComplete (id s) : exec (.launchComplete id) s = execLaunchComplete id s := rfl
@[simp] theorem exec_costReplan (t s) : exec (.costReplan t) s = execCostReplan t s := rfl
@[simp] theorem exec_thermalEmergency (level s) : exec (.thermalEmergency level) s = execThermalEmergency level s := rfl
@[simp] theorem exec_thermalEnd (level s) : exec (.thermalEnd level) s = execThermalEnd level s := rfl
@[simp] theorem exec_errorDetected (e s) : exec (.errorDetected e) s = execErrorDetected e s := rfl
@[simp] theorem exec_quotingResume (s) : exec (.quotingResume) s = execQuotingResume s := rfl
@[simp] theorem exec_deviceReset (s) : exec (.deviceReset) s = execDeviceReset s := rfl
@[simp] theorem exec_illegalWord (team s) : exec (.illegalWord team) s = execIllegalWord team s := rfl
@[simp] theorem exec_instructionFetch (team s) : exec (.instructionFetch team) s = execInstructionFetch team s := rfl

end Sys2Proof.Machine
end

