-- ==== Sys2Proof/Laws/Store.lean ====
section
/-! SUPPORT. Laws of the two containers: reading a table or a memory after a change, and the canonical form, which every
memory operation keeps. -/
namespace Sys2Proof.Machine

/-! Tables. -/

@[simp] theorem Tab.get_set_same {α : Type} (d : α) (m : Tab α) (k : Nat) (x : α) : (m.set k x).get d k = x := by
  induction m with
  | nil => simp [Tab.set, Tab.get]
  | cons e m ih =>
    obtain ⟨k', y⟩ := e
    unfold Tab.set
    split
    · simp [Tab.get]
    · split
      · simp [Tab.get]
      · simp [Tab.get, *]

theorem Tab.get_set_other {α : Type} (d : α) (m : Tab α) {k j : Nat} (x : α) (h : j ≠ k) :
    (m.set k x).get d j = m.get d j := by
  have h' : k ≠ j := fun e => h e.symm
  induction m with
  | nil => simp [Tab.set, Tab.get, h']
  | cons e m ih =>
    obtain ⟨k', y⟩ := e
    unfold Tab.set
    split
    · subst k'; simp [Tab.get, h']
    · split
      · simp [Tab.get, h']
      · simp [Tab.get, ih]

theorem Tab.get_set {α : Type} (d : α) (m : Tab α) (k j : Nat) (x : α) :
    (m.set k x).get d j = if j = k then x else m.get d j := by
  split
  · subst j; simp
  · exact Tab.get_set_other d m x ‹_›

theorem Tab.mem_set {α : Type} (m : Tab α) (k : Nat) (x : α) (e : Nat × α) (h : e ∈ m.set k x) : e = (k, x) ∨ e ∈ m := by
  induction m with
  | nil => simpa [Tab.set] using h
  | cons b m ih => unfold Tab.set at h; grind

/-! Memory: reading after a write. -/

theorem Memory.read_insert (m : Memory) (a b : Nat) (x : Byte) :
    (m.insert a x).read b = if b = a then x else m.read b := by
  induction m with
  | nil => simp [Memory.insert, Memory.read, eq_comm]
  | cons e m ih => unfold Memory.insert; grind [Memory.read]

theorem Memory.read_filter_ne (m : Memory) (a b : Nat) :
    Memory.read (m.filter fun e => e.1 != a) b = if b = a then Memory.unlisted else m.read b := by
  induction m with
  | nil => simp [Memory.read]
  | cons e m ih => by_cases h : e.1 = a <;> grind [Memory.read]

/-- A byte read after a byte written: the byte written at its own address, and what was there everywhere else. -/
theorem Memory.read_write (m : Memory) (a b : Nat) (x : Byte) : (m.write a x).read b = if b = a then x else m.read b := by
  unfold Memory.write
  split
  · subst x; exact Memory.read_filter_ne m a b
  · exact Memory.read_insert m a b x

/-- A byte outside the bytes written reads as before. -/
theorem Memory.read_writeBytes_outside (m : Memory) (a b : Nat) (bs : List Byte) (h : b < a ∨ a + bs.length ≤ b) :
    (m.writeBytes a bs).read b = m.read b := by
  induction bs generalizing m a with
  | nil => rfl
  | cons x xs ih =>
    simp only [List.length_cons] at h
    rw [Memory.writeBytes, ih (h := by omega), Memory.read_write, if_neg (by omega)]

/-- A byte within the bytes written reads as the byte written there. -/
theorem Memory.read_writeBytes_inside (m : Memory) (a i : Nat) (bs : List Byte) (h : i < bs.length) :
    (m.writeBytes a bs).read (a + i) = bs[i] := by
  induction bs generalizing m a i with
  | nil => simp at h
  | cons x xs ih =>
    rw [Memory.writeBytes]
    cases i with
    | zero => rw [Memory.read_writeBytes_outside (h := by omega), Memory.read_write]; simp
    | succ i =>
      have := ih (m.write a x) (a + 1) i (by simpa using h)
      rw [show a + (i + 1) = a + 1 + i by omega, this]; simp

/-! Memory: the canonical form. -/

theorem Memory.mem_insert (m : Memory) (a : Nat) (x : Byte) (e : Host.Cell) (h : e ∈ m.insert a x) : e = (a, x) ∨ e ∈ m := by
  induction m with
  | nil => simpa [Memory.insert] using h
  | cons b m ih => unfold Memory.insert at h; grind

theorem Memory.wf_nil : Memory.wf [] := by simp [Memory.wf]

theorem Memory.wf_insert (m : Memory) (a : Nat) (x : Byte) (hx : x ≠ Memory.unlisted) (h : m.wf) : (m.insert a x).wf := by
  induction m with
  | nil => simpa [Memory.insert, Memory.wf] using hx
  | cons b m ih =>
    obtain ⟨a', y⟩ := b
    obtain ⟨hs, hv⟩ := h
    rw [List.pairwise_cons] at hs
    have hm : Memory.wf m := ⟨hs.2, fun p hp => hv p (List.mem_cons_of_mem _ hp)⟩
    unfold Memory.insert
    split
    · subst a'
      refine ⟨List.pairwise_cons.2 ⟨hs.1, hs.2⟩, ?_⟩
      intro p hp
      rcases List.mem_cons.1 hp with rfl | hp
      · exact hx
      · exact hm.2 p hp
    · split
      · refine ⟨List.pairwise_cons.2 ⟨?_, List.pairwise_cons.2 hs⟩, ?_⟩
        · intro p hp
          rcases List.mem_cons.1 hp with rfl | hp
          · assumption
          · exact Nat.lt_trans ‹_› (hs.1 p hp)
        · intro p hp
          rcases List.mem_cons.1 hp with rfl | hp
          · exact hx
          · exact hv p hp
      · have hi := ih hm
        refine ⟨List.pairwise_cons.2 ⟨?_, hi.1⟩, ?_⟩
        · intro p hp
          rcases Memory.mem_insert m a x p hp with rfl | hp
          · show a' < a; omega
          · exact hs.1 p hp
        · intro p hp
          rcases List.mem_cons.1 hp with rfl | hp
          · exact hv _ (by simp)
          · exact hi.2 p hp

/-- A byte written keeps the canonical form. -/
theorem Memory.wf_write (m : Memory) (a : Nat) (x : Byte) (h : m.wf) : (m.write a x).wf := by
  unfold Memory.write
  split
  · exact ⟨h.1.filter _, fun p hp => h.2 p (List.mem_filter.1 hp |>.1)⟩
  · exact Memory.wf_insert m a x ‹_› h

/-- Bytes written keep the canonical form. -/
theorem Memory.wf_writeBytes (m : Memory) (a : Nat) (bs : List Byte) (h : m.wf) : (m.writeBytes a bs).wf := by
  induction bs generalizing m a with
  | nil => exact h
  | cons x xs ih => exact ih _ _ (Memory.wf_write m a x h)

/-- A little-endian value written keeps the canonical form. -/
theorem Memory.wf_writeLE (m : Memory) (a n v : Nat) (h : m.wf) : (m.writeLE a n v).wf := Memory.wf_writeBytes m a _ h

/-- Bytes written one by one keep the canonical form. -/
theorem Memory.wf_foldl_write (m : Memory) (ps : List (Nat × Byte)) (h : m.wf) :
    (ps.foldl (fun (m : Memory) p => m.write p.1 p.2) m).wf := by
  induction ps generalizing m with
  | nil => exact h
  | cons p ps ih => exact ih _ (Memory.wf_write m p.1 p.2 h)

/-! Masks and bytes. -/

@[simp] theorem toBytesLE_length (n v : Nat) : (toBytesLE n v).length = n := by
  induction n generalizing v with
  | zero => rfl
  | succ n ih => simp [toBytesLE, ih]

/-- Reading back what was written. -/
theorem ofBytesLE_toBytesLE (n v : Nat) : ofBytesLE (toBytesLE n v) = v % 256 ^ n := by
  induction n generalizing v with
  | zero => simp [toBytesLE, ofBytesLE, Nat.mod_one]
  | succ n ih =>
    rw [toBytesLE, ofBytesLE, ih, BitVec.toNat_ofNat, show 256 ^ (n + 1) = 256 * 256 ^ n by rw [Nat.pow_succ, Nat.mul_comm],
      Nat.mod_mul]

theorem testBit_foldl_pow (p : Nat → Bool) (xs : List Nat) (acc l : Nat) :
    (xs.foldl (fun acc i => if p i then acc ||| 2 ^ i else acc) acc).testBit l =
      (acc.testBit l || decide (l ∈ xs) && p l) := by
  induction xs generalizing acc with
  | nil => simp
  | cons x xs ih =>
    rw [List.foldl_cons, ih]
    by_cases hx : p x <;> by_cases hl : x = l
    · subst hl; simp [hx]
    · simp [hx, Nat.testBit_two_pow_of_ne hl, Ne.symm hl]
    · subst hl; simp [hx]
    · simp [hx, Ne.symm hl]

/-- A bit of a mask built from a predicate. -/
theorem maskOf_getLsbD (n l : Nat) (p : Nat → Bool) :
    (maskOf n p).getLsbD l = (decide (l < 1024) && (decide (l < n) && p l)) := by
  simp [maskOf, BitVec.getLsbD_ofNat, testBit_foldl_pow]

end Sys2Proof.Machine
end

