-- ==== Sys2Proof/Laws/State.lean ====
section
/-! SUPPORT. Laws of the state's updates: for each update, what every field of the state, and of the team, is after it. -/
namespace Sys2Proof.Machine

/-! The updates of Machine/Regs.lean on the state: one lemma for each field that an update leaves. -/

@[simp] theorem State.setTeamOf_ns (s : State) (id : Nat) (t : Team) : (s.setTeamOf id t).ns = s.ns := rfl
@[simp] theorem State.setTeamOf_cur (s : State) (id : Nat) (t : Team) : (s.setTeamOf id t).cur = s.cur := rfl
@[simp] theorem State.setTeamOf_blocks (s : State) (id : Nat) (t : Team) : (s.setTeamOf id t).blocks = s.blocks := rfl
@[simp] theorem State.setTeamOf_launches (s : State) (id : Nat) (t : Team) : (s.setTeamOf id t).launches = s.launches := rfl
@[simp] theorem State.setTeamOf_nextQid (s : State) (id : Nat) (t : Team) : (s.setTeamOf id t).nextQid = s.nextQid := rfl
@[simp] theorem State.setTeamOf_images (s : State) (id : Nat) (t : Team) : (s.setTeamOf id t).images = s.images := rfl
@[simp] theorem State.setTeamOf_mem (s : State) (id : Nat) (t : Team) : (s.setTeamOf id t).mem = s.mem := rfl
@[simp] theorem State.setTeamOf_stores (s : State) (id : Nat) (t : Team) : (s.setTeamOf id t).stores = s.stores := rfl
@[simp] theorem State.setTeamOf_tiles (s : State) (id : Nat) (t : Team) : (s.setTeamOf id t).tiles = s.tiles := rfl
@[simp] theorem State.setTeamOf_brews (s : State) (id : Nat) (t : Team) : (s.setTeamOf id t).brews = s.brews := rfl
@[simp] theorem State.setTeamOf_tlbs (s : State) (id : Nat) (t : Team) : (s.setTeamOf id t).tlbs = s.tlbs := rfl
@[simp] theorem State.setTeamOf_descs (s : State) (id : Nat) (t : Team) : (s.setTeamOf id t).descs = s.descs := rfl
@[simp] theorem State.setTeamOf_icache (s : State) (id : Nat) (t : Team) : (s.setTeamOf id t).icache = s.icache := rfl
@[simp] theorem State.setTeamOf_ctxTable (s : State) (id : Nat) (t : Team) : (s.setTeamOf id t).ctxTable = s.ctxTable := rfl
@[simp] theorem State.setTeamOf_streamTable (s : State) (id : Nat) (t : Team) : (s.setTeamOf id t).streamTable = s.streamTable := rfl
@[simp] theorem State.setTeamOf_rings (s : State) (id : Nat) (t : Team) : (s.setTeamOf id t).rings = s.rings := rfl
@[simp] theorem State.setTeamOf_hostWrites (s : State) (id : Nat) (t : Team) : (s.setTeamOf id t).hostWrites = s.hostWrites := rfl
@[simp] theorem State.setTeamOf_slices (s : State) (id : Nat) (t : Team) : (s.setTeamOf id t).slices = s.slices := rfl
@[simp] theorem State.setTeamOf_codeLevel (s : State) (id : Nat) (t : Team) : (s.setTeamOf id t).codeLevel = s.codeLevel := rfl
@[simp] theorem State.setTeamOf_replies (s : State) (id : Nat) (t : Team) : (s.setTeamOf id t).replies = s.replies := rfl
@[simp] theorem State.setTeamOf_tlbinvHolds (s : State) (id : Nat) (t : Team) : (s.setTeamOf id t).tlbinvHolds = s.tlbinvHolds := rfl
@[simp] theorem State.setTeamOf_markers (s : State) (id : Nat) (t : Team) : (s.setTeamOf id t).markers = s.markers := rfl
@[simp] theorem State.setTeamOf_cycleTraps (s : State) (id : Nat) (t : Team) : (s.setTeamOf id t).cycleTraps = s.cycleTraps := rfl
@[simp] theorem State.setTeamOf_sys (s : State) (id : Nat) (t : Team) : (s.setTeamOf id t).sys = s.sys := rfl
@[simp] theorem State.setTeamOf_stashSplit (s : State) (id : Nat) (t : Team) : (s.setTeamOf id t).stashSplit = s.stashSplit := rfl
@[simp] theorem State.setTeamOf_emergency (s : State) (id : Nat) (t : Team) : (s.setTeamOf id t).emergency = s.emergency := rfl
@[simp] theorem State.setTeamOf_rounds (s : State) (id : Nat) (t : Team) : (s.setTeamOf id t).rounds = s.rounds := rfl
@[simp] theorem State.setTeamOf_loopBuffers (s : State) (id : Nat) (t : Team) : (s.setTeamOf id t).loopBuffers = s.loopBuffers := rfl
@[simp] theorem State.setTeamOf_fenced (s : State) (id : Nat) (t : Team) : (s.setTeamOf id t).fenced = s.fenced := rfl
@[simp] theorem State.setTeamOf_haltedFronts (s : State) (id : Nat) (t : Team) : (s.setTeamOf id t).haltedFronts = s.haltedFronts := rfl
@[simp] theorem State.setTeamOf_lastErrors (s : State) (id : Nat) (t : Team) : (s.setTeamOf id t).lastErrors = s.lastErrors := rfl
@[simp] theorem State.setTeamOf_thermal (s : State) (id : Nat) (t : Team) : (s.setTeamOf id t).thermal = s.thermal := rfl
@[simp] theorem State.setTeamOf_quotingPaused (s : State) (id : Nat) (t : Team) : (s.setTeamOf id t).quotingPaused = s.quotingPaused := rfl
@[simp] theorem State.setTeamOf_poisoned (s : State) (id : Nat) (t : Team) : (s.setTeamOf id t).poisoned = s.poisoned := rfl
@[simp] theorem State.setTeamOf_seq (s : State) (id : Nat) (t : Team) : (s.setTeamOf id t).seq = s.seq := rfl
@[simp] theorem State.setTeamOf_fresh (s : State) (id : Nat) (t : Team) : (s.setTeamOf id t).fresh = s.fresh := rfl
@[simp] theorem State.setTeamOf_agenda (s : State) (id : Nat) (t : Team) : (s.setTeamOf id t).agenda = s.agenda := rfl

@[simp] theorem State.setTeam_ns (s : State) (t : Team) : (s.setTeam t).ns = s.ns := rfl
@[simp] theorem State.setTeam_cur (s : State) (t : Team) : (s.setTeam t).cur = s.cur := rfl
@[simp] theorem State.setTeam_blocks (s : State) (t : Team) : (s.setTeam t).blocks = s.blocks := rfl
@[simp] theorem State.setTeam_launches (s : State) (t : Team) : (s.setTeam t).launches = s.launches := rfl
@[simp] theorem State.setTeam_nextQid (s : State) (t : Team) : (s.setTeam t).nextQid = s.nextQid := rfl
@[simp] theorem State.setTeam_images (s : State) (t : Team) : (s.setTeam t).images = s.images := rfl
@[simp] theorem State.setTeam_mem (s : State) (t : Team) : (s.setTeam t).mem = s.mem := rfl
@[simp] theorem State.setTeam_stores (s : State) (t : Team) : (s.setTeam t).stores = s.stores := rfl
@[simp] theorem State.setTeam_tiles (s : State) (t : Team) : (s.setTeam t).tiles = s.tiles := rfl
@[simp] theorem State.setTeam_brews (s : State) (t : Team) : (s.setTeam t).brews = s.brews := rfl
@[simp] theorem State.setTeam_tlbs (s : State) (t : Team) : (s.setTeam t).tlbs = s.tlbs := rfl
@[simp] theorem State.setTeam_descs (s : State) (t : Team) : (s.setTeam t).descs = s.descs := rfl
@[simp] theorem State.setTeam_icache (s : State) (t : Team) : (s.setTeam t).icache = s.icache := rfl
@[simp] theorem State.setTeam_ctxTable (s : State) (t : Team) : (s.setTeam t).ctxTable = s.ctxTable := rfl
@[simp] theorem State.setTeam_streamTable (s : State) (t : Team) : (s.setTeam t).streamTable = s.streamTable := rfl
@[simp] theorem State.setTeam_rings (s : State) (t : Team) : (s.setTeam t).rings = s.rings := rfl
@[simp] theorem State.setTeam_hostWrites (s : State) (t : Team) : (s.setTeam t).hostWrites = s.hostWrites := rfl
@[simp] theorem State.setTeam_slices (s : State) (t : Team) : (s.setTeam t).slices = s.slices := rfl
@[simp] theorem State.setTeam_codeLevel (s : State) (t : Team) : (s.setTeam t).codeLevel = s.codeLevel := rfl
@[simp] theorem State.setTeam_replies (s : State) (t : Team) : (s.setTeam t).replies = s.replies := rfl
@[simp] theorem State.setTeam_tlbinvHolds (s : State) (t : Team) : (s.setTeam t).tlbinvHolds = s.tlbinvHolds := rfl
@[simp] theorem State.setTeam_markers (s : State) (t : Team) : (s.setTeam t).markers = s.markers := rfl
@[simp] theorem State.setTeam_cycleTraps (s : State) (t : Team) : (s.setTeam t).cycleTraps = s.cycleTraps := rfl
@[simp] theorem State.setTeam_sys (s : State) (t : Team) : (s.setTeam t).sys = s.sys := rfl
@[simp] theorem State.setTeam_stashSplit (s : State) (t : Team) : (s.setTeam t).stashSplit = s.stashSplit := rfl
@[simp] theorem State.setTeam_emergency (s : State) (t : Team) : (s.setTeam t).emergency = s.emergency := rfl
@[simp] theorem State.setTeam_rounds (s : State) (t : Team) : (s.setTeam t).rounds = s.rounds := rfl
@[simp] theorem State.setTeam_loopBuffers (s : State) (t : Team) : (s.setTeam t).loopBuffers = s.loopBuffers := rfl
@[simp] theorem State.setTeam_fenced (s : State) (t : Team) : (s.setTeam t).fenced = s.fenced := rfl
@[simp] theorem State.setTeam_haltedFronts (s : State) (t : Team) : (s.setTeam t).haltedFronts = s.haltedFronts := rfl
@[simp] theorem State.setTeam_lastErrors (s : State) (t : Team) : (s.setTeam t).lastErrors = s.lastErrors := rfl
@[simp] theorem State.setTeam_thermal (s : State) (t : Team) : (s.setTeam t).thermal = s.thermal := rfl
@[simp] theorem State.setTeam_quotingPaused (s : State) (t : Team) : (s.setTeam t).quotingPaused = s.quotingPaused := rfl
@[simp] theorem State.setTeam_poisoned (s : State) (t : Team) : (s.setTeam t).poisoned = s.poisoned := rfl
@[simp] theorem State.setTeam_seq (s : State) (t : Team) : (s.setTeam t).seq = s.seq := rfl
@[simp] theorem State.setTeam_fresh (s : State) (t : Team) : (s.setTeam t).fresh = s.fresh := rfl
@[simp] theorem State.setTeam_agenda (s : State) (t : Team) : (s.setTeam t).agenda = s.agenda := rfl

@[simp] theorem State.at_ns (s : State) (id : Nat) : (s.at id).ns = s.ns := rfl
@[simp] theorem State.at_teams (s : State) (id : Nat) : (s.at id).teams = s.teams := rfl
@[simp] theorem State.at_blocks (s : State) (id : Nat) : (s.at id).blocks = s.blocks := rfl
@[simp] theorem State.at_launches (s : State) (id : Nat) : (s.at id).launches = s.launches := rfl
@[simp] theorem State.at_nextQid (s : State) (id : Nat) : (s.at id).nextQid = s.nextQid := rfl
@[simp] theorem State.at_images (s : State) (id : Nat) : (s.at id).images = s.images := rfl
@[simp] theorem State.at_mem (s : State) (id : Nat) : (s.at id).mem = s.mem := rfl
@[simp] theorem State.at_stores (s : State) (id : Nat) : (s.at id).stores = s.stores := rfl
@[simp] theorem State.at_tiles (s : State) (id : Nat) : (s.at id).tiles = s.tiles := rfl
@[simp] theorem State.at_brews (s : State) (id : Nat) : (s.at id).brews = s.brews := rfl
@[simp] theorem State.at_tlbs (s : State) (id : Nat) : (s.at id).tlbs = s.tlbs := rfl
@[simp] theorem State.at_descs (s : State) (id : Nat) : (s.at id).descs = s.descs := rfl
@[simp] theorem State.at_icache (s : State) (id : Nat) : (s.at id).icache = s.icache := rfl
@[simp] theorem State.at_ctxTable (s : State) (id : Nat) : (s.at id).ctxTable = s.ctxTable := rfl
@[simp] theorem State.at_streamTable (s : State) (id : Nat) : (s.at id).streamTable = s.streamTable := rfl
@[simp] theorem State.at_rings (s : State) (id : Nat) : (s.at id).rings = s.rings := rfl
@[simp] theorem State.at_hostWrites (s : State) (id : Nat) : (s.at id).hostWrites = s.hostWrites := rfl
@[simp] theorem State.at_slices (s : State) (id : Nat) : (s.at id).slices = s.slices := rfl
@[simp] theorem State.at_codeLevel (s : State) (id : Nat) : (s.at id).codeLevel = s.codeLevel := rfl
@[simp] theorem State.at_replies (s : State) (id : Nat) : (s.at id).replies = s.replies := rfl
@[simp] theorem State.at_tlbinvHolds (s : State) (id : Nat) : (s.at id).tlbinvHolds = s.tlbinvHolds := rfl
@[simp] theorem State.at_markers (s : State) (id : Nat) : (s.at id).markers = s.markers := rfl
@[simp] theorem State.at_cycleTraps (s : State) (id : Nat) : (s.at id).cycleTraps = s.cycleTraps := rfl
@[simp] theorem State.at_sys (s : State) (id : Nat) : (s.at id).sys = s.sys := rfl
@[simp] theorem State.at_stashSplit (s : State) (id : Nat) : (s.at id).stashSplit = s.stashSplit := rfl
@[simp] theorem State.at_emergency (s : State) (id : Nat) : (s.at id).emergency = s.emergency := rfl
@[simp] theorem State.at_rounds (s : State) (id : Nat) : (s.at id).rounds = s.rounds := rfl
@[simp] theorem State.at_loopBuffers (s : State) (id : Nat) : (s.at id).loopBuffers = s.loopBuffers := rfl
@[simp] theorem State.at_fenced (s : State) (id : Nat) : (s.at id).fenced = s.fenced := rfl
@[simp] theorem State.at_haltedFronts (s : State) (id : Nat) : (s.at id).haltedFronts = s.haltedFronts := rfl
@[simp] theorem State.at_lastErrors (s : State) (id : Nat) : (s.at id).lastErrors = s.lastErrors := rfl
@[simp] theorem State.at_thermal (s : State) (id : Nat) : (s.at id).thermal = s.thermal := rfl
@[simp] theorem State.at_quotingPaused (s : State) (id : Nat) : (s.at id).quotingPaused = s.quotingPaused := rfl
@[simp] theorem State.at_poisoned (s : State) (id : Nat) : (s.at id).poisoned = s.poisoned := rfl
@[simp] theorem State.at_seq (s : State) (id : Nat) : (s.at id).seq = s.seq := rfl
@[simp] theorem State.at_fresh (s : State) (id : Nat) : (s.at id).fresh = s.fresh := rfl
@[simp] theorem State.at_agenda (s : State) (id : Nat) : (s.at id).agenda = s.agenda := rfl

@[simp] theorem State.setBlock_ns (s : State) (b : Block) : (s.setBlock b).ns = s.ns := rfl
@[simp] theorem State.setBlock_teams (s : State) (b : Block) : (s.setBlock b).teams = s.teams := rfl
@[simp] theorem State.setBlock_cur (s : State) (b : Block) : (s.setBlock b).cur = s.cur := rfl
@[simp] theorem State.setBlock_launches (s : State) (b : Block) : (s.setBlock b).launches = s.launches := rfl
@[simp] theorem State.setBlock_nextQid (s : State) (b : Block) : (s.setBlock b).nextQid = s.nextQid := rfl
@[simp] theorem State.setBlock_images (s : State) (b : Block) : (s.setBlock b).images = s.images := rfl
@[simp] theorem State.setBlock_mem (s : State) (b : Block) : (s.setBlock b).mem = s.mem := rfl
@[simp] theorem State.setBlock_stores (s : State) (b : Block) : (s.setBlock b).stores = s.stores := rfl
@[simp] theorem State.setBlock_tiles (s : State) (b : Block) : (s.setBlock b).tiles = s.tiles := rfl
@[simp] theorem State.setBlock_brews (s : State) (b : Block) : (s.setBlock b).brews = s.brews := rfl
@[simp] theorem State.setBlock_tlbs (s : State) (b : Block) : (s.setBlock b).tlbs = s.tlbs := rfl
@[simp] theorem State.setBlock_descs (s : State) (b : Block) : (s.setBlock b).descs = s.descs := rfl
@[simp] theorem State.setBlock_icache (s : State) (b : Block) : (s.setBlock b).icache = s.icache := rfl
@[simp] theorem State.setBlock_ctxTable (s : State) (b : Block) : (s.setBlock b).ctxTable = s.ctxTable := rfl
@[simp] theorem State.setBlock_streamTable (s : State) (b : Block) : (s.setBlock b).streamTable = s.streamTable := rfl
@[simp] theorem State.setBlock_rings (s : State) (b : Block) : (s.setBlock b).rings = s.rings := rfl
@[simp] theorem State.setBlock_hostWrites (s : State) (b : Block) : (s.setBlock b).hostWrites = s.hostWrites := rfl
@[simp] theorem State.setBlock_slices (s : State) (b : Block) : (s.setBlock b).slices = s.slices := rfl
@[simp] theorem State.setBlock_codeLevel (s : State) (b : Block) : (s.setBlock b).codeLevel = s.codeLevel := rfl
@[simp] theorem State.setBlock_replies (s : State) (b : Block) : (s.setBlock b).replies = s.replies := rfl
@[simp] theorem State.setBlock_tlbinvHolds (s : State) (b : Block) : (s.setBlock b).tlbinvHolds = s.tlbinvHolds := rfl
@[simp] theorem State.setBlock_markers (s : State) (b : Block) : (s.setBlock b).markers = s.markers := rfl
@[simp] theorem State.setBlock_cycleTraps (s : State) (b : Block) : (s.setBlock b).cycleTraps = s.cycleTraps := rfl
@[simp] theorem State.setBlock_sys (s : State) (b : Block) : (s.setBlock b).sys = s.sys := rfl
@[simp] theorem State.setBlock_stashSplit (s : State) (b : Block) : (s.setBlock b).stashSplit = s.stashSplit := rfl
@[simp] theorem State.setBlock_emergency (s : State) (b : Block) : (s.setBlock b).emergency = s.emergency := rfl
@[simp] theorem State.setBlock_rounds (s : State) (b : Block) : (s.setBlock b).rounds = s.rounds := rfl
@[simp] theorem State.setBlock_loopBuffers (s : State) (b : Block) : (s.setBlock b).loopBuffers = s.loopBuffers := rfl
@[simp] theorem State.setBlock_fenced (s : State) (b : Block) : (s.setBlock b).fenced = s.fenced := rfl
@[simp] theorem State.setBlock_haltedFronts (s : State) (b : Block) : (s.setBlock b).haltedFronts = s.haltedFronts := rfl
@[simp] theorem State.setBlock_lastErrors (s : State) (b : Block) : (s.setBlock b).lastErrors = s.lastErrors := rfl
@[simp] theorem State.setBlock_thermal (s : State) (b : Block) : (s.setBlock b).thermal = s.thermal := rfl
@[simp] theorem State.setBlock_quotingPaused (s : State) (b : Block) : (s.setBlock b).quotingPaused = s.quotingPaused := rfl
@[simp] theorem State.setBlock_poisoned (s : State) (b : Block) : (s.setBlock b).poisoned = s.poisoned := rfl
@[simp] theorem State.setBlock_seq (s : State) (b : Block) : (s.setBlock b).seq = s.seq := rfl
@[simp] theorem State.setBlock_fresh (s : State) (b : Block) : (s.setBlock b).fresh = s.fresh := rfl
@[simp] theorem State.setBlock_agenda (s : State) (b : Block) : (s.setBlock b).agenda = s.agenda := rfl

@[simp] theorem State.setLaunchOf_ns (s : State) (id : Nat) (l : Launch) : (s.setLaunchOf id l).ns = s.ns := rfl
@[simp] theorem State.setLaunchOf_teams (s : State) (id : Nat) (l : Launch) : (s.setLaunchOf id l).teams = s.teams := rfl
@[simp] theorem State.setLaunchOf_cur (s : State) (id : Nat) (l : Launch) : (s.setLaunchOf id l).cur = s.cur := rfl
@[simp] theorem State.setLaunchOf_blocks (s : State) (id : Nat) (l : Launch) : (s.setLaunchOf id l).blocks = s.blocks := rfl
@[simp] theorem State.setLaunchOf_nextQid (s : State) (id : Nat) (l : Launch) : (s.setLaunchOf id l).nextQid = s.nextQid := rfl
@[simp] theorem State.setLaunchOf_images (s : State) (id : Nat) (l : Launch) : (s.setLaunchOf id l).images = s.images := rfl
@[simp] theorem State.setLaunchOf_mem (s : State) (id : Nat) (l : Launch) : (s.setLaunchOf id l).mem = s.mem := rfl
@[simp] theorem State.setLaunchOf_stores (s : State) (id : Nat) (l : Launch) : (s.setLaunchOf id l).stores = s.stores := rfl
@[simp] theorem State.setLaunchOf_tiles (s : State) (id : Nat) (l : Launch) : (s.setLaunchOf id l).tiles = s.tiles := rfl
@[simp] theorem State.setLaunchOf_brews (s : State) (id : Nat) (l : Launch) : (s.setLaunchOf id l).brews = s.brews := rfl
@[simp] theorem State.setLaunchOf_tlbs (s : State) (id : Nat) (l : Launch) : (s.setLaunchOf id l).tlbs = s.tlbs := rfl
@[simp] theorem State.setLaunchOf_descs (s : State) (id : Nat) (l : Launch) : (s.setLaunchOf id l).descs = s.descs := rfl
@[simp] theorem State.setLaunchOf_icache (s : State) (id : Nat) (l : Launch) : (s.setLaunchOf id l).icache = s.icache := rfl
@[simp] theorem State.setLaunchOf_ctxTable (s : State) (id : Nat) (l : Launch) : (s.setLaunchOf id l).ctxTable = s.ctxTable := rfl
@[simp] theorem State.setLaunchOf_streamTable (s : State) (id : Nat) (l : Launch) : (s.setLaunchOf id l).streamTable = s.streamTable := rfl
@[simp] theorem State.setLaunchOf_rings (s : State) (id : Nat) (l : Launch) : (s.setLaunchOf id l).rings = s.rings := rfl
@[simp] theorem State.setLaunchOf_hostWrites (s : State) (id : Nat) (l : Launch) : (s.setLaunchOf id l).hostWrites = s.hostWrites := rfl
@[simp] theorem State.setLaunchOf_slices (s : State) (id : Nat) (l : Launch) : (s.setLaunchOf id l).slices = s.slices := rfl
@[simp] theorem State.setLaunchOf_codeLevel (s : State) (id : Nat) (l : Launch) : (s.setLaunchOf id l).codeLevel = s.codeLevel := rfl
@[simp] theorem State.setLaunchOf_replies (s : State) (id : Nat) (l : Launch) : (s.setLaunchOf id l).replies = s.replies := rfl
@[simp] theorem State.setLaunchOf_tlbinvHolds (s : State) (id : Nat) (l : Launch) : (s.setLaunchOf id l).tlbinvHolds = s.tlbinvHolds := rfl
@[simp] theorem State.setLaunchOf_markers (s : State) (id : Nat) (l : Launch) : (s.setLaunchOf id l).markers = s.markers := rfl
@[simp] theorem State.setLaunchOf_cycleTraps (s : State) (id : Nat) (l : Launch) : (s.setLaunchOf id l).cycleTraps = s.cycleTraps := rfl
@[simp] theorem State.setLaunchOf_sys (s : State) (id : Nat) (l : Launch) : (s.setLaunchOf id l).sys = s.sys := rfl
@[simp] theorem State.setLaunchOf_stashSplit (s : State) (id : Nat) (l : Launch) : (s.setLaunchOf id l).stashSplit = s.stashSplit := rfl
@[simp] theorem State.setLaunchOf_emergency (s : State) (id : Nat) (l : Launch) : (s.setLaunchOf id l).emergency = s.emergency := rfl
@[simp] theorem State.setLaunchOf_rounds (s : State) (id : Nat) (l : Launch) : (s.setLaunchOf id l).rounds = s.rounds := rfl
@[simp] theorem State.setLaunchOf_loopBuffers (s : State) (id : Nat) (l : Launch) : (s.setLaunchOf id l).loopBuffers = s.loopBuffers := rfl
@[simp] theorem State.setLaunchOf_fenced (s : State) (id : Nat) (l : Launch) : (s.setLaunchOf id l).fenced = s.fenced := rfl
@[simp] theorem State.setLaunchOf_haltedFronts (s : State) (id : Nat) (l : Launch) : (s.setLaunchOf id l).haltedFronts = s.haltedFronts := rfl
@[simp] theorem State.setLaunchOf_lastErrors (s : State) (id : Nat) (l : Launch) : (s.setLaunchOf id l).lastErrors = s.lastErrors := rfl
@[simp] theorem State.setLaunchOf_thermal (s : State) (id : Nat) (l : Launch) : (s.setLaunchOf id l).thermal = s.thermal := rfl
@[simp] theorem State.setLaunchOf_quotingPaused (s : State) (id : Nat) (l : Launch) : (s.setLaunchOf id l).quotingPaused = s.quotingPaused := rfl
@[simp] theorem State.setLaunchOf_poisoned (s : State) (id : Nat) (l : Launch) : (s.setLaunchOf id l).poisoned = s.poisoned := rfl
@[simp] theorem State.setLaunchOf_seq (s : State) (id : Nat) (l : Launch) : (s.setLaunchOf id l).seq = s.seq := rfl
@[simp] theorem State.setLaunchOf_fresh (s : State) (id : Nat) (l : Launch) : (s.setLaunchOf id l).fresh = s.fresh := rfl
@[simp] theorem State.setLaunchOf_agenda (s : State) (id : Nat) (l : Launch) : (s.setLaunchOf id l).agenda = s.agenda := rfl

@[simp] theorem State.bump_ns (s : State) : (s.bump).ns = s.ns := rfl
@[simp] theorem State.bump_teams (s : State) : (s.bump).teams = s.teams := rfl
@[simp] theorem State.bump_cur (s : State) : (s.bump).cur = s.cur := rfl
@[simp] theorem State.bump_blocks (s : State) : (s.bump).blocks = s.blocks := rfl
@[simp] theorem State.bump_launches (s : State) : (s.bump).launches = s.launches := rfl
@[simp] theorem State.bump_nextQid (s : State) : (s.bump).nextQid = s.nextQid := rfl
@[simp] theorem State.bump_images (s : State) : (s.bump).images = s.images := rfl
@[simp] theorem State.bump_mem (s : State) : (s.bump).mem = s.mem := rfl
@[simp] theorem State.bump_stores (s : State) : (s.bump).stores = s.stores := rfl
@[simp] theorem State.bump_tiles (s : State) : (s.bump).tiles = s.tiles := rfl
@[simp] theorem State.bump_brews (s : State) : (s.bump).brews = s.brews := rfl
@[simp] theorem State.bump_tlbs (s : State) : (s.bump).tlbs = s.tlbs := rfl
@[simp] theorem State.bump_descs (s : State) : (s.bump).descs = s.descs := rfl
@[simp] theorem State.bump_icache (s : State) : (s.bump).icache = s.icache := rfl
@[simp] theorem State.bump_ctxTable (s : State) : (s.bump).ctxTable = s.ctxTable := rfl
@[simp] theorem State.bump_streamTable (s : State) : (s.bump).streamTable = s.streamTable := rfl
@[simp] theorem State.bump_rings (s : State) : (s.bump).rings = s.rings := rfl
@[simp] theorem State.bump_hostWrites (s : State) : (s.bump).hostWrites = s.hostWrites := rfl
@[simp] theorem State.bump_slices (s : State) : (s.bump).slices = s.slices := rfl
@[simp] theorem State.bump_codeLevel (s : State) : (s.bump).codeLevel = s.codeLevel := rfl
@[simp] theorem State.bump_replies (s : State) : (s.bump).replies = s.replies := rfl
@[simp] theorem State.bump_tlbinvHolds (s : State) : (s.bump).tlbinvHolds = s.tlbinvHolds := rfl
@[simp] theorem State.bump_markers (s : State) : (s.bump).markers = s.markers := rfl
@[simp] theorem State.bump_cycleTraps (s : State) : (s.bump).cycleTraps = s.cycleTraps := rfl
@[simp] theorem State.bump_sys (s : State) : (s.bump).sys = s.sys := rfl
@[simp] theorem State.bump_stashSplit (s : State) : (s.bump).stashSplit = s.stashSplit := rfl
@[simp] theorem State.bump_emergency (s : State) : (s.bump).emergency = s.emergency := rfl
@[simp] theorem State.bump_rounds (s : State) : (s.bump).rounds = s.rounds := rfl
@[simp] theorem State.bump_loopBuffers (s : State) : (s.bump).loopBuffers = s.loopBuffers := rfl
@[simp] theorem State.bump_fenced (s : State) : (s.bump).fenced = s.fenced := rfl
@[simp] theorem State.bump_haltedFronts (s : State) : (s.bump).haltedFronts = s.haltedFronts := rfl
@[simp] theorem State.bump_lastErrors (s : State) : (s.bump).lastErrors = s.lastErrors := rfl
@[simp] theorem State.bump_thermal (s : State) : (s.bump).thermal = s.thermal := rfl
@[simp] theorem State.bump_quotingPaused (s : State) : (s.bump).quotingPaused = s.quotingPaused := rfl
@[simp] theorem State.bump_poisoned (s : State) : (s.bump).poisoned = s.poisoned := rfl
@[simp] theorem State.bump_fresh (s : State) : (s.bump).fresh = s.fresh := rfl
@[simp] theorem State.bump_agenda (s : State) : (s.bump).agenda = s.agenda := rfl

@[simp] theorem State.at_cur (s : State) (id : Nat) : (s.at id).cur = id := rfl
@[simp] theorem State.bump_seq (s : State) : s.bump.seq = s.seq + 1 := rfl

/-! Teams, blocks and launches after an update. -/

@[simp] theorem State.teamOf_setTeamOf_same (s : State) (id : Nat) (t : Team) : (s.setTeamOf id t).teamOf id = t := by
  simp [State.teamOf, State.setTeamOf]
theorem State.teamOf_setTeamOf_other (s : State) {id j : Nat} (t : Team) (h : j ≠ id) :
    (s.setTeamOf id t).teamOf j = s.teamOf j := Tab.get_set_other _ _ _ h
@[simp] theorem State.team_setTeam (s : State) (t : Team) : (s.setTeam t).team = t := by simp [State.team, State.setTeam]
theorem State.teamOf_setTeam_other (s : State) {j : Nat} (t : Team) (h : j ≠ s.cur) :
    (s.setTeam t).teamOf j = s.teamOf j := Tab.get_set_other _ _ _ h
@[simp] theorem State.team_bump (s : State) : s.bump.team = s.team := rfl
@[simp] theorem State.teamOf_bump (s : State) (id : Nat) : s.bump.teamOf id = s.teamOf id := rfl
@[simp] theorem State.setTeam_bump_team (s : State) (t : Team) : (s.setTeam t).bump.team = t := by
  rw [State.team_bump, State.team_setTeam]
@[simp] theorem State.launchOf_setTeam (s : State) (t : Team) (id : Nat) : (s.setTeam t).launchOf id = s.launchOf id := rfl
@[simp] theorem State.blockOf_setTeam (s : State) (t : Team) (id : Nat) : (s.setTeam t).blockOf id = s.blockOf id := rfl
@[simp] theorem State.launchOf_setLaunchOf_same (s : State) (id : Nat) (l : Launch) :
    (s.setLaunchOf id l).launchOf id = l := by simp [State.launchOf, State.setLaunchOf]
@[simp] theorem State.teamOf_setLaunchOf (s : State) (id j : Nat) (l : Launch) : (s.setLaunchOf id l).teamOf j = s.teamOf j := rfl

/-! The registers of a team. -/

@[simp] theorem Team.setS_status (t : Team) (r : SReg) (x : DWord) : (t.setS r x).status = t.status := by unfold Team.setS; split <;> rfl
@[simp] theorem Team.setS_launch (t : Team) (r : SReg) (x : DWord) : (t.setS r x).launch = t.launch := by unfold Team.setS; split <;> rfl
@[simp] theorem Team.setS_block (t : Team) (r : SReg) (x : DWord) : (t.setS r x).block = t.block := by unfold Team.setS; split <;> rfl
@[simp] theorem Team.setS_core (t : Team) (r : SReg) (x : DWord) : (t.setS r x).core = t.core := by unfold Team.setS; split <;> rfl
@[simp] theorem Team.setS_slot (t : Team) (r : SReg) (x : DWord) : (t.setS r x).slot = t.slot := by unfold Team.setS; split <;> rfl
@[simp] theorem Team.setS_tsize (t : Team) (r : SReg) (x : DWord) : (t.setS r x).tsize = t.tsize := by unfold Team.setS; split <;> rfl
@[simp] theorem Team.setS_index (t : Team) (r : SReg) (x : DWord) : (t.setS r x).index = t.index := by unfold Team.setS; split <;> rfl
@[simp] theorem Team.setS_spawner (t : Team) (r : SReg) (x : DWord) : (t.setS r x).spawner = t.spawner := by unfold Team.setS; split <;> rfl
@[simp] theorem Team.setS_rebrew (t : Team) (r : SReg) (x : DWord) : (t.setS r x).rebrew = t.rebrew := by unfold Team.setS; split <;> rfl
@[simp] theorem Team.setS_privileged (t : Team) (r : SReg) (x : DWord) : (t.setS r x).privileged = t.privileged := by unfold Team.setS; split <;> rfl
@[simp] theorem Team.setS_pc (t : Team) (r : SReg) (x : DWord) : (t.setS r x).pc = t.pc := by unfold Team.setS; split <;> rfl
@[simp] theorem Team.setS_stack (t : Team) (r : SReg) (x : DWord) : (t.setS r x).stack = t.stack := by unfold Team.setS; split <;> rfl
@[simp] theorem Team.setS_spilled (t : Team) (r : SReg) (x : DWord) : (t.setS r x).spilled = t.spilled := by unfold Team.setS; split <;> rfl
@[simp] theorem Team.setS_privEntry (t : Team) (r : SReg) (x : DWord) : (t.setS r x).privEntry = t.privEntry := by unfold Team.setS; split <;> rfl
@[simp] theorem Team.setS_held (t : Team) (r : SReg) (x : DWord) : (t.setS r x).held = t.held := by unfold Team.setS; split <;> rfl
@[simp] theorem Team.setS_ntile (t : Team) (r : SReg) (x : DWord) : (t.setS r x).ntile = t.ntile := by unfold Team.setS; split <;> rfl
@[simp] theorem Team.setS_pend (t : Team) (r : SReg) (x : DWord) : (t.setS r x).pend = t.pend := by unfold Team.setS; split <;> rfl
@[simp] theorem Team.setS_atoms (t : Team) (r : SReg) (x : DWord) : (t.setS r x).atoms = t.atoms := by unfold Team.setS; split <;> rfl
@[simp] theorem Team.setS_rels (t : Team) (r : SReg) (x : DWord) : (t.setS r x).rels = t.rels := by unfold Team.setS; split <;> rfl
@[simp] theorem Team.setS_acqs (t : Team) (r : SReg) (x : DWord) : (t.setS r x).acqs = t.acqs := by unfold Team.setS; split <;> rfl
@[simp] theorem Team.setS_keeps (t : Team) (r : SReg) (x : DWord) : (t.setS r x).keeps = t.keeps := by unfold Team.setS; split <;> rfl
@[simp] theorem Team.setS_rep (t : Team) (r : SReg) (x : DWord) : (t.setS r x).rep = t.rep := by unfold Team.setS; split <;> rfl
@[simp] theorem Team.setS_repj (t : Team) (r : SReg) (x : DWord) : (t.setS r x).repj = t.repj := by unfold Team.setS; split <;> rfl
@[simp] theorem Team.setS_inv (t : Team) (r : SReg) (x : DWord) : (t.setS r x).inv = t.inv := by unfold Team.setS; split <;> rfl
@[simp] theorem Team.setS_wait (t : Team) (r : SReg) (x : DWord) : (t.setS r x).wait = t.wait := by unfold Team.setS; split <;> rfl
@[simp] theorem Team.setS_mqueue (t : Team) (r : SReg) (x : DWord) : (t.setS r x).mqueue = t.mqueue := by unfold Team.setS; split <;> rfl
@[simp] theorem Team.setS_copies (t : Team) (r : SReg) (x : DWord) : (t.setS r x).copies = t.copies := by unfold Team.setS; split <;> rfl
@[simp] theorem Team.setS_latch (t : Team) (r : SReg) (x : DWord) : (t.setS r x).latch = t.latch := by unfold Team.setS; split <;> rfl
@[simp] theorem Team.setS_handlerRuns (t : Team) (r : SReg) (x : DWord) : (t.setS r x).handlerRuns = t.handlerRuns := by unfold Team.setS; split <;> rfl
@[simp] theorem Team.setS_hcount (t : Team) (r : SReg) (x : DWord) : (t.setS r x).hcount = t.hcount := by unfold Team.setS; split <;> rfl
@[simp] theorem Team.setS_regs_v (t : Team) (r : SReg) (x : DWord) : (t.setS r x).regs.v = t.regs.v := by unfold Team.setS; split <;> rfl
@[simp] theorem Team.setS_regs_k (t : Team) (r : SReg) (x : DWord) : (t.setS r x).regs.k = t.regs.k := by unfold Team.setS; split <;> rfl
@[simp] theorem Team.setS_regs_exec (t : Team) (r : SReg) (x : DWord) : (t.setS r x).regs.exec = t.regs.exec := by unfold Team.setS; split <;> rfl
@[simp] theorem Team.setS_regs_z (t : Team) (r : SReg) (x : DWord) : (t.setS r x).regs.z = t.regs.z := by unfold Team.setS; split <;> rfl
@[simp] theorem Team.setS_regs_cc (t : Team) (r : SReg) (x : DWord) : (t.setS r x).regs.cc = t.regs.cc := by unfold Team.setS; split <;> rfl
@[simp] theorem Team.setS_regs_fm (t : Team) (r : SReg) (x : DWord) : (t.setS r x).regs.fm = t.regs.fm := by unfold Team.setS; split <;> rfl

@[simp] theorem Team.setK_status (t : Team) (k : KReg) (m : Mask) : (t.setK k m).status = t.status := by unfold Team.setK; split <;> rfl
@[simp] theorem Team.setK_launch (t : Team) (k : KReg) (m : Mask) : (t.setK k m).launch = t.launch := by unfold Team.setK; split <;> rfl
@[simp] theorem Team.setK_block (t : Team) (k : KReg) (m : Mask) : (t.setK k m).block = t.block := by unfold Team.setK; split <;> rfl
@[simp] theorem Team.setK_core (t : Team) (k : KReg) (m : Mask) : (t.setK k m).core = t.core := by unfold Team.setK; split <;> rfl
@[simp] theorem Team.setK_slot (t : Team) (k : KReg) (m : Mask) : (t.setK k m).slot = t.slot := by unfold Team.setK; split <;> rfl
@[simp] theorem Team.setK_tsize (t : Team) (k : KReg) (m : Mask) : (t.setK k m).tsize = t.tsize := by unfold Team.setK; split <;> rfl
@[simp] theorem Team.setK_index (t : Team) (k : KReg) (m : Mask) : (t.setK k m).index = t.index := by unfold Team.setK; split <;> rfl
@[simp] theorem Team.setK_spawner (t : Team) (k : KReg) (m : Mask) : (t.setK k m).spawner = t.spawner := by unfold Team.setK; split <;> rfl
@[simp] theorem Team.setK_rebrew (t : Team) (k : KReg) (m : Mask) : (t.setK k m).rebrew = t.rebrew := by unfold Team.setK; split <;> rfl
@[simp] theorem Team.setK_privileged (t : Team) (k : KReg) (m : Mask) : (t.setK k m).privileged = t.privileged := by unfold Team.setK; split <;> rfl
@[simp] theorem Team.setK_pc (t : Team) (k : KReg) (m : Mask) : (t.setK k m).pc = t.pc := by unfold Team.setK; split <;> rfl
@[simp] theorem Team.setK_stack (t : Team) (k : KReg) (m : Mask) : (t.setK k m).stack = t.stack := by unfold Team.setK; split <;> rfl
@[simp] theorem Team.setK_spilled (t : Team) (k : KReg) (m : Mask) : (t.setK k m).spilled = t.spilled := by unfold Team.setK; split <;> rfl
@[simp] theorem Team.setK_privEntry (t : Team) (k : KReg) (m : Mask) : (t.setK k m).privEntry = t.privEntry := by unfold Team.setK; split <;> rfl
@[simp] theorem Team.setK_held (t : Team) (k : KReg) (m : Mask) : (t.setK k m).held = t.held := by unfold Team.setK; split <;> rfl
@[simp] theorem Team.setK_ntile (t : Team) (k : KReg) (m : Mask) : (t.setK k m).ntile = t.ntile := by unfold Team.setK; split <;> rfl
@[simp] theorem Team.setK_pend (t : Team) (k : KReg) (m : Mask) : (t.setK k m).pend = t.pend := by unfold Team.setK; split <;> rfl
@[simp] theorem Team.setK_atoms (t : Team) (k : KReg) (m : Mask) : (t.setK k m).atoms = t.atoms := by unfold Team.setK; split <;> rfl
@[simp] theorem Team.setK_rels (t : Team) (k : KReg) (m : Mask) : (t.setK k m).rels = t.rels := by unfold Team.setK; split <;> rfl
@[simp] theorem Team.setK_acqs (t : Team) (k : KReg) (m : Mask) : (t.setK k m).acqs = t.acqs := by unfold Team.setK; split <;> rfl
@[simp] theorem Team.setK_keeps (t : Team) (k : KReg) (m : Mask) : (t.setK k m).keeps = t.keeps := by unfold Team.setK; split <;> rfl
@[simp] theorem Team.setK_rep (t : Team) (k : KReg) (m : Mask) : (t.setK k m).rep = t.rep := by unfold Team.setK; split <;> rfl
@[simp] theorem Team.setK_repj (t : Team) (k : KReg) (m : Mask) : (t.setK k m).repj = t.repj := by unfold Team.setK; split <;> rfl
@[simp] theorem Team.setK_inv (t : Team) (k : KReg) (m : Mask) : (t.setK k m).inv = t.inv := by unfold Team.setK; split <;> rfl
@[simp] theorem Team.setK_wait (t : Team) (k : KReg) (m : Mask) : (t.setK k m).wait = t.wait := by unfold Team.setK; split <;> rfl
@[simp] theorem Team.setK_mqueue (t : Team) (k : KReg) (m : Mask) : (t.setK k m).mqueue = t.mqueue := by unfold Team.setK; split <;> rfl
@[simp] theorem Team.setK_copies (t : Team) (k : KReg) (m : Mask) : (t.setK k m).copies = t.copies := by unfold Team.setK; split <;> rfl
@[simp] theorem Team.setK_latch (t : Team) (k : KReg) (m : Mask) : (t.setK k m).latch = t.latch := by unfold Team.setK; split <;> rfl
@[simp] theorem Team.setK_handlerRuns (t : Team) (k : KReg) (m : Mask) : (t.setK k m).handlerRuns = t.handlerRuns := by unfold Team.setK; split <;> rfl
@[simp] theorem Team.setK_hcount (t : Team) (k : KReg) (m : Mask) : (t.setK k m).hcount = t.hcount := by unfold Team.setK; split <;> rfl
@[simp] theorem Team.setK_regs_v (t : Team) (k : KReg) (m : Mask) : (t.setK k m).regs.v = t.regs.v := by unfold Team.setK; split <;> rfl
@[simp] theorem Team.setK_regs_s (t : Team) (k : KReg) (m : Mask) : (t.setK k m).regs.s = t.regs.s := by unfold Team.setK; split <;> rfl
@[simp] theorem Team.setK_regs_exec (t : Team) (k : KReg) (m : Mask) : (t.setK k m).regs.exec = t.regs.exec := by unfold Team.setK; split <;> rfl
@[simp] theorem Team.setK_regs_z (t : Team) (k : KReg) (m : Mask) : (t.setK k m).regs.z = t.regs.z := by unfold Team.setK; split <;> rfl
@[simp] theorem Team.setK_regs_cc (t : Team) (k : KReg) (m : Mask) : (t.setK k m).regs.cc = t.regs.cc := by unfold Team.setK; split <;> rfl
@[simp] theorem Team.setK_regs_fm (t : Team) (k : KReg) (m : Mask) : (t.setK k m).regs.fm = t.regs.fm := by unfold Team.setK; split <;> rfl

@[simp] theorem Team.setV_status (t : Team) (r : VReg) (m : Mask) (f : Nat → Word) : (t.setV r m f).status = t.status := rfl
@[simp] theorem Team.setV_launch (t : Team) (r : VReg) (m : Mask) (f : Nat → Word) : (t.setV r m f).launch = t.launch := rfl
@[simp] theorem Team.setV_block (t : Team) (r : VReg) (m : Mask) (f : Nat → Word) : (t.setV r m f).block = t.block := rfl
@[simp] theorem Team.setV_core (t : Team) (r : VReg) (m : Mask) (f : Nat → Word) : (t.setV r m f).core = t.core := rfl
@[simp] theorem Team.setV_slot (t : Team) (r : VReg) (m : Mask) (f : Nat → Word) : (t.setV r m f).slot = t.slot := rfl
@[simp] theorem Team.setV_tsize (t : Team) (r : VReg) (m : Mask) (f : Nat → Word) : (t.setV r m f).tsize = t.tsize := rfl
@[simp] theorem Team.setV_index (t : Team) (r : VReg) (m : Mask) (f : Nat → Word) : (t.setV r m f).index = t.index := rfl
@[simp] theorem Team.setV_spawner (t : Team) (r : VReg) (m : Mask) (f : Nat → Word) : (t.setV r m f).spawner = t.spawner := rfl
@[simp] theorem Team.setV_rebrew (t : Team) (r : VReg) (m : Mask) (f : Nat → Word) : (t.setV r m f).rebrew = t.rebrew := rfl
@[simp] theorem Team.setV_privileged (t : Team) (r : VReg) (m : Mask) (f : Nat → Word) : (t.setV r m f).privileged = t.privileged := rfl
@[simp] theorem Team.setV_pc (t : Team) (r : VReg) (m : Mask) (f : Nat → Word) : (t.setV r m f).pc = t.pc := rfl
@[simp] theorem Team.setV_stack (t : Team) (r : VReg) (m : Mask) (f : Nat → Word) : (t.setV r m f).stack = t.stack := rfl
@[simp] theorem Team.setV_spilled (t : Team) (r : VReg) (m : Mask) (f : Nat → Word) : (t.setV r m f).spilled = t.spilled := rfl
@[simp] theorem Team.setV_privEntry (t : Team) (r : VReg) (m : Mask) (f : Nat → Word) : (t.setV r m f).privEntry = t.privEntry := rfl
@[simp] theorem Team.setV_held (t : Team) (r : VReg) (m : Mask) (f : Nat → Word) : (t.setV r m f).held = t.held := rfl
@[simp] theorem Team.setV_ntile (t : Team) (r : VReg) (m : Mask) (f : Nat → Word) : (t.setV r m f).ntile = t.ntile := rfl
@[simp] theorem Team.setV_pend (t : Team) (r : VReg) (m : Mask) (f : Nat → Word) : (t.setV r m f).pend = t.pend := rfl
@[simp] theorem Team.setV_atoms (t : Team) (r : VReg) (m : Mask) (f : Nat → Word) : (t.setV r m f).atoms = t.atoms := rfl
@[simp] theorem Team.setV_rels (t : Team) (r : VReg) (m : Mask) (f : Nat → Word) : (t.setV r m f).rels = t.rels := rfl
@[simp] theorem Team.setV_acqs (t : Team) (r : VReg) (m : Mask) (f : Nat → Word) : (t.setV r m f).acqs = t.acqs := rfl
@[simp] theorem Team.setV_keeps (t : Team) (r : VReg) (m : Mask) (f : Nat → Word) : (t.setV r m f).keeps = t.keeps := rfl
@[simp] theorem Team.setV_rep (t : Team) (r : VReg) (m : Mask) (f : Nat → Word) : (t.setV r m f).rep = t.rep := rfl
@[simp] theorem Team.setV_repj (t : Team) (r : VReg) (m : Mask) (f : Nat → Word) : (t.setV r m f).repj = t.repj := rfl
@[simp] theorem Team.setV_inv (t : Team) (r : VReg) (m : Mask) (f : Nat → Word) : (t.setV r m f).inv = t.inv := rfl
@[simp] theorem Team.setV_wait (t : Team) (r : VReg) (m : Mask) (f : Nat → Word) : (t.setV r m f).wait = t.wait := rfl
@[simp] theorem Team.setV_mqueue (t : Team) (r : VReg) (m : Mask) (f : Nat → Word) : (t.setV r m f).mqueue = t.mqueue := rfl
@[simp] theorem Team.setV_copies (t : Team) (r : VReg) (m : Mask) (f : Nat → Word) : (t.setV r m f).copies = t.copies := rfl
@[simp] theorem Team.setV_latch (t : Team) (r : VReg) (m : Mask) (f : Nat → Word) : (t.setV r m f).latch = t.latch := rfl
@[simp] theorem Team.setV_handlerRuns (t : Team) (r : VReg) (m : Mask) (f : Nat → Word) : (t.setV r m f).handlerRuns = t.handlerRuns := rfl
@[simp] theorem Team.setV_hcount (t : Team) (r : VReg) (m : Mask) (f : Nat → Word) : (t.setV r m f).hcount = t.hcount := rfl
@[simp] theorem Team.setV_regs_s (t : Team) (r : VReg) (m : Mask) (f : Nat → Word) : (t.setV r m f).regs.s = t.regs.s := rfl
@[simp] theorem Team.setV_regs_k (t : Team) (r : VReg) (m : Mask) (f : Nat → Word) : (t.setV r m f).regs.k = t.regs.k := rfl
@[simp] theorem Team.setV_regs_exec (t : Team) (r : VReg) (m : Mask) (f : Nat → Word) : (t.setV r m f).regs.exec = t.regs.exec := rfl
@[simp] theorem Team.setV_regs_z (t : Team) (r : VReg) (m : Mask) (f : Nat → Word) : (t.setV r m f).regs.z = t.regs.z := rfl
@[simp] theorem Team.setV_regs_cc (t : Team) (r : VReg) (m : Mask) (f : Nat → Word) : (t.setV r m f).regs.cc = t.regs.cc := rfl
@[simp] theorem Team.setV_regs_fm (t : Team) (r : VReg) (m : Mask) (f : Nat → Word) : (t.setV r m f).regs.fm = t.regs.fm := rfl

@[simp] theorem Team.setCc_status (t : Team) (x : BitVec 5) : (t.setCc x).status = t.status := rfl
@[simp] theorem Team.setCc_launch (t : Team) (x : BitVec 5) : (t.setCc x).launch = t.launch := rfl
@[simp] theorem Team.setCc_block (t : Team) (x : BitVec 5) : (t.setCc x).block = t.block := rfl
@[simp] theorem Team.setCc_core (t : Team) (x : BitVec 5) : (t.setCc x).core = t.core := rfl
@[simp] theorem Team.setCc_slot (t : Team) (x : BitVec 5) : (t.setCc x).slot = t.slot := rfl
@[simp] theorem Team.setCc_tsize (t : Team) (x : BitVec 5) : (t.setCc x).tsize = t.tsize := rfl
@[simp] theorem Team.setCc_index (t : Team) (x : BitVec 5) : (t.setCc x).index = t.index := rfl
@[simp] theorem Team.setCc_spawner (t : Team) (x : BitVec 5) : (t.setCc x).spawner = t.spawner := rfl
@[simp] theorem Team.setCc_rebrew (t : Team) (x : BitVec 5) : (t.setCc x).rebrew = t.rebrew := rfl
@[simp] theorem Team.setCc_privileged (t : Team) (x : BitVec 5) : (t.setCc x).privileged = t.privileged := rfl
@[simp] theorem Team.setCc_pc (t : Team) (x : BitVec 5) : (t.setCc x).pc = t.pc := rfl
@[simp] theorem Team.setCc_stack (t : Team) (x : BitVec 5) : (t.setCc x).stack = t.stack := rfl
@[simp] theorem Team.setCc_spilled (t : Team) (x : BitVec 5) : (t.setCc x).spilled = t.spilled := rfl
@[simp] theorem Team.setCc_privEntry (t : Team) (x : BitVec 5) : (t.setCc x).privEntry = t.privEntry := rfl
@[simp] theorem Team.setCc_held (t : Team) (x : BitVec 5) : (t.setCc x).held = t.held := rfl
@[simp] theorem Team.setCc_ntile (t : Team) (x : BitVec 5) : (t.setCc x).ntile = t.ntile := rfl
@[simp] theorem Team.setCc_pend (t : Team) (x : BitVec 5) : (t.setCc x).pend = t.pend := rfl
@[simp] theorem Team.setCc_atoms (t : Team) (x : BitVec 5) : (t.setCc x).atoms = t.atoms := rfl
@[simp] theorem Team.setCc_rels (t : Team) (x : BitVec 5) : (t.setCc x).rels = t.rels := rfl
@[simp] theorem Team.setCc_acqs (t : Team) (x : BitVec 5) : (t.setCc x).acqs = t.acqs := rfl
@[simp] theorem Team.setCc_keeps (t : Team) (x : BitVec 5) : (t.setCc x).keeps = t.keeps := rfl
@[simp] theorem Team.setCc_rep (t : Team) (x : BitVec 5) : (t.setCc x).rep = t.rep := rfl
@[simp] theorem Team.setCc_repj (t : Team) (x : BitVec 5) : (t.setCc x).repj = t.repj := rfl
@[simp] theorem Team.setCc_inv (t : Team) (x : BitVec 5) : (t.setCc x).inv = t.inv := rfl
@[simp] theorem Team.setCc_wait (t : Team) (x : BitVec 5) : (t.setCc x).wait = t.wait := rfl
@[simp] theorem Team.setCc_mqueue (t : Team) (x : BitVec 5) : (t.setCc x).mqueue = t.mqueue := rfl
@[simp] theorem Team.setCc_copies (t : Team) (x : BitVec 5) : (t.setCc x).copies = t.copies := rfl
@[simp] theorem Team.setCc_latch (t : Team) (x : BitVec 5) : (t.setCc x).latch = t.latch := rfl
@[simp] theorem Team.setCc_handlerRuns (t : Team) (x : BitVec 5) : (t.setCc x).handlerRuns = t.handlerRuns := rfl
@[simp] theorem Team.setCc_hcount (t : Team) (x : BitVec 5) : (t.setCc x).hcount = t.hcount := rfl
@[simp] theorem Team.setCc_regs_v (t : Team) (x : BitVec 5) : (t.setCc x).regs.v = t.regs.v := rfl
@[simp] theorem Team.setCc_regs_s (t : Team) (x : BitVec 5) : (t.setCc x).regs.s = t.regs.s := rfl
@[simp] theorem Team.setCc_regs_k (t : Team) (x : BitVec 5) : (t.setCc x).regs.k = t.regs.k := rfl
@[simp] theorem Team.setCc_regs_exec (t : Team) (x : BitVec 5) : (t.setCc x).regs.exec = t.regs.exec := rfl
@[simp] theorem Team.setCc_regs_z (t : Team) (x : BitVec 5) : (t.setCc x).regs.z = t.regs.z := rfl
@[simp] theorem Team.setCc_regs_fm (t : Team) (x : BitVec 5) : (t.setCc x).regs.fm = t.regs.fm := rfl

@[simp] theorem Team.setExec_status (t : Team) (m : Mask) : (t.setExec m).status = t.status := rfl
@[simp] theorem Team.setExec_launch (t : Team) (m : Mask) : (t.setExec m).launch = t.launch := rfl
@[simp] theorem Team.setExec_block (t : Team) (m : Mask) : (t.setExec m).block = t.block := rfl
@[simp] theorem Team.setExec_core (t : Team) (m : Mask) : (t.setExec m).core = t.core := rfl
@[simp] theorem Team.setExec_slot (t : Team) (m : Mask) : (t.setExec m).slot = t.slot := rfl
@[simp] theorem Team.setExec_tsize (t : Team) (m : Mask) : (t.setExec m).tsize = t.tsize := rfl
@[simp] theorem Team.setExec_index (t : Team) (m : Mask) : (t.setExec m).index = t.index := rfl
@[simp] theorem Team.setExec_spawner (t : Team) (m : Mask) : (t.setExec m).spawner = t.spawner := rfl
@[simp] theorem Team.setExec_rebrew (t : Team) (m : Mask) : (t.setExec m).rebrew = t.rebrew := rfl
@[simp] theorem Team.setExec_privileged (t : Team) (m : Mask) : (t.setExec m).privileged = t.privileged := rfl
@[simp] theorem Team.setExec_pc (t : Team) (m : Mask) : (t.setExec m).pc = t.pc := rfl
@[simp] theorem Team.setExec_stack (t : Team) (m : Mask) : (t.setExec m).stack = t.stack := rfl
@[simp] theorem Team.setExec_spilled (t : Team) (m : Mask) : (t.setExec m).spilled = t.spilled := rfl
@[simp] theorem Team.setExec_privEntry (t : Team) (m : Mask) : (t.setExec m).privEntry = t.privEntry := rfl
@[simp] theorem Team.setExec_held (t : Team) (m : Mask) : (t.setExec m).held = t.held := rfl
@[simp] theorem Team.setExec_ntile (t : Team) (m : Mask) : (t.setExec m).ntile = t.ntile := rfl
@[simp] theorem Team.setExec_pend (t : Team) (m : Mask) : (t.setExec m).pend = t.pend := rfl
@[simp] theorem Team.setExec_atoms (t : Team) (m : Mask) : (t.setExec m).atoms = t.atoms := rfl
@[simp] theorem Team.setExec_rels (t : Team) (m : Mask) : (t.setExec m).rels = t.rels := rfl
@[simp] theorem Team.setExec_acqs (t : Team) (m : Mask) : (t.setExec m).acqs = t.acqs := rfl
@[simp] theorem Team.setExec_keeps (t : Team) (m : Mask) : (t.setExec m).keeps = t.keeps := rfl
@[simp] theorem Team.setExec_rep (t : Team) (m : Mask) : (t.setExec m).rep = t.rep := rfl
@[simp] theorem Team.setExec_repj (t : Team) (m : Mask) : (t.setExec m).repj = t.repj := rfl
@[simp] theorem Team.setExec_inv (t : Team) (m : Mask) : (t.setExec m).inv = t.inv := rfl
@[simp] theorem Team.setExec_wait (t : Team) (m : Mask) : (t.setExec m).wait = t.wait := rfl
@[simp] theorem Team.setExec_mqueue (t : Team) (m : Mask) : (t.setExec m).mqueue = t.mqueue := rfl
@[simp] theorem Team.setExec_copies (t : Team) (m : Mask) : (t.setExec m).copies = t.copies := rfl
@[simp] theorem Team.setExec_latch (t : Team) (m : Mask) : (t.setExec m).latch = t.latch := rfl
@[simp] theorem Team.setExec_handlerRuns (t : Team) (m : Mask) : (t.setExec m).handlerRuns = t.handlerRuns := rfl
@[simp] theorem Team.setExec_hcount (t : Team) (m : Mask) : (t.setExec m).hcount = t.hcount := rfl
@[simp] theorem Team.setExec_regs_v (t : Team) (m : Mask) : (t.setExec m).regs.v = t.regs.v := rfl
@[simp] theorem Team.setExec_regs_s (t : Team) (m : Mask) : (t.setExec m).regs.s = t.regs.s := rfl
@[simp] theorem Team.setExec_regs_k (t : Team) (m : Mask) : (t.setExec m).regs.k = t.regs.k := rfl
@[simp] theorem Team.setExec_regs_z (t : Team) (m : Mask) : (t.setExec m).regs.z = t.regs.z := rfl
@[simp] theorem Team.setExec_regs_cc (t : Team) (m : Mask) : (t.setExec m).regs.cc = t.regs.cc := rfl
@[simp] theorem Team.setExec_regs_fm (t : Team) (m : Mask) : (t.setExec m).regs.fm = t.regs.fm := rfl

@[simp] theorem Team.setFm_status (t : Team) (x : Word) : (t.setFm x).status = t.status := rfl
@[simp] theorem Team.setFm_launch (t : Team) (x : Word) : (t.setFm x).launch = t.launch := rfl
@[simp] theorem Team.setFm_block (t : Team) (x : Word) : (t.setFm x).block = t.block := rfl
@[simp] theorem Team.setFm_core (t : Team) (x : Word) : (t.setFm x).core = t.core := rfl
@[simp] theorem Team.setFm_slot (t : Team) (x : Word) : (t.setFm x).slot = t.slot := rfl
@[simp] theorem Team.setFm_tsize (t : Team) (x : Word) : (t.setFm x).tsize = t.tsize := rfl
@[simp] theorem Team.setFm_index (t : Team) (x : Word) : (t.setFm x).index = t.index := rfl
@[simp] theorem Team.setFm_spawner (t : Team) (x : Word) : (t.setFm x).spawner = t.spawner := rfl
@[simp] theorem Team.setFm_rebrew (t : Team) (x : Word) : (t.setFm x).rebrew = t.rebrew := rfl
@[simp] theorem Team.setFm_privileged (t : Team) (x : Word) : (t.setFm x).privileged = t.privileged := rfl
@[simp] theorem Team.setFm_pc (t : Team) (x : Word) : (t.setFm x).pc = t.pc := rfl
@[simp] theorem Team.setFm_stack (t : Team) (x : Word) : (t.setFm x).stack = t.stack := rfl
@[simp] theorem Team.setFm_spilled (t : Team) (x : Word) : (t.setFm x).spilled = t.spilled := rfl
@[simp] theorem Team.setFm_privEntry (t : Team) (x : Word) : (t.setFm x).privEntry = t.privEntry := rfl
@[simp] theorem Team.setFm_held (t : Team) (x : Word) : (t.setFm x).held = t.held := rfl
@[simp] theorem Team.setFm_ntile (t : Team) (x : Word) : (t.setFm x).ntile = t.ntile := rfl
@[simp] theorem Team.setFm_pend (t : Team) (x : Word) : (t.setFm x).pend = t.pend := rfl
@[simp] theorem Team.setFm_atoms (t : Team) (x : Word) : (t.setFm x).atoms = t.atoms := rfl
@[simp] theorem Team.setFm_rels (t : Team) (x : Word) : (t.setFm x).rels = t.rels := rfl
@[simp] theorem Team.setFm_acqs (t : Team) (x : Word) : (t.setFm x).acqs = t.acqs := rfl
@[simp] theorem Team.setFm_keeps (t : Team) (x : Word) : (t.setFm x).keeps = t.keeps := rfl
@[simp] theorem Team.setFm_rep (t : Team) (x : Word) : (t.setFm x).rep = t.rep := rfl
@[simp] theorem Team.setFm_repj (t : Team) (x : Word) : (t.setFm x).repj = t.repj := rfl
@[simp] theorem Team.setFm_inv (t : Team) (x : Word) : (t.setFm x).inv = t.inv := rfl
@[simp] theorem Team.setFm_wait (t : Team) (x : Word) : (t.setFm x).wait = t.wait := rfl
@[simp] theorem Team.setFm_mqueue (t : Team) (x : Word) : (t.setFm x).mqueue = t.mqueue := rfl
@[simp] theorem Team.setFm_copies (t : Team) (x : Word) : (t.setFm x).copies = t.copies := rfl
@[simp] theorem Team.setFm_latch (t : Team) (x : Word) : (t.setFm x).latch = t.latch := rfl
@[simp] theorem Team.setFm_handlerRuns (t : Team) (x : Word) : (t.setFm x).handlerRuns = t.handlerRuns := rfl
@[simp] theorem Team.setFm_hcount (t : Team) (x : Word) : (t.setFm x).hcount = t.hcount := rfl
@[simp] theorem Team.setFm_regs_v (t : Team) (x : Word) : (t.setFm x).regs.v = t.regs.v := rfl
@[simp] theorem Team.setFm_regs_s (t : Team) (x : Word) : (t.setFm x).regs.s = t.regs.s := rfl
@[simp] theorem Team.setFm_regs_k (t : Team) (x : Word) : (t.setFm x).regs.k = t.regs.k := rfl
@[simp] theorem Team.setFm_regs_exec (t : Team) (x : Word) : (t.setFm x).regs.exec = t.regs.exec := rfl
@[simp] theorem Team.setFm_regs_z (t : Team) (x : Word) : (t.setFm x).regs.z = t.regs.z := rfl
@[simp] theorem Team.setFm_regs_cc (t : Team) (x : Word) : (t.setFm x).regs.cc = t.regs.cc := rfl

@[simp] theorem Team.setCc_cc (t : Team) (x : BitVec 5) : (t.setCc x).cc = x := rfl
@[simp] theorem Team.setExec_exec (t : Team) (m : Mask) : (t.setExec m).exec = m := rfl
@[simp] theorem Team.setFm_fm (t : Team) (x : Word) : (t.setFm x).fm = x := rfl

/-- s0 reads zero, whatever is written (R38). -/
@[simp] theorem Team.getS_zero (t : Team) : t.getS 0#6 = 0 := rfl
/-- A write to s0 is discarded (R38). -/
theorem Team.setS_zero (t : Team) (x : DWord) : t.setS 0 x = t := rfl
theorem Team.getS_of_ne (t : Team) {r : SReg} (h : r ≠ 0) : t.getS r = t.regs.s[r.toNat]'(r.isLt) := if_neg h
theorem Team.setS_of_ne (t : Team) {r : SReg} (x : DWord) (h : r ≠ 0) :
    t.setS r x = { t with regs := { t.regs with s := t.regs.s.set r.toNat x r.isLt } } := if_neg h
/-- A scalar register after a write: the value at the register written, unless it is s0. -/
theorem Team.getS_setS (t : Team) (d r : SReg) (x : DWord) :
    (t.setS d x).getS r = if r = d ∧ d ≠ 0 then x else t.getS r := by
  by_cases hd : d = 0
  · subst hd; rw [Team.setS_zero, if_neg (fun h => h.2 rfl)]
  · by_cases hr : r = 0
    · subst hr; rw [if_neg (fun h => hd h.1.symm)]; rfl
    · rw [Team.getS_of_ne _ hr, Team.getS_of_ne _ hr, Team.setS_of_ne _ _ hd]
      by_cases h : r = d
      · subst h; rw [if_pos ⟨rfl, hd⟩]; exact Vector.getElem_set_self ..
      · rw [if_neg (fun e => h e.1)]
        exact Vector.getElem_set_ne d.isLt _ (fun e => h (BitVec.eq_of_toNat_eq e.symm))
theorem Team.setK_of_ne (t : Team) {k : KReg} (m : Mask) (h : k ≠ 0) :
    t.setK k m = { t with regs := { t.regs with k := t.regs.k.set k.toNat m k.isLt } } := if_neg h
/-- A mask register after a write. No word writes k0. -/
theorem Team.getK_setK (t : Team) (d k : KReg) (m : Mask) :
    (t.setK d m).getK k = if k = d ∧ d ≠ 0 then m else t.getK k := by
  by_cases hd : d = 0
  · subst hd; rw [if_neg (fun h => h.2 rfl)]; rfl
  · rw [Team.setK_of_ne _ _ hd]
    by_cases h : k = d
    · subst h; rw [if_pos ⟨rfl, hd⟩]; exact Vector.getElem_set_self ..
    · rw [if_neg (fun e => h e.1)]
      exact Vector.getElem_set_ne d.isLt _ (fun e => h (BitVec.eq_of_toNat_eq e.symm))
/-- A lane of a vector register after a write under a mask. -/
theorem Team.getV_setV_same (t : Team) (d : VReg) (m : Mask) (f : Nat → Word) (l : Nat) (h : l < t.tsize) :
    (t.setV d m f).getV d l = if m.getLsbD l then f l else t.getV d l := by
  simp [Team.getV, Team.setV, List.getD, h]
/-- Another vector register after a write. -/
theorem Team.getV_setV_other (t : Team) (d r : VReg) (m : Mask) (f : Nat → Word) (l : Nat) (h : r ≠ d) :
    (t.setV d m f).getV r l = t.getV r l := by
  unfold Team.getV
  exact congrArg (fun (ws : List Word) => ws.getD l 0)
    (Vector.getElem_set_ne d.isLt _ (fun e => h (BitVec.eq_of_toNat_eq e.symm)))

@[simp] theorem Team.getS_setCc (t : Team) (x : BitVec 5) (r : SReg) : (t.setCc x).getS r = t.getS r := rfl
@[simp] theorem Team.getK_setCc (t : Team) (x : BitVec 5) (k : KReg) : (t.setCc x).getK k = t.getK k := rfl
@[simp] theorem Team.getV_setCc (t : Team) (x : BitVec 5) (r : VReg) (l : Nat) : (t.setCc x).getV r l = t.getV r l := rfl

/-! The flags. -/

@[simp] theorem ccZ_mkCc (b v c n z : Bool) : ccZ (mkCc b v c n z) = z := by cases b <;> cases v <;> cases c <;> cases n <;> cases z <;> rfl
@[simp] theorem ccN_mkCc (b v c n z : Bool) : ccN (mkCc b v c n z) = n := by cases b <;> cases v <;> cases c <;> cases n <;> cases z <;> rfl
@[simp] theorem ccC_mkCc (b v c n z : Bool) : ccC (mkCc b v c n z) = c := by cases b <;> cases v <;> cases c <;> cases n <;> cases z <;> rfl
@[simp] theorem ccV_mkCc (b v c n z : Bool) : ccV (mkCc b v c n z) = v := by cases b <;> cases v <;> cases c <;> cases n <;> cases z <;> rfl
@[simp] theorem ccB_mkCc (b v c n z : Bool) : ccB (mkCc b v c n z) = b := by cases b <;> cases v <;> cases c <;> cases n <;> cases z <;> rfl

end Sys2Proof.Machine
end

