-- ==== Sys2Proof/Laws/Run.lean ====
section
/-! SUPPORT. What the shared operations of Machine/Ops.lean and Machine/Operands.lean can do, said once: going on past a word,
the shared checks, and the forms that most instructions take. -/
namespace Sys2Proof.Machine

/-! Going on. -/

theorem Team.advance_sameWork (u : Team) (seq n : Nat) (sw : Bool) : u.SameWork (u.advance seq n sw) := by
  unfold Team.SameWork Team.advance
  split
  · split <;> rfl
  · rfl

theorem Team.SameWork.trans {u v w : Team} (h : u.SameWork v) (h' : v.SameWork w) : u.SameWork w := by
  unfold Team.SameWork at *
  rw [← h, ← h']

theorem Team.setCc_sameWork (u : Team) (cc : BitVec 5) : u.SameWork (u.setCc cc) := rfl

theorem Team.SameWork.withPend {u v : Team} (h : u.SameWork v) (seq : Nat) (dst : PendDst) (src : PendSrc) :
    (u.withPend seq dst src).SameWork (v.withPend seq dst src) := by
  unfold Team.SameWork at *
  rw [← h]
  rfl

theorem Team.advance_regs (u : Team) (seq n : Nat) (sw : Bool) : (u.advance seq n sw).regs = u.regs := by
  unfold Team.advance
  split
  · split <;> rfl
  · rfl

theorem Team.advance_latch (u : Team) (seq n : Nat) (sw : Bool) : (u.advance seq n sw).latch = u.latch := by
  unfold Team.advance
  split
  · split <;> rfl
  · rfl

/-- Where a team goes on depends only on its place in the program and on whether a result is pending. -/
theorem Team.WentOn.of_same (u u' : Team) (seq n : Nat) (sw : Bool) (hp : u'.pc = u.pc) (hr : u'.rep = u.rep)
    (hi : u'.inv = u.inv) (hq : u'.pend = u.pend) : u.WentOn (u'.advance seq n sw) seq n sw := by
  unfold Team.WentOn Team.advance
  rw [hr]
  split
  · split <;> simp [hp, hi, parkIf, hq]
  · simp [hp, hi, parkIf, hq]

theorem State.advance_team (s : State) (n : Nat) (sw : Bool) : (s.advance n sw).team = s.team.advance s.seq n sw := by
  simp [State.advance]

/-! The operand latch. -/

/-- A word releases the operand latch, or changes nothing (R148). -/
theorem State.touch_cases (s : State) (u : Use) :
    s.touch u = s ∨ s.touch u = s.setTeam { s.team with latch := none } ∧
      ∃ l, s.team.latch = some l ∧ u.vw.any fun r => decide (l.first ≤ r ∧ r < l.first + l.count) := by
  cases hl : s.team.latch with
  | none => exact .inl (by simp only [State.touch, hl])
  | some l =>
    by_cases h : u.lanes ≠ some 0 ∧ (u.vw.any fun r => decide (l.first ≤ r ∧ r < l.first + l.count)) = true
    · exact .inr ⟨by simp only [State.touch, hl]; exact if_pos h, l, rfl, h.2⟩
    · exact .inl (by simp only [State.touch, hl]; exact if_neg h)

theorem State.touch_of_no_write (s : State) (u : Use) (h : u.vw = []) : s.touch u = s := by
  rcases s.touch_cases u with h' | ⟨_, l, _, h'⟩
  · exact h'
  · simp [h] at h'

/-! The shared checks. -/

/-- A word whose checks find nothing runs its body (R59). -/
theorem run_of_ready (s : State) (sw : Bool) (n : Nat) (u : Use) (body : State → Res) (h : Ready s u) :
    run s sw n u body = .next ((body (s.touch u)).finish s n sw) := by
  obtain ⟨hp, hh, hm, hn⟩ := h
  simp [run, hp, hh, hm, hn]

/-- A word always has a next state. -/
theorem run_next (s : State) (sw : Bool) (n : Nat) (u : Use) (body : State → Res) : ∃ t, run s sw n u body = .next t := ⟨_, rfl⟩

/-- A word that reads or writes a register with a pending result raises HAZARD (R46). -/
theorem run_hazard (s : State) (sw : Bool) (n : Nat) (u : Use) (body : State → Res) (hp : u.pre = none)
    (h : s.team.hazard u = true) : run s sw n u body = .next (s.takeHazard (u.lanes.getD 0)) := by
  simp [run, hp, h]

/-! The frame of a word that changes only its team's registers. -/

/-- A body that leaves everything but registers and latch completes. -/
theorem completes_of_run (i : Instr) (s s' : State) (n : Nat) (sw : Bool) (u : Use) (body : State → Res) (t : Team)
    (p : Team → Team → Prop) (h : Ready s u) (hi : exec i s = run s sw n u body)
    (hb : body (s.touch u) = .ok s') (hs : s' = (s.touch u).setTeam t) (ht : s.team.SameWork t) (hpc : t.pc = s.team.pc)
    (hr : t.rep = s.team.rep) (hv : t.inv = s.team.inv) (hp : p s.team (t.advance s.seq n sw)) : Completes i s n sw p := by
  have hq : t.pend = s.team.pend := by have := congrArg Team.pend ht; exact this
  have key : ∀ s0, (s0 = s ∨ s0 = s.setTeam { s.team with latch := none }) →
      (s0.setTeam t).advance n sw = { s with teams := ((s0.teams.set s.cur t).set s.cur (t.advance s.seq n sw)) } := by
    rintro s0 (rfl | rfl) <;> simp [State.advance, State.setTeam, State.setTeamOf, State.team, State.teamOf]
  refine ⟨(s'.advance n sw), ?_, ?_⟩
  · rw [hi, run_of_ready _ _ _ _ _ h, hb]; rfl
  · have ht0 : s.touch u = s ∨ s.touch u = s.setTeam { s.team with latch := none } := by
      rcases s.touch_cases u with h | h
      · exact .inl h
      · exact .inr h.1
    have hst := key _ ht0
    rw [hs, hst]
    have hteam : ({ s with teams := (((s.touch u).teams.set s.cur t).set s.cur (t.advance s.seq n sw)) } : State).team =
        t.advance s.seq n sw := by simp [State.team, State.teamOf]
    refine ⟨rfl, ?_, ⟨fun _ => rfl, fun _ _ => rfl, rfl, rfl⟩, ?_, ?_, ?_⟩
    · intro id hid
      rcases ht0 with h0 | h0 <;>
        simp [State.teamOf, h0, Tab.get_set_other _ _ _ hid, State.setTeam, State.setTeamOf]
    · rw [hteam]
      have h1 := t.advance_sameWork s.seq n sw
      unfold Team.SameWork at *
      rw [← h1] at ht
      exact ht
    · rw [hteam]; exact Team.WentOn.of_same _ _ _ _ _ hpc hr hv hq
    · rw [hteam]; exact hp

theorem Team.setS_sameWork (u : Team) (d : SReg) (x : DWord) : u.SameWork (u.setS d x) := by
  unfold Team.SameWork Team.setS
  split <;> rfl

/-! The forms of Machine/Operands.lean. -/

/-- A scalar form writes its destination and cc, and nothing else. -/
theorem scalarOp_done (i : Instr) (s : State) (sw : Bool) (n : Nat) (d : SReg) (reads : List SReg) (r : Team → DWord)
    (cc : Team → BitVec 5) (h : Ready s { sr := reads, sw := [d] }) (hi : exec i s = scalarOp s sw n d reads r cc) :
    ScalarDone i s n sw d (r s.team) fun c => c = cc s.team := by
  have ht : s.touch { sr := reads, sw := [d] } = s := s.touch_of_no_write _ rfl
  refine completes_of_run i s _ n sw _ _ ((s.team.setS d (r s.team)).setCc (cc s.team)) _ h hi (by rw [ht]) (by rw [ht]) ?_
    (by simp) (by simp) (by simp) ?_
  · have := s.team.setS_sameWork d (r s.team)
    unfold Team.SameWork at *
    exact this
  · have hreg : ∀ q, (Team.advance ((s.team.setS d (r s.team)).setCc (cc s.team)) s.seq n sw).getS q =
        (s.team.setS d (r s.team)).getS q := by
      intro q; unfold Team.getS; rw [Team.advance_regs]; rfl
    refine ⟨?_, ?_, ?_, ?_, ?_, ⟨?_, ?_, ?_⟩, ?_⟩
    · rw [hreg, Team.getS_setS]; by_cases hd : d = 0#6
      · subst hd; simp
      · simp [hd]
    · intro q hq; rw [hreg, Team.getS_setS, if_neg]; rintro ⟨rfl, _⟩; exact hq rfl
    · unfold Team.cc; rw [Team.advance_regs]; rfl
    · intro q l _; unfold Team.getV; simp only [Team.advance_regs, Team.setCc_regs_v, Team.setS_regs_v]
    · intro q _; unfold Team.getK; simp only [Team.advance_regs, Team.setCc_regs_k, Team.setS_regs_k]
    · unfold Team.exec; rw [Team.advance_regs]; simp
    · unfold Team.fm; rw [Team.advance_regs]; simp
    · intro z; unfold Team.getZ; simp only [Team.advance_regs, Team.setCc_regs_z, Team.setS_regs_z]
    · rw [Team.advance_latch]; simp

/-- What a state reads of its team after the latch is released. -/
theorem State.touch_team (s : State) (u : Use) :
    (s.touch u).team = s.team ∨ (s.touch u).team = { s.team with latch := none } ∧
      ∃ l, s.team.latch = some l ∧ u.vw.any fun r => decide (l.first ≤ r ∧ r < l.first + l.count) := by
  rcases s.touch_cases u with h | ⟨h, hl⟩
  · exact .inl (by rw [h])
  · exact .inr ⟨by rw [h, State.team_setTeam], hl⟩

/-- A vector form writes the lanes of its set, and nothing else. -/
theorem vectorOp_done (i : Instr) (s : State) (sw : Bool) (n : Nat) (d : VReg) (k : KReg) (reads : List VReg)
    (f : Team → Nat → Word) (h : Ready s (vectorUse s d k reads)) (hi : exec i s = vectorOp s sw n d k reads f)
    (hf : f ({ s.team with latch := none } : Team) = f s.team) : VectorDone i s n sw d k (f s.team) := by
  let t0 := (s.touch (vectorUse s d k reads)).team
  have ht0 : t0 = s.team ∨ t0 = { s.team with latch := none } ∧ ∃ l, s.team.latch = some l ∧ l.first ≤ d.toNat ∧
      d.toNat < l.first + l.count := by
    rcases s.touch_team (vectorUse s d k reads) with h | ⟨h, l, hl, hw⟩
    · exact .inl h
    · exact .inr ⟨h, l, hl, by simpa [vectorUse] using hw⟩
  have hreg : t0.regs = s.team.regs ∧ t0.tsize = s.team.tsize := by rcases ht0 with h | ⟨h, _⟩ <;> rw [h] <;> exact ⟨rfl, rfl⟩
  have hf0 : f t0 = f s.team := by rcases ht0 with h | ⟨h, _⟩ <;> rw [h]; exact hf
  have hl0 : t0.lanes k = s.team.lanes k := by
    unfold Team.lanes Team.exec Team.getK; rw [hreg.1]
  have hv0 : ∀ q l, t0.getV q l = s.team.getV q l := by intro q l; unfold Team.getV; rw [hreg.1]
  refine completes_of_run i s _ n sw _ _ (t0.setV d (t0.lanes k) (f t0)) _ h hi rfl rfl ?_ ?_ ?_ ?_ ?_
  · rcases ht0 with h | ⟨h, _⟩ <;> rw [h] <;> rfl
  · rcases ht0 with h | ⟨h, _⟩ <;> rw [h] <;> rfl
  · rcases ht0 with h | ⟨h, _⟩ <;> rw [h] <;> rfl
  · rcases ht0 with h | ⟨h, _⟩ <;> rw [h] <;> rfl
  · have hV : ∀ q l, (Team.advance (t0.setV d (t0.lanes k) (f t0)) s.seq n sw).getV q l =
        (t0.setV d (t0.lanes k) (f t0)).getV q l := by intro q l; unfold Team.getV; rw [Team.advance_regs]
    refine ⟨?_, ?_, ?_, ?_, ?_, ⟨?_, ?_, ?_⟩, ?_⟩
    · intro l hl
      rw [hV, Team.getV_setV_same _ _ _ _ _ (by rw [hreg.2]; exact hl), hl0, hf0, hv0]
    · intro q l hq; rw [hV, Team.getV_setV_other _ _ _ _ _ _ (fun e => hq (by rw [e])), hv0]
    · unfold Team.cc; rw [Team.advance_regs]; simp [hreg.1]
    · intro q _; unfold Team.getS; simp only [Team.advance_regs, Team.setV_regs_s, hreg.1]
    · intro q _; unfold Team.getK; simp only [Team.advance_regs, Team.setV_regs_k, hreg.1]
    · unfold Team.exec; rw [Team.advance_regs]; simp [hreg.1]
    · unfold Team.fm; rw [Team.advance_regs]; simp [hreg.1]
    · intro z; unfold Team.getZ; simp only [Team.advance_regs, Team.setV_regs_z, hreg.1]
    · rw [Team.advance_latch, Team.setV_latch]
      rcases ht0 with h | ⟨h, hl⟩
      · exact .inl (by rw [h])
      · exact .inr ⟨by rw [h], hl⟩

theorem Team.setK_sameWork (u : Team) (d : KReg) (m : Mask) : u.SameWork (u.setK d m) := by
  unfold Team.SameWork Team.setK
  split <;> rfl

/-- A body that writes a mask register and B, and nothing else. -/
theorem maskWrite_done (i : Instr) (s : State) (sw : Bool) (u : Use) (d : KReg) (m : Mask) (hw : u.vw = []) (h : Ready s u)
    (hd : d ≠ 0#3) (body : State → Res) (hi : exec i s = run s sw 1 u body)
    (hb : body s = .ok (s.setTeam ((s.team.setK d m).setCc (flagsMask s.team.cc m)))) : MaskDone i s sw d m := by
  have ht : s.touch u = s := s.touch_of_no_write _ hw
  refine completes_of_run i s _ 1 sw u body ((s.team.setK d m).setCc (flagsMask s.team.cc m)) _ h hi (by rw [ht, hb])
    (by rw [ht]) ?_ (by simp) (by simp) (by simp) ?_
  · have := s.team.setK_sameWork d m
    unfold Team.SameWork at *
    exact this
  · have hreg : ∀ q, (Team.advance ((s.team.setK d m).setCc (flagsMask s.team.cc m)) s.seq 1 sw).getK q =
        (s.team.setK d m).getK q := by
      intro q; unfold Team.getK; rw [Team.advance_regs]; rfl
    refine ⟨?_, ?_, ?_, ?_, ?_, ⟨?_, ?_, ?_⟩, ?_⟩
    · rw [hreg, Team.getK_setK]; simp [hd]
    · intro q hq; rw [hreg, Team.getK_setK, if_neg]; rintro ⟨rfl, _⟩; exact hq rfl
    · unfold Team.cc; rw [Team.advance_regs]
      exact ⟨ccZ_mkCc .., ccN_mkCc .., ccC_mkCc .., ccV_mkCc .., ccB_mkCc ..⟩
    · intro q l _; unfold Team.getV; simp only [Team.advance_regs, Team.setCc_regs_v, Team.setK_regs_v]
    · intro q _; unfold Team.getS; simp only [Team.advance_regs, Team.setCc_regs_s, Team.setK_regs_s]
    · unfold Team.exec; rw [Team.advance_regs]; simp
    · unfold Team.fm; rw [Team.advance_regs]; simp
    · intro z; unfold Team.getZ; simp only [Team.advance_regs, Team.setCc_regs_z, Team.setK_regs_z]
    · rw [Team.advance_latch]; simp

/-- A compare writes the mask of the lanes of its set that pass, and B. -/
theorem compareOp_done (i : Instr) (s : State) (sw : Bool) (d : KReg) (a b : VReg) (k : KReg) (p : Team → Nat → Bool)
    (h : Ready s { vr := [a.toNat, b.toNat], kr := predK k, kw := [d], lanes := some (s.team.lanes k) }) (hd : d ≠ 0#3)
    (hi : exec i s = compareOp s sw d a b k p) :
    MaskDone i s sw d (maskOf s.team.tsize fun l => (s.team.lanes k).getLsbD l && p s.team l) :=
  maskWrite_done i s sw _ d _ rfl h hd _ hi rfl

/-- A mask form writes its mask and B. -/
theorem maskOp_done (i : Instr) (s : State) (sw : Bool) (d : KReg) (reads : List KReg) (f : Team → Mask)
    (h : Ready s { kr := reads, kw := [d] }) (hd : d ≠ 0#3) (hi : exec i s = maskOp s sw d reads f) :
    MaskDone i s sw d (f s.team) :=
  maskWrite_done i s sw _ d _ rfl h hd _ hi rfl

/-- A body that adds one pending result to its team, whose cc it may have changed. -/
theorem pend_done (i : Instr) (s : State) (sw : Bool) (u : Use) (dst : PendDst) (src : PendSrc) (cc : BitVec 5)
    (h : Ready s u) (body : State → Res) (hi : exec i s = run s sw 1 u body)
    (hb : body (s.touch u) = .ok (((s.touch u).setTeam ((s.touch u).team.setCc cc)).addPend dst src)) :
    PendDone i s sw dst src cc := by
  let s0 := s.touch u
  have ht0 : s0 = s ∨ s0 = s.setTeam { s.team with latch := none } := by
    rcases s.touch_cases u with h | h
    · exact .inl h
    · exact .inr h.1
  let t : Team := (s0.team.setCc cc).withPend s.seq dst src
  have hteam : s0.team.regs = s.team.regs ∧ s.team.SameWork s0.team ∧ s0.team.pc = s.team.pc ∧ s0.team.rep = s.team.rep ∧
      s0.team.inv = s.team.inv ∧ s0.team.pend = s.team.pend := by
    rcases ht0 with h | h <;> rw [h]
    · exact ⟨rfl, rfl, rfl, rfl, rfl, rfl⟩
    · rw [State.team_setTeam]; exact ⟨rfl, rfl, rfl, rfl, rfl, rfl⟩
  have hst : ∃ ts, (((s0.setTeam (s0.team.setCc cc)).addPend dst src).advance 1 sw) =
        { s with teams := ts, seq := s.seq + 1 } ∧ Tab.get Team.vacant ts s.cur = t.advance (s.seq + 1) 1 sw ∧
        ∀ id, id ≠ s.cur → Tab.get Team.vacant ts id = s.teamOf id := by
    rcases ht0 with h | h <;> simp only [t, h] <;>
      refine ⟨_, rfl, ?_, ?_⟩ <;>
      simp +contextual [State.addPend, State.setTeam, State.setTeamOf, State.team, State.teamOf, State.bump,
        Team.withPend, Tab.get_set]
  obtain ⟨ts, hts, hcur, hoth⟩ := hst
  have hT : ({ s with teams := ts, seq := s.seq + 1 } : State).team = t.advance (s.seq + 1) 1 sw := hcur
  refine ⟨{ s with teams := ts, seq := s.seq + 1 }, ?_, rfl, rfl, fun id hid => hoth id hid,
    ⟨fun _ => rfl, fun _ _ => rfl, rfl, rfl⟩, ?_, ?_, ?_, ?_, ?_, ?_, ⟨?_, ?_, ?_⟩⟩
  · rw [hi, run_of_ready _ _ _ _ _ h, hb]
    show Host.Outcome.next (State.advance _ 1 sw) = _
    rw [hts]
  · rw [hT]
    exact ((hteam.2.1.trans (Team.setCc_sameWork _ cc)).withPend s.seq dst src).trans (t.advance_sameWork (s.seq + 1) 1 sw)
  · rw [hT]
    exact Team.WentOn.of_same _ _ _ _ _ hteam.2.2.1 hteam.2.2.2.1 hteam.2.2.2.2.1
      (by show s0.team.pend ++ _ = _; rw [hteam.2.2.2.2.2]; rfl)
  all_goals rw [hT]
  · unfold Team.cc; rw [Team.advance_regs]; rfl
  · intro q l _; unfold Team.getV; rw [Team.advance_regs]; show (s0.team.regs.v[q.toNat]).getD l 0 = _; rw [hteam.1]
  · intro q _; unfold Team.getS; rw [Team.advance_regs]; show (if q = 0 then 0 else s0.team.regs.s[q.toNat]) = _; rw [hteam.1]
  · intro q _; unfold Team.getK; rw [Team.advance_regs]; show s0.team.regs.k[q.toNat] = _; rw [hteam.1]
  · unfold Team.exec; rw [Team.advance_regs]; show s0.team.regs.exec = _; rw [hteam.1]
  · unfold Team.fm; rw [Team.advance_regs]; show s0.team.regs.fm = _; rw [hteam.1]
  · intro z; unfold Team.getZ; rw [Team.advance_regs]; show s0.team.regs.z[z.toNat] = _; rw [hteam.1]

end Sys2Proof.Machine
end

