-- ==== Sys2Proof/Tests/Slice0.lean ====
section
/-! SUPPORT. Checks of this row's own: terms that WellFormed refuses, words written out from the encoding tables, and for every
statement with hypotheses a state and operands that meet them, clause by clause. -/
namespace Sys2Proof.Tests
open Sys2Proof.Machine
set_option maxRecDepth 20000
set_option exponentiation.threshold 1100

/-! A small machine to stand on: one team of 64 lanes on core 0, tensors 1 to 4 (ordinary, read-only, recomputable, compressed),
and one page that maps the first GiB onto itself, with a small page after it that backs tensor 2. -/

/-- The words of a descriptor of 32 rows of 16 FP32 elements. -/
def descOf (flags : DWord) (base pitch cbase index recipe : DWord) : List DWord :=
  [base, 0x1000000020, pitch, 0x3100000 ||| (flags <<< 16), index, cbase, recipe, 0]

/-- The team that issues in the small machine. -/
def demo : State :=
  let s := (State.reset.withFetchWord 32 0).at 1
  { s with
    ctxTable := [(16, 16)],
    tlbs := [(.pins, { asid := 0, va := 0, size := 2 ^ 30, pa := 0, perm := 7 }),
             (.pins, { asid := 0, va := 2 ^ 30, size := 65536, pa := 2 ^ 30, perm := 7 })],
    descs := [{ ctx := 0, tensor := 1, words := descOf 0 0x200000 64 0 0 0 },
              { ctx := 0, tensor := 2, words := descOf 8 0x40000000 64 0 0 0 },
              { ctx := 0, tensor := 3, words := descOf 2 0 0 0 0 0x300000 },
              { ctx := 0, tensor := 4, words := descOf 9 0 0 0x400000 0x410000 0 }] }

/-- The small machine with its team changed. -/
def on (f : Team → Team) : State := demo.setTeam (f demo.team)

/-- The small machine with scalar registers set. -/
def withS (xs : List (SReg × DWord)) : State := on fun u => xs.foldl (fun u x => u.setS x.1 x.2) u

/-- Every lane holds x in v[r]. -/
def fillV (r : Nat) (x : Word) (u : Team) : Team := u.setV (BitVec.ofNat 6 r) (allLanes 64) fun _ => x

/-! Terms that the encoding tables do not admit: one for each check of WellFormed, and one that it lets pass beside it. -/

theorem test_wf_fields :
    ([.ssel false 1 2 3 15, .sbfx false 1 2 40 24, .sbfi false 1 2 63 1, .smovSpecial false 1 0, .smovSpecial false 1 15,
      .vbfxU false 1 2 31 1, .vbfxS false 1 2 20 12, .vbfi false 1 2 31 1, .unpack false 1 2 0 1, .unpack false 1 2 3 4,
      .pref false 1 2 3, .fen false 6 1, .fen false 0 0, .cpym false 0 1 2 3] : List Instr).all (fun i => !WellFormed i) = true ∧
    ([.ssel false 1 2 3 14, .sbfx false 1 2 40 23, .sbfi false 1 2 63 0, .smovSpecial false 1 14, .vbfxU false 1 2 31 0,
      .vbfxS false 1 2 20 11, .vbfi false 1 2 31 0, .unpack false 1 2 0 0, .unpack false 1 2 3 3, .unpack false 1 2 12 7,
      .pref false 1 2 2, .fen false 5 3, .cpym false 1 1 2 3] : List Instr).all WellFormed = true := by decide
theorem test_wf_masks :
    ([.vcmpEq false 0 1 2 3, .vcmpNe false 0 1 2 3, .vcmpLt false 0 1 2 3, .vcmpLe false 0 1 2 3, .vcmpLtu false 0 1 2 3,
      .vcmpLeu false 0 1 2 3, .fcmpEq false 0 1 2 3, .fcmpNe false 0 1 2 3, .fcmpLt false 0 1 2 3, .fcmpLe false 0 1 2 3,
      .fcmpUn false 0 1 2 3, .fcmpOrd false 0 1 2 3, .ballot false 0 1 2, .kand false 0 1 2, .kor false 0 1 2, .kxor false 0 1 2,
      .kandn false 0 1 2, .knot false 0 1, .kmov false 0 1, .kset false 0 4, .kset false 1 1025] : List Instr).all
      (fun i => !WellFormed i) = true ∧
    ([.vcmpEq false 1 1 2 0, .fcmpOrd false 7 1 2 0, .ballot false 1 1 0, .kmov false 1 0, .kset false 1 1024] : List Instr).all
      WellFormed = true := by decide
theorem test_wf_registers :
    ([.ld false 5 1 2 3 0 false, .st false 5 1 2 3 0 false, .sld false 5 1 2 3 false, .sst false 5 1 2 3 false, .pld false 5 1 2 3,
      .pst false 5 1 2 3, .pld false 4 1 2 1, .pst false 4 1 2 0, .tld false 6 1 2 3, .tst false 5 1 2 3, .rput false 2,
      .amoAdd false 5 1 2 true 0, .redXor false 5 1 2 true false, .amocas false 5 1 2 false 0, .amocas false 6 1 2 true 0,
      .mmaBf16 false 0 6 1 false, .mmaF16 false 0 2 1 false, .mmaI8 false 0 5 1 false, .mmaH16 false 0 7 1 false,
      .mmaF8 false 0 12 1 false, .mmaF4 false 0 4 1 false, .tsa false 0 3 1 false,
      .mmlBf16 false 0 4 1 false 0 4 0, .mmlF16 false 0 4 1 false 2 2 0, .mmlI8 false 0 60 1 false 2 4 0,
      .mmlH16 false 0 4 1 false 3 (-4) 0, .mmlF8 false 0 4 1 false 1 8 0, .mmlF4 false 0 8 1 false 2 4 0,
      .tsl false 0 2 1 false 2 1 0] : List Instr).all (fun i => !WellFormed i) = true ∧
    ([.ld false 5 1 2 2 0 false, .ld false 4 1 2 3 0 false, .pld false 5 1 2 2, .tld false 8 1 2 3, .amoAdd false 5 1 2 false 0,
      .amocas false 6 1 2 false 0, .amocas false 4 1 2 true 0, .mmaBf16 false 0 4 1 false, .mmaF8 false 0 8 1 false,
      .tsa false 0 2 1 false, .mmlBf16 false 0 4 1 false 2 (-4) 0, .mmlF8 false 0 8 1 false 6 8 0, .tsl false 0 2 1 false 2 2 0] :
      List Instr).all WellFormed = true := by decide
theorem test_wf_control :
    ([.bwtC false 1 0, .bwtM false 1 0, .cwait false 1 2 0, .br false 0, .bmz false 0 0, .bmnz false 0 0, .call false 0,
      .spawn false 0, .bcc false 0 1, .bcc false 15 1, .bcc false 1 0, .mif false 1 0, .mif false 1 (-1), .melse false (-1),
      .lpb false 1 0 1 0, .lpb false 1 1 0 0, .lpbW false 0 1 0, .lpbW false 1 0 0, .lpe false 0, .lpe false 1, .barArr false 3 0,
      .barArr false 1 4, .barWt false 2 2 1, .barSync false 0 0 0, .racq false 0, .rrel false 0,
      .inv 1 2 3 0 false 1 4 0, .inv 1 2 2 0 false 3 4 0] : List Instr).all (fun i => !WellFormed i) = true ∧
    ([.bwtC false 1 1, .cwait false 1 2 1, .br false (-1), .bmz false 0 1, .bcc false 14 1, .mif false 1 1, .lpb false 1 1 1 0,
      .lpe false (-1), .barArr false 1 3, .barArr false 0 7, .barWt false 2 1 1, .racq false 7, .inv 1 2 3 0 false 4 5 15] :
      List Instr).all WellFormed = true := by decide
/-- The fates of the words that the opcode map lists (R59, R65, R68). -/
theorem test_fates :
    decode 0x7F000000 [] = .error .opcode ∧ decode 0x1F000000 [] = .error .opcode ∧ decode 0x000C4146 [] = .error .function ∧
    decode 0x000C4150 [] = .error .field ∧ decode 0x3D001080 [] = .error .field ∧
    decode 0x50102040 [] = .error .function ∧ decode 0x301870C0 [] = .ok (.instr (.cvt false 6 7 0 12)) ∧
    decode 0x7A0C0FFF [] = .ok (.instr (.sysr false 3 0xFFF)) := by and_intros <;> rfl

/-! Words written out from the encoding tables of R33, R37 and R62 to R74, and what they stand for: every form at least once. -/

/-- A word, with the literals that are marked after it, stands for an instruction. -/
def means (x : Word × List Word × Instr) : Bool := match decode x.1 x.2.1 with | .ok d => d.names x.2.2 | .error _ => false
/-- The scalar integer (R62) forms. -/
theorem decodes_scalar : (([
    (0x000C4140, [], .sadd false 3 4 5), (0x000C4141, [], .ssub false 3 4 5), (0x000C4142, [], .smul false 3 4 5),
    (0x000C4143, [], .smulh false 3 4 5), (0x000C4144, [], .smulhU false 3 4 5), (0x00004145, [], .scmp false 4 5),
    (0x010C4064, [], .saddImm false 3 4 (.field 100)), (0x010C4000, [0x9], .saddImm false 3 4 (.lit 9)),
    (0x020C4140, [], .sdiv false 3 4 5), (0x020C4141, [], .sdivU false 3 4 5), (0x020C4142, [], .srem false 3 4 5),
    (0x020C4143, [], .sremU false 3 4 5), (0x030C4140, [], .sand false 3 4 5), (0x030C4141, [], .sor false 3 4 5),
    (0x030C4142, [], .sxor false 3 4 5), (0x030C4143, [], .sshl false 3 4 5), (0x030C4144, [], .sshr false 3 4 5),
    (0x030C4145, [], .ssar false 3 4 5), (0x040C4F0F, [], .sandImm false 3 4 (.field 0xF0F)),
    (0x050C4F0F, [], .sorImm false 3 4 (.field 0xF0F)), (0x060C4021, [], .sshlImm false 3 4 33),
    (0x060C4061, [], .sshrImm false 3 4 33), (0x060C40A1, [], .ssarImm false 3 4 33),
    (0x070C4140, [], .smin false 3 4 5)
    ] : List (Word × List Word × Instr)).all means) = true := by decide
/-- The scalar integer (R62) forms, continued. -/
theorem decodes_scalar2 : (([
    (0x070C4141, [], .smax false 3 4 5), (0x070C4142, [], .sminU false 3 4 5), (0x070C4143, [], .smaxU false 3 4 5),
    (0x080C414E, [], .ssel false 3 4 5 14), (0x090C4A17, [], .sbfx false 3 4 40 23),
    (0x0A0C4A17, [], .sbfi false 3 4 40 23), (0x0B0C4000, [], .spopc false 3 4), (0x0B0C4001, [], .sclz false 3 4),
    (0x0B0C4002, [], .smov false 3 4), (0x0C0FFFFF, [], .smovi false 3 (.field 0x3FFFF)),
    (0x0D0D2345, [], .slui false 3 (.field 0x12345)), (0x0E0C000E, [], .smovSpecial false 3 14)
    ] : List (Word × List Word × Instr)).all means) = true := by decide
/-- The vector integer (R63) forms. -/
theorem decodes_vectorInt : (([
    (0x100C4150, [], .vadd false 3 4 5 2), (0x100C4151, [], .vsub false 3 4 5 2),
    (0x100C4152, [], .vadds false 3 4 5 2), (0x100C4153, [], .vsubs false 3 4 5 2),
    (0x100C4154, [], .vaddsU false 3 4 5 2), (0x100C4155, [], .vsubsU false 3 4 5 2),
    (0x110C4150, [], .vmul false 3 4 5 2), (0x110C4151, [], .vmulh false 3 4 5 2),
    (0x110C4152, [], .vmulhU false 3 4 5 2), (0x120C4150, [], .vand false 3 4 5 2),
    (0x120C4151, [], .vor false 3 4 5 2), (0x120C4152, [], .vxor false 3 4 5 2),
    (0x120C4153, [], .vshl false 3 4 5 2), (0x120C4154, [], .vshr false 3 4 5 2),
    (0x120C4155, [], .vsar false 3 4 5 2), (0x130C4150, [], .vmin false 3 4 5 2),
    (0x130C4151, [], .vmax false 3 4 5 2), (0x130C4152, [], .vminU false 3 4 5 2),
    (0x130C4153, [], .vmaxU false 3 4 5 2), (0x130C4014, [], .vabs false 3 4 2),
    (0x140C4146, [], .vmad false 3 4 5 6), (0x150C4146, [], .vdot4 false 3 4 5 6),
    (0x160C4146, [], .vdot4U false 3 4 5 6), (0x171C4150, [], .vcmpEq false 7 4 5 2)
    ] : List (Word × List Word × Instr)).all means) = true := by decide
/-- The vector integer (R63) forms, continued. -/
theorem decodes_vectorInt2 : (([
    (0x171C4151, [], .vcmpNe false 7 4 5 2), (0x171C4152, [], .vcmpLt false 7 4 5 2),
    (0x171C4153, [], .vcmpLe false 7 4 5 2), (0x171C4154, [], .vcmpLtu false 7 4 5 2),
    (0x171C4155, [], .vcmpLeu false 7 4 5 2), (0x180C4156, [], .vsel false 3 4 5 2 6),
    (0x190C4136, [], .vbfxU false 3 4 9 22), (0x190C4536, [], .vbfxS false 3 4 9 22),
    (0x1A0C4136, [], .vbfi false 3 4 9 22), (0x1B0C4010, [], .vpopc false 3 4 2), (0x1B0C4011, [], .vclz false 3 4 2),
    (0x1B0C4012, [], .vmov false 3 4 2), (0x1C0C004D, [], .vmovi false 3 (.field 77)),
    (0x1D0C0000, [], .vmovLane false 3), (0x1E0C404D, [], .vaddImm false 3 4 (.field 77))
    ] : List (Word × List Word × Instr)).all means) = true := by decide
/-- The vector float (R64) forms. -/
theorem decodes_vectorFloat : (([
    (0x200C4156, [], .fadd false 3 4 5 2 6), (0x210C4156, [], .fsub false 3 4 5 2 6),
    (0x220C4156, [], .fmul false 3 4 5 2 6), (0x240C4156, [], .fmin false 3 4 5 2 6),
    (0x250C4156, [], .fmax false 3 4 5 2 6), (0x290C4156, [], .fdiv false 3 4 5 2 6),
    (0x230C4146, [], .fma false 3 4 5 6), (0x261C4150, [], .fcmpEq false 7 4 5 2),
    (0x261C4151, [], .fcmpNe false 7 4 5 2), (0x261C4152, [], .fcmpLt false 7 4 5 2),
    (0x261C4153, [], .fcmpLe false 7 4 5 2), (0x261C4154, [], .fcmpUn false 7 4 5 2),
    (0x261C4155, [], .fcmpOrd false 7 4 5 2), (0x270C4010, [], .fclass false 3 4 2),
    (0x280C4013, [], .frcp false 3 4 2 3), (0x280C4053, [], .frsq false 3 4 2 3),
    (0x280C4093, [], .fsqrt false 3 4 2 3), (0x280C40D3, [], .fexp2 false 3 4 2 3),
    (0x280C4113, [], .flog2 false 3 4 2 3), (0x280C4153, [], .fsin false 3 4 2 3),
    (0x280C4193, [], .fcos false 3 4 2 3), (0x280C41D3, [], .ftanh false 3 4 2 3),
    (0x2A0C4000, [], .froundRn false 3 4), (0x2A0C4001, [], .froundRz false 3 4)
    ] : List (Word × List Word × Instr)).all means) = true := by decide
/-- The vector float (R64) forms, continued. -/
theorem decodes_vectorFloat2 : (([
    (0x2A0C4002, [], .froundRu false 3 4), (0x2A0C4003, [], .froundRd false 3 4), (0x2A0C4004, [], .fround false 3 4)
    ] : List (Word × List Word × Instr)).all means) = true := by decide
/-- The conversion and format (R65) forms. -/
theorem decodes_formats : (([
    (0x300C4120, [], .cvt false 3 4 1 2), (0x310C4150, [], .pack2 false 3 4 5 2),
    (0x320C4146, [], .pack4 false 3 4 5 6), (0x330C4302, [], .unpack false 3 4 3 2),
    (0x340C4150, [], .bscale false 3 4 5 2), (0x350C4150, [], .bapply false 3 4 5 2),
    (0x3602ABCD, [], .fmsetImm false 0x2ABCD), (0x37004000, [], .fmset false 4), (0x370C0001, [], .fmget false 3)
    ] : List (Word × List Word × Instr)).all means) = true := by decide
/-- The cross-lane and mask (R66) forms. -/
theorem decodes_lanes : (([
    (0x380C4150, [], .shflIdx false 3 4 5 2), (0x380C4151, [], .shflXor false 3 4 5 2),
    (0x380C4152, [], .shflUp false 3 4 5 2), (0x380C4153, [], .shflDn false 3 4 5 2),
    (0x390C4150, [], .bcast false 3 4 5 2), (0x3A0C4010, [], .rdcAdd false 3 4 2),
    (0x3B0C4010, [], .scanAdd false 3 4 2), (0x3A0C4011, [], .rdcMin false 3 4 2),
    (0x3B0C4011, [], .scanMin false 3 4 2), (0x3A0C4012, [], .rdcMax false 3 4 2),
    (0x3B0C4012, [], .scanMax false 3 4 2), (0x3A0C4013, [], .rdcMinU false 3 4 2),
    (0x3B0C4013, [], .scanMinU false 3 4 2), (0x3A0C4014, [], .rdcMaxU false 3 4 2),
    (0x3B0C4014, [], .scanMaxU false 3 4 2), (0x3A0C4015, [], .rdcFadd false 3 4 2),
    (0x3B0C4015, [], .scanFadd false 3 4 2), (0x3A0C4016, [], .rdcFmin false 3 4 2),
    (0x3B0C4016, [], .scanFmin false 3 4 2), (0x3A0C4017, [], .rdcFmax false 3 4 2),
    (0x3B0C4017, [], .scanFmax false 3 4 2), (0x3C0C4010, [], .voteAny false 3 4 2),
    (0x3C0C4011, [], .voteAll false 3 4 2), (0x3C0C4012, [], .voteUni false 3 4 2)
    ] : List (Word × List Word × Instr)).all means) = true := by decide
/-- The cross-lane and mask (R66) forms, continued. -/
theorem decodes_lanes2 : (([
    (0x3C0C4013, [], .ballot false 3 4 2), (0x3D0C4140, [], .kand false 3 4 5), (0x3D0C4141, [], .kor false 3 4 5),
    (0x3D0C4142, [], .kxor false 3 4 5), (0x3D0C4143, [], .kandn false 3 4 5), (0x3D0C4004, [], .knot false 3 4),
    (0x3D0C4005, [], .kmov false 3 4), (0x3E0C4000, [], .kpop false 3 4), (0x3E0C4001, [], .kfirst false 3 4),
    (0x3F0C0400, [], .kset false 3 1024)
    ] : List (Word × List Word × Instr)).all means) = true := by decide
/-- The memory (R67) forms. -/
theorem decodes_memory : (([
    (0x401051B9, [], .ld false 4 5 6 3 2 true), (0x411051BA, [], .st false 4 5 6 3 2 true),
    (0x421051B1, [], .sld false 4 5 6 3 true), (0x431051B2, [], .sst false 4 5 6 3 true),
    (0x441051B0, [], .pld false 4 5 6 3), (0x451051B0, [], .pst false 4 5 6 3), (0x46204146, [], .tld false 8 4 5 6),
    (0x47204146, [], .tst false 8 4 5 6), (0x48004146, [], .smap false 4 5 6), (0x49004140, [], .sunmap false 4 5),
    (0x4A005188, [], .pref false 5 6 2), (0x4B004146, [], .discard false 4 5 6),
    (0x4C004146, [], .lastuse false 4 5 6), (0x4D004140, [], .cwb false 4 5)
    ] : List (Word × List Word × Instr)).all means) = true := by decide
/-- The atomic, reduction and fence (R68) forms. -/
theorem decodes_atomics : (([
    (0x501051B3, [], .amoAdd false 4 5 6 true 3), (0x531051A2, [], .redAdd false 4 5 6 false true),
    (0x501051B7, [], .amoMin false 4 5 6 true 3), (0x531051A6, [], .redMin false 4 5 6 false true),
    (0x501051BB, [], .amoMax false 4 5 6 true 3), (0x531051AA, [], .redMax false 4 5 6 false true),
    (0x501051BF, [], .amoAnd false 4 5 6 true 3), (0x531051AE, [], .redAnd false 4 5 6 false true),
    (0x511051B3, [], .amoOr false 4 5 6 true 3), (0x511051B7, [], .amoXor false 4 5 6 true 3),
    (0x511051BB, [], .amoXchg false 4 5 6 true 3), (0x511051AD, [], .amoFadd false 4 5 6 1),
    (0x521051B3, [], .amocas false 4 5 6 true 3), (0x521851A0, [], .amocas false 6 5 6 false 0),
    (0x541051B0, [], .redOr false 4 5 6 true false), (0x541051B4, [], .redXor false 4 5 6 true false),
    (0x541051AA, [], .redFadd false 4 5 6 true), (0x55000017, [], .fen false 5 3), (0x56000000, [], .ifen false)
    ] : List (Word × List Word × Instr)).all means) = true := by decide
/-- The copy-engine (R69) forms. -/
theorem decodes_copies : (([
    (0x58044146, [], .cpy false false true 4 5 6), (0x58084146, [], .cpy false true false 4 5 6),
    (0x59284146, [], .cpym false 10 4 5 6), (0x5A004146, [], .cpytTs false 4 5 6),
    (0x5A044146, [], .cpytSt false 4 5 6), (0x5B0C0000, [], .bclC false 3), (0x5B0C0001, [], .bclM false 3),
    (0x5C004000, [0x1388], .bwtC false 4 5000), (0x5C004001, [0x1388], .bwtM false 4 5000),
    (0x5D0C0000, [], .bqryC false 3), (0x5D0C0001, [], .bqryM false 3)
    ] : List (Word × List Word × Instr)).all means) = true := by decide
/-- The matrix (R70, R146) forms. -/
theorem decodes_matrix : (([
    (0x60440B00, [], .mmaBf16 false 2 8 5 true), (0x60440A03, [0x22004000], .mmlBf16 false 2 8 5 false 3 8 0x801),
    (0x61440B00, [], .mmaF16 false 2 8 5 true), (0x61440A03, [0x22004000], .mmlF16 false 2 8 5 false 3 8 0x801),
    (0x62440B00, [], .mmaF8 false 2 8 5 true), (0x62440A03, [0x22004000], .mmlF8 false 2 8 5 false 3 8 0x801),
    (0x63440B00, [], .mmaF4 false 2 8 5 true), (0x63440A03, [0x22004000], .mmlF4 false 2 8 5 false 3 8 0x801),
    (0x64440B00, [], .mmaI8 false 2 8 5 true), (0x64440A03, [0x22004000], .mmlI8 false 2 8 5 false 3 8 0x801),
    (0x65440B00, [], .mmaH16 false 2 8 5 true), (0x65440A03, [0x22004000], .mmlH16 false 2 8 5 false 3 8 0x801),
    (0x66440B00, [], .tsa false 2 8 5 true), (0x66440A02, [0xf8004000], .tsl false 2 8 5 false 2 62 1),
    (0x67400000, [], .zclr false 2), (0x67400A01, [], .zld false 2 5), (0x67400A02, [], .zst false 2 5),
    (0x67448003, [], .zcvt false 2 9)
    ] : List (Word × List Word × Instr)).all means) = true := by decide
/-- The control (R71, R72) forms. -/
theorem decodes_control : (([
    (0x680FFFFD, [], .br false (-3)), (0x68E00007, [], .bcc false 14 7), (0x69300007, [], .bmz false 3 7),
    (0x69B00007, [], .bmnz false 3 7), (0x6A000007, [], .call false 7), (0x6B300007, [], .mif false 3 7),
    (0x6B800007, [], .melse false 7), (0x6C1C000C, [0x64, 0xc200000], .lpb false 7 12 100 0x0C200000),
    (0x6C02000C, [0x64, 0x0], .lpbW false 12 100 0), (0x6D0FFFF9, [], .lpe false (-7)), (0x6E000000, [], .mend false),
    (0x6E000019, [], .mbrk false 3), (0x6E00001A, [], .mcont false 3), (0x6F000000, [], .exit false),
    (0x6F000001, [], .nop false), (0x6F009002, [], .jmp false 9), (0x6F009003, [], .calli false 9),
    (0x6F000004, [], .ret false)
    ] : List (Word × List Word × Instr)).all means) = true := by decide
/-- The barrier, work-creation, register-block and recipe (R73) forms. -/
theorem decodes_grids : (([
    (0x70000103, [], .barArr false 1 3), (0x70000601, [0x1388], .barWt false 2 1 5000),
    (0x70000807, [0x1388], .barSync false 0 7 5000), (0x71000007, [], .spawn false 7),
    (0x720C4000, [], .launch false 3 4), (0x730C4000, [0x1388], .cwait false 3 4 5000),
    (0x74000005, [], .racq false 5), (0x74020005, [], .rrel false 5), (0x75004000, [], .tset false 4),
    (0x76200000, [], .rput false 8), (0x77004146, [], .rmat false 4 5 6), (0x77044146, [], .rdrop false 4 5 6)
    ] : List (Word × List Word × Instr)).all means) = true := by decide
/-- The system and prefix (R37, R74) forms. -/
theorem decodes_system : (([
    (0x78000007, [], .trap false 7), (0x78010007, [], .brk false 7), (0x78020000, [], .tret false),
    (0x790C0002, [], .fqry false 3 2), (0x7A0C0101, [], .sysr false 3 0x101), (0x7B004101, [], .sysw false 4 0x101),
    (0x7C000000, [], .tlbi false), (0x7C004001, [], .tlbiId false 4), (0x7C004142, [], .tlbiVa false 4 5),
    (0x7E0DB000, [], .rep 3 1 2 3 0)
    ] : List (Word × List Word × Instr)).all means) = true := by decide
/-- inv, and its literal. -/
theorem decodes_inv : means (0x7E24A2C9, [0x04220000], .inv 9 10 11 4 true 1 2 2) = true := by decide

/-! Witnesses: hypotheses of the statements on the arithmetic forms. -/

theorem witness_ScalarArithmetic : Ready demo { sr := [1, 2], sw := [3] } ∧ Ready demo { sr := [1, 2], sw := [0] } ∧
    Ready demo { sr := [1], sw := [3] } := by decide
theorem witness_ScalarDivision : (Ready demo { sr := [1, 2], sw := [3] } ∧ demo.team.getS 2 = 0) ∧
    Ready (withS [(2, 7)]) { sr := [1, 2], sw := [3] } ∧ (withS [(2, 7)]).team.getS 2 ≠ 0 := by decide
theorem witness_ScalarFieldsAndConstants : Ready demo { sr := [1], sw := [3] } ∧
    (Ready demo { sr := [1, 3], sw := [3] } ∧ (63 : BitVec 6).toNat + (0 : BitVec 6).toNat + 1 ≤ 64) ∧
    Ready demo { sw := [3] } ∧ Ready demo { sr := [3], sw := [3] } := by decide
theorem witness_VectorInteger : Ready demo (vectorUse demo 3 2 [1, 2]) ∧ Ready demo (vectorUse demo 3 2 [1]) ∧
    Ready demo (vectorUse demo 3 0 [1]) ∧ Ready demo (vectorUse demo 3 0 []) := by decide
theorem witness_VectorDotSelectAndFields : Ready demo (vectorUse demo 3 0 [1, 2, 4]) ∧
    Ready demo { vectorUse demo 3 2 [1, 2] with kr := 1 :: predK 2 } ∧
    (Ready demo (vectorUse demo 3 0 [1]) ∧ (31 : BitVec 5).toNat + (0 : BitVec 5).toNat + 1 ≤ 32) ∧
    Ready demo (vectorUse demo 3 0 [1, 3]) := by decide
theorem witness_ComparesAndVotes :
    ((1 : KReg) ≠ 0 ∧ Ready demo { vr := [1, 2], kr := predK 3, kw := [1], lanes := some (demo.team.lanes 3) }) ∧
    Ready demo { vr := [1], sw := [3], kr := predK 3, lanes := some (demo.team.lanes 3) } ∧
    Ready demo { vr := [1], kr := predK 3, kw := [1], lanes := some (demo.team.lanes 3) } := by decide
theorem witness_VectorFloat : Ready demo (vectorUse demo 3 1 [1, 2]) ∧ Ready demo (vectorUse demo 3 0 [1, 2, 4]) ∧
    Ready demo (vectorUse demo 3 1 [1]) ∧ Ready demo (vectorUse demo 3 0 [1]) := by decide

/-- Patterns of each class: an infinity, the extreme normal and subnormal values, a zero, and both kinds of NaN. -/
theorem witness_FloatClassesAndRounding :
    (let e (w : Word) : Nat := w.toNat / 2 ^ 23 % 256
     let f (w : Word) : Nat := w.toNat % 2 ^ 23
     (e 0xFF800000 = 255 ∧ f 0xFF800000 = 0) ∧ (0 < e 0x00800000 ∧ e 0x7F7FFFFF < 255) ∧ (e 0x007FFFFF = 0 ∧ f 0x007FFFFF ≠ 0) ∧
     (e 0x80000000 = 0 ∧ f 0x80000000 = 0) ∧ e 0x7F800001 = 255 ∧ f 0x7F800001 ≠ 0) ∧
    Val.fin false 1 0 ≠ .nan ∧ (0x7F800000 : Word).toNat % 2 ^ 31 ≤ 0x7F800000 := by decide
theorem witness_FloatPending : Ready demo (vectorUse demo 3 0 [1, 2]) ∧ Ready demo (vectorUse demo 3 0 [1]) ∧
    demo.team.lanes 0 ≠ 0 ∧ (on fun u => u.setExec 0).team.lanes 0 = 0 := by decide
theorem witness_FloatFixedPoints : 0 < 1 ∧ (0 : Int) ≤ 0 := by decide
theorem witness_Conversions :
    (Ready demo (vectorUse demo 3 0 [1]) ∧ Fmt.ofCode (BitVec.toNat (10 : BitVec 4)) = some .int32 ∧
      Fmt.ofCode (BitVec.toNat (0 : BitVec 4)) = some .fp32 ∧ Fmt.int32 ≠ .tern) ∧
    (demo.team.exec ≠ 0 ∧ 10 < (11 : BitVec 4).toNat) ∧
    (let s := on fun u => (u.setExec 3).setV 1 1 fun _ => 2
     Ready s (vectorUse s 3 0 [1]) ∧ (1 : Mask) ≠ 0 ∧ Fmt.ofCode 9 = some .tern ∧
       ∀ l, l < 64 → (1 : Mask).getLsbD l = (s.team.exec.getLsbD l && decide ((s.team.getV 1 l).toNat % 4 = 2))) := by decide

/-- The small machine with fm.cfmt set. -/
def withC (code : Nat) : State := on fun u => u.setFm (BitVec.ofNat 32 (256 * code))
theorem witness_FormatAndPack :
    (Ready demo {} ∧ (Ready (withS [(1, 0x3FFFF)]) { sr := [1] } ∧ ((withS [(1, 0x3FFFF)]).team.getS 1).toNat < 2 ^ 18) ∧
      (Ready (withS [(1, 0x40000)]) { sr := [1] } ∧ 2 ^ 18 ≤ ((withS [(1, 0x40000)]).team.getS 1).toNat) ∧
      Ready demo { sw := [3] }) ∧
    (let code (s : State) : Nat := s.team.fm.toNat / 2 ^ 8 % 16
     (Ready (withC 10) (vectorUse (withC 10) 3 0 [1, 2]) ∧ code (withC 10) ≤ 10 ∧ Fmt.ofCode (code (withC 10)) = some .int32) ∧
     (Ready (withC 1) (vectorUse (withC 1) 3 0 [1, 2]) ∧ Fmt.ofCode (code (withC 1)) = some .fp16) ∧
     (Ready (withC 11) (vectorUse (withC 11) 3 0 [1, 2]) ∧ (withC 11).team.lanes 0 ≠ 0 ∧ 10 < code (withC 11)) ∧
     (Ready demo (vectorUse demo 3 0 [1, 2]) ∧ demo.team.lanes 0 ≠ 0 ∧ code demo ≠ 1 ∧ code demo ≠ 2) ∧
     (Ready (withC 7) (vectorUse (withC 7) 3 0 [1, 2, 4, 3]) ∧ Fmt.ofCode (code (withC 7)) = some .uint8) ∧
     Ready demo (vectorUse demo 3 0 [1, 2, 4, 3]) ∧ demo.team.exec ≠ 0 ∧ code demo ≠ 3 ∧ code demo ≠ 4 ∧ code demo ≠ 6 ∧
       code demo ≠ 7) := by decide
theorem witness_Shuffles : Ready demo (vectorUse demo 3 0 [1, 2]) ∧ Ready demo { vectorUse demo 3 0 [1] with sr := [4] } := by
  decide
theorem witness_ReduceAndScan : Ready demo { vr := [1], sw := [3], kr := predK 1, lanes := some (demo.team.lanes 1) } ∧
    Ready demo (vectorUse demo 3 1 [1]) ∧ [some (1 : Word), none].length = 2 ^ 1 := by decide
theorem witness_MaskFormsAndCounts :
    ((1 : KReg) ≠ 0 ∧ Ready demo { kr := [2, 3], kw := [1] } ∧ Ready demo { kr := [2], kw := [1] }) ∧
    (Ready demo { kr := [2], sw := [3] } ∧ demo.team.getK 2 = 0) ∧
    (let s := on fun u => u.setK 2 12
     Ready s { kr := [2], sw := [3] } ∧ (s.team.getK 2).getLsbD 2 = true ∧ ∀ j, j < 2 → (s.team.getK 2).getLsbD j = false) ∧
    Ready demo { kw := [1] } := by decide

/-! Witnesses: hypotheses of the statements on memory. Two lanes are active; s1 holds an address. -/

/-- Lanes 0 and 1 are active, and s1 holds an address. -/
def two (x : DWord) : State := on fun u => (u.setExec 3).setS 1 x
/-- The lanes that are active in it. -/
def lanes2 (s : State) : List Nat := lanesOf s.team.tsize s.team.exec
/-- The address of a lane, of s1 and v2. -/
def vaOf (s : State) (l : Nat) : Nat := (s.team.getS 1 + BitVec.setWidth 64 (s.team.getV 2 l)).toNat

theorem witness_Loads :
    (let s := two 0x100000
     Ready s { vr := [2], vw := dataRegs 4 3, sr := [1], lanes := some s.team.exec } ∧ s.team.rebrew = none ∧ s.team.exec ≠ 0 ∧
     (∀ l ∈ lanes2 s, vaOf s l % 2 ^ (3 : BitVec 2).toNat = 0) ∧
     ∀ l ∈ lanes2 s, (s.translate s.ctx (vaOf s l) .read).toOption = some (vaOf s l) ∧
       s.accessFault s.ctx (vaOf s l) .read = none) ∧
    (let s := two 1024
     let off (l : Nat) : Nat := (s.team.getS 1).toNat + (s.team.getV 2 l).toNat
     Ready s { vr := [2], vw := dataRegs 4 3, sr := [1], lanes := some s.team.exec } ∧ s.team.exec ≠ 0 ∧
     (s.team.getS 1).toNat < 2 ^ 20 ∧ ∀ l ∈ lanes2 s, off l % 8 = 0 ∧ off l + 8 ≤ 1024 * s.block.stashKiB) ∧
    (let s := two 0x100002
     s.team.rebrew = none ∧ s.team.exec ≠ 0 ∧ (lanes2 s).filter (fun l => vaOf s l % 4 != 0) = [0, 1] ∧
     Ready s { vr := [2], vw := dataRegs 4 2, sr := [1], lanes := some s.team.exec } ∧
     Ready s { vr := [2, 4], sr := [1], lanes := some s.team.exec }) ∧
    (let s := two 1026
     let off (l : Nat) : Nat := (s.team.getS 1).toNat % 2 ^ 20 + (s.team.getV 2 l).toNat
     s.team.exec ≠ 0 ∧ (lanes2 s).filter (fun l => decide (2 ^ 20 ≤ (s.team.getS 1).toNat) || off l % 4 != 0) = [0, 1] ∧
     Ready s { vr := [2], vw := dataRegs 4 2, sr := [1], lanes := some s.team.exec } ∧
     Ready s { vr := [2, 4], sr := [1], lanes := some s.team.exec }) ∧
    (let s := on fun u => u.setExec 0
     s.team.exec = 0 ∧ s.team.rebrew = none ∧ Ready s { vr := [2], vw := dataRegs 4 3, sr := [1], lanes := some s.team.exec } ∧
     Ready s { vr := 2 :: dataRegs 4 3, sr := [1], lanes := some s.team.exec }) := by decide
theorem witness_Stores :
    (let s := two 0x100000
     Ready s { vr := 2 :: dataRegs 4 3, sr := [1], lanes := some s.team.exec } ∧ s.team.rebrew = none ∧ s.team.exec ≠ 0 ∧
     (∀ l ∈ lanes2 s, vaOf s l % 8 = 0) ∧
     (∀ l ∈ lanes2 s, (s.translate s.ctx (vaOf s l) .write).toOption = some (vaOf s l) ∧
       s.accessFault s.ctx (vaOf s l) .write = none) ∧
     ∀ l ∈ lanes2 s, s.readonlyPage s.ctx (vaOf s l) = false ∧ s.pinnedPa (vaOf s l) = false) ∧
    (let s := two 1024
     let off (l : Nat) : Nat := (s.team.getS 1).toNat + (s.team.getV 2 l).toNat
     Ready s { vr := 2 :: dataRegs 4 3, sr := [1], lanes := some s.team.exec } ∧ s.team.exec ≠ 0 ∧
     (s.team.getS 1).toNat < 2 ^ 20 ∧ s.block.maps = [] ∧
     ∀ l ∈ lanes2 s, off l % 8 = 0 ∧ off l + 8 ≤ 1024 * s.block.stashKiB) ∧
    (let s0 := two 512
     let s := s0.setBlock { s0.block with maps := [{ off := 512, len := 512, va := 0x100000, pages := [⟨16, 16, 7⟩] }] }
     let off (l : Nat) : Nat := (s.team.getS 1).toNat + (s.team.getV 2 l).toNat
     Ready s { vr := 2 :: dataRegs 4 2, sr := [1], lanes := some s.team.exec } ∧
     (∀ l ∈ lanes2 s, s.block.mappedVa (off l) = some (0x100000 + (off l - 512)) ∧ s.block.mayWrite (off l) = true ∧
       s.readonlyPage s.ctx (0x100000 + (off l - 512)) = false ∧
       s.block.place (off l) = .lin (0x100000 + (off l - 512)) ∧ s.pinnedPa (0x100000 + (off l - 512)) = false)) := by decide
/-- A translation that answers an address. -/
theorem ok_of_toOption (e : Except Cause Nat) (x : Nat) (h : e.toOption = some x) : e = .ok x := by
  cases e <;> simp_all [Except.toOption]

theorem witness_PrivateMemory :
    (let s := on fun u => { (u.setExec 3).setS 1 8 with privBytes := 16 }
     s.team.rebrew = none ∧ s.team.exec ≠ 0 ∧ (∀ l ∈ lanes2 s, vaOf s l % 4 = 0) ∧
     (lanes2 s).filter (fun l => decide (s.team.privBytes < vaOf s l + 8)) = [] ∧ 2 ≤ (3 : BitVec 2).toNat ∧
     Ready s { vr := [2], vw := dataRegs 4 3, sr := [1], lanes := some s.team.exec } ∧
     Ready s { vr := 2 :: dataRegs 4 3, sr := [1], lanes := some s.team.exec }) ∧
    (let s := on fun u => { (u.setExec 3).setS 1 16 with privBytes := 16 }
     s.team.rebrew = none ∧ s.team.exec ≠ 0 ∧ (∀ l ∈ lanes2 s, vaOf s l % 4 = 0) ∧
     (lanes2 s).filter (fun l => decide (s.team.privBytes < vaOf s l + 4)) = [0, 1] ∧
     Ready s { vr := [2], vw := dataRegs 4 2, sr := [1], lanes := some s.team.exec } ∧
     Ready s { vr := 2 :: dataRegs 4 2, sr := [1], lanes := some s.team.exec }) := by decide

/-- A store of the team, with the number 0. -/
def storeOf (what : Write) (accepted : Bool) : Store :=
  { id := 0, core := 0, launch := 1, team := 1, what := what, stream := false, accepted := accepted }
/-- The issuing core has accepted a store that the home slice has not ordered, or has still to accept it. -/
def withStore (accepted : Bool) : State :=
  { demo with stores := [storeOf (.lin 0x100000 [1, 2, 3, 4]) accepted], seq := 1 }

theorem witness_Fences :
    (Ready demo { vr := [2], sr := [1], lanes := some demo.team.exec } ∧ demo.team.rebrew = none) ∧
    (let s0 := withS [(1, 0x100000), (2, 512)]
     let kept := storeOf (.lin 0x100200 [1]) true
     let s : State := { s0 with stores := [storeOf (.lin 0x100000 [1]) true, { kept with id := 1 }], seq := 2 }
     Ready s { sr := [1, 2] } ∧ s.team.rebrew = none ∧
       s.storesIn s.team.core 0x100000 512 = [storeOf (.lin 0x100000 [1]) true]) ∧
    (let s := withS [(1, 2 ^ 48 - 2 ^ 20), (2, 2 ^ 20)]
     Ready s { sr := [1, 2] } ∧ 0 < (s.team.getS 2).toNat ∧ (s.team.getS 2).toNat ≤ 2 ^ 20 ∧
       (s.team.getS 1).toNat + (s.team.getS 2).toNat ≤ 2 ^ 48) ∧
    (Ready demo { sr := [1, 2] } ∧ (demo.team.getS 2).toNat = 0) ∧
    (Ready demo { sr := [1, 2] } ∧ 2 ^ 20 < (withS [(2, 2 ^ 20 + 1)] |>.team.getS 2).toNat ∧
      (let s := withS [(1, 2 ^ 48), (2, 1)]
       2 ^ 48 < (s.team.getS 1).toNat + (s.team.getS 2).toNat)) ∧
    (Ready (withStore true) {} ∧ (3 : BitVec 2).getLsbD 0 = true ∧ (3 : BitVec 2).getLsbD 1 = true) ∧
    (1 : BitVec 2).getLsbD 1 = false ∧ (5 : BitVec 3).toNat = 5 ∧ (0 : BitVec 3).toNat ≠ 5 := by decide

/-- A queued item with an offset in B. -/
def queued (i : Instr) (off : Nat) : MItem :=
  { id := 0, instr := i, at_ := 0, stepsLeft := 1, nextA := 0, nextB := off, fm := 0, batch := none }
/-- Two lanes whose accesses meet what a queued zst has still to write: of stash, or of memory that a range at 512 stands for. -/
def meeting (x : DWord) : State :=
  let s0 := two x
  let s := s0.setTeam { s0.team with mqueue := [queued (.zst false 0 1) 512] }
  let s1 := s.setBlock { s.block with maps := [{ off := 512, len := 4096, va := 0x100000, pages := [⟨16, 16, 7⟩] }] }
  { s1 with seq := 1 }
/-- Loads, stores and atomics that queued matrix work holds, and that it does not. -/
theorem witness_Loads_held :
    (let s := meeting 0x100000
     Ready s { vr := [2], vw := dataRegs 4 3, sr := [1], lanes := some s.team.exec } ∧
     Ready s { vr := 2 :: dataRegs 4 3, sr := [1], lanes := some s.team.exec } ∧ s.team.rebrew = none ∧
     (∀ l ∈ lanes2 s, vaOf s l % 8 = 0 ∧ (s.translate s.ctx (vaOf s l) .write).toOption = some (vaOf s l) ∧
       s.accessFault s.ctx (vaOf s l) .read = none ∧ s.accessFault s.ctx (vaOf s l) .write = none ∧
       s.readonlyPage s.ctx (vaOf s l) = false ∧ s.pinnedPa (vaOf s l) = false) ∧
     s.queueMeets ((lanes2 s).map fun l => .lin (vaOf s l)) 8 true = true ∧
     s.queueMeets ((lanes2 s).map fun l => .lin (vaOf s l)) 8 false = true) ∧
    (let s := meeting 512
     let off (l : Nat) : Nat := (s.team.getS 1).toNat + (s.team.getV 2 l).toNat
     Ready s { vr := [2], vw := dataRegs 4 2, sr := [1], lanes := some s.team.exec } ∧
     Ready s { vr := 2 :: dataRegs 4 2, sr := [1], lanes := some s.team.exec } ∧
     (∀ l ∈ lanes2 s, off l % 4 = 0 ∧ off l + 4 ≤ 1024 * s.block.stashKiB ∧ s.block.mayWrite (off l) = true) ∧
     s.queueMeets ((lanes2 s).map fun l => s.block.place (off l)) 4 true = true) ∧
    (two 0x100000).queueMeets [.lin 0x100000] 8 true = false ∧ (two 1024).queueMeets [.stash 1024] 8 true = false := by
  and_intros <;> decide

/-- A block with one mapped range, at stash offset 512. -/
def mapped : State :=
  let s := withS [(1, 512), (2, 512), (3, 0x100000)]
  s.setBlock { s.block with maps := [{ off := 512, len := 512, va := 0x100000, pages := [] }] }

theorem witness_StashMapping :
    (Ready (withS [(1, 511)]) { sr := [1, 2, 3] } ∧ (withS [(1, 511)]).team.rebrew = none ∧
      ((withS [(1, 511)]).team.getS 1).toNat % 512 ≠ 0) ∧
    (Ready demo { sr := [1, 2, 3] } ∧ (demo.team.getS 1).toNat % 512 = 0 ∧ (demo.team.getS 2).toNat % 512 = 0 ∧
      (demo.team.getS 3).toNat = 0) ∧
    (let s := withS [(1, 512), (2, 0x100000), (3, 65024)]
     Ready s { sr := [1, 2, 3] } ∧ 0 < (s.team.getS 3).toNat ∧
       (s.team.getS 1).toNat + (s.team.getS 3).toNat ≤ 1024 * s.block.stashKiB ∧ s.block.maps = [] ∧
       (s.team.getS 2).toNat + (s.team.getS 3).toNat ≤ 2 ^ 48 ∧
       s.rangeFault (s.team.getS 2).toNat (s.team.getS 3).toNat .read = none ∧ s.team.stashBusy s.seq 512 65024 true = false ∧
       s.mapPages s.ctx 0x100000 65024 = [⟨16, 16, 7⟩]) ∧
    (let s0 := withS [(1, 512), (2, 0x100000), (3, 65024)]
     let s := s0.setTeam { s0.team with mqueue := [queued (.zld false 0 1) 512] }
     let s : State := { s with seq := 1 }
     Ready s { sr := [1, 2, 3] } ∧ s.rangeFault 0x100000 65024 .read = none ∧ s.team.stashBusy s.seq 512 65024 true = true) ∧
    (Ready demo { sr := [1, 2] } ∧ demo.block.maps = []) ∧
    (let s := withS [(1, 512), (2, 2 ^ 48 - 2 ^ 20), (3, 512)]
     Ready s { sr := [1, 2, 3] } ∧ (s.team.getS 2).toNat + 512 ≤ 2 ^ 48 ∧
       (s.rangeFault (2 ^ 48 - 2 ^ 20) 512 .read).isSome = true) ∧
    (Ready mapped { sr := [1, 2] } ∧ mapped.block.maps.find? (fun x => x.off = 512 ∧ x.len = 512) =
        some { off := 512, len := 512, va := 0x100000, pages := [] } ∧
      (mapped.team.getS 1).toNat = 512 ∧ (mapped.team.getS 2).toNat = 512 ∧ mapped.team.loadsFixed mapped.seq = true ∧
      mapped.team.stashBusy mapped.seq 512 512 true = false ∧
      mapped.mapClean mapped.block { off := 512, len := 512, va := 0x100000, pages := [] } = true ∧
      mapped.mapPoisoned mapped.block { off := 512, len := 512, va := 0x100000, pages := [] } = false) ∧
    (let m : StashMap := { off := 512, len := 512, va := 0x100000, pages := [⟨16, 16, 7⟩] }
     let s0 : State := mapped.setBlock { mapped.block with maps := [m] }
     let s : State := { s0 with poisoned := [0x100000 / 512] }
     Ready s { sr := [1, 2] } ∧ s.block.maps = [m] ∧ s.mapClean s.block m = true ∧ s.team.loadsFixed s.seq = true ∧
       s.team.stashBusy s.seq 512 512 true = false ∧ s.mapPoisoned s.block m = true) ∧
    (let s0 := mapped.setTeam { mapped.team with mqueue := [queued (.zst false 0 1) 512] }
     let s : State := { s0 with seq := 1 }
     Ready s { sr := [1, 2] } ∧ s.team.stashBusy s.seq 512 512 true = true) ∧
    (let m : StashMap := { off := 512, len := 512, va := 0x100000, pages := [⟨16, 16, 7⟩] }
     let s0 : State := mapped.setBlock { mapped.block with maps := [m] }
     let s : State := { s0 with stores := [storeOf (.lin 0x100000 [1]) true], seq := 1 }
     Ready s { sr := [1, 2] } ∧ s.block.maps = [m] ∧ s.team.loadsFixed s.seq = true ∧
       s.team.stashBusy s.seq 512 512 true = false ∧ s.mapClean s.block m = false) := by
  and_intros <;> decide
theorem witness_Atomics :
    (let s := two 0x100000
     Ready s { vr := [2, 4, 5, 6, 7], vw := [4, 5], sr := [1], lanes := some s.team.exec } ∧ s.team.rebrew = none ∧
     s.team.exec ≠ 0 ∧ (∀ l ∈ lanes2 s, vaOf s l % 8 = 0) ∧
     (∀ l ∈ lanes2 s, (s.translate s.ctx (vaOf s l) .write).toOption = some (vaOf s l) ∧
       s.accessFault s.ctx (vaOf s l) .read = none ∧ s.accessFault s.ctx (vaOf s l) .write = none) ∧
     (∀ l ∈ lanes2 s, s.readonlyPage s.ctx (vaOf s l) = false ∧ s.pinnedPa (vaOf s l) = false) ∧
     s.launch.detTags.find? (0x100000 / 512) = none) ∧ 2 ^ 64 - 1 < 2 ^ (if true then 64 else 32) ∧
    (let s := two 0x100002
     Ready s { vr := [2, 4], vw := [4], sr := [1], lanes := some s.team.exec } ∧
       (lanes2 s).filter (fun l => vaOf s l % 4 != 0) = [0, 1]) ∧
    (let s0 := two 0x100000
     let s (tag : Nat) : State := s0.setLaunchOf 1 { s0.launch with lflags := 1, detTags := [(0x100000 / 512, tag)] }
     let other (s : State) (l : Nat) : Bool := s.launch.lflags.getLsbD 0 &&
       (s.launch.detTags.find? (vaOf s l / 512)).any (· != s.block.index)
     (Ready (s 7) { vr := [2, 4], vw := [4], sr := [1], lanes := some (s 7).team.exec } ∧
       (lanes2 (s 7)).filter (other (s 7)) = [0, 1] ∧
       (∀ l ∈ lanes2 (s 7), ((s 7).translate (s 7).ctx (vaOf (s 7) l) .write).toOption = some (vaOf (s 7) l))) ∧
     Ready (s 0) { vr := [2, 4], vw := [4], sr := [1], lanes := some (s 0).team.exec } ∧
       (lanes2 (s 0)).filter (other (s 0)) = []) := by
  and_intros <;> decide

theorem witness_Copies :
    (let s := withS [(1, 2), (2, 0), (3, 4)]
     Ready s { sr := [1, 2, 3] } ∧ s.team.rebrew = none ∧ (s.team.getS 1).toNat % 4 ≠ 0) ∧
    (let s := withS [(1, 2 ^ 48 - 4), (2, 0), (3, 8)]
     Ready s { sr := [1, 2, 3] } ∧ (s.team.getS 1).toNat % 4 = 0 ∧ (s.team.getS 3).toNat % 4 = 0 ∧
       2 ^ 48 < (s.team.getS 1).toNat + (s.team.getS 3).toNat) ∧
    (let s := withS [(1, 2 ^ 48 - 4), (2, 0)]
     Ready s { sr := [1, 2, 3] } ∧ (s.team.getS 3).toNat = 0 ∧ (s.team.getS 1).toNat < 2 ^ 48) ∧
    (let s := withS [(1, 0x100000), (2, 0x110000), (3, 65536)]
     Ready s { sr := [1, 2, 3] } ∧ (s.team.getS 3).toNat ≤ 65536 ∧
       ¬ ((s.team.getS 1).toNat < (s.team.getS 2).toNat + 65536 ∧ (s.team.getS 2).toNat < (s.team.getS 1).toNat + 65536)) ∧
    (let s := withS [(1, 0), (2, 4), (3, 65532)]
     Ready s { sr := [1, 2, 3] } ∧ (s.team.getS 1).toNat + (s.team.getS 3).toNat ≤ 1024 * s.block.stashKiB ∧
       (s.team.getS 2).toNat + (s.team.getS 3).toNat ≤ 1024 * s.block.stashKiB ∧ s.launch.clusters = false ∧
       (s.team.getS 1).toNat < (s.team.getS 2).toNat + (s.team.getS 3).toNat ∧
       (s.team.getS 2).toNat < (s.team.getS 1).toNat + (s.team.getS 3).toNat) ∧
    (let s := withS [(1, 0), (2, 32768), (3, 32768)]
     Ready s { sr := [1, 2, 3] } ∧ (s.team.getS 2).toNat + (s.team.getS 3).toNat ≤ 1024 * s.block.stashKiB ∧
       ¬ (s.team.getS 2).toNat < (s.team.getS 1).toNat + (s.team.getS 3).toNat) ∧
    (let s0 := withS [(1, 0), (2, 4), (3, 65532)]
     let s := s0.setLaunchOf 1 { s0.launch with clusters := true }
     Ready s { sr := [1, 2, 3] } ∧ s.launch.clusters = true ∧
       ((List.range 4).filter fun i => (1 : BitVec 4).getLsbD i).mapM s.groupBlock = some [1]) ∧
    (let s := withS [(1, 64)]
     Ready s { sr := [1, 2, 3] } ∧ (s.team.getS 1).toNat % 128 ≠ 0) ∧
    (let s (tensor : DWord) := withS [(1, 65024), (2, tensor), (3, 0x10001)]
     (Ready (s (2 ^ 20)) { sr := [1, 2, 3] } ∧ 2 ^ 20 ≤ ((s (2 ^ 20)).team.getS 2).toNat) ∧
     (Ready (s 1) { sr := [1, 2, 3] } ∧ ((s 1).team.getS 1).toNat + 512 ≤ 1024 * (s 1).block.stashKiB ∧
       ∃ x, (s 1).desc (s 1).ctx 1 = .ok x ∧ x.hasTile 1 1 = true ∧ x.readonly = false ∧ x.compressed = false ∧
         (s 1).pinnedTensor 1 x.recomputable = false) ∧
     Ready (s 2) { sr := [1, 2, 3] } ∧ ∃ x, (s 2).desc (s 2).ctx 2 = .ok x ∧ x.hasTile 1 1 = true ∧ x.readonly = true) := by
  refine ⟨by decide, by decide, by decide, by decide, by decide, by decide, by decide, by decide, by decide,
    ⟨by decide, by decide, ?_⟩, by decide, ?_⟩ <;>
    exact ⟨_, rfl, by decide⟩

/-- A closed batch with a copy still to run, and one with a matrix step. -/
def withBatch : State := on fun u =>
  { u with cnext := 1, mnext := 1,
           copies := [{ id := 0, kind := .bytes false false, at_ := 0, dst := 0, src := 64, count := 4, done := 0, targets := [],
                        tile := none, batch := some 0, fault := none }],
           mqueue := [{ id := 0, instr := .zclr false 0, at_ := 0, stepsLeft := 1, nextA := 0, nextB := 0, fm := 0,
                        batch := some 0 }] }
theorem witness_Batches :
    (Ready demo { sw := [3] } ∧ demo.team.closedCopies < 255) ∧ Ready demo { sr := [1] } ∧
    (∃ c ∈ withBatch.team.copies, c.batch ≠ none) ∧
    (let c (k : Nat) : Copy := { id := k, kind := .bytes false false, at_ := 0, dst := 0, src := 64, count := 4, done := 0,
                                 targets := [], tile := none, batch := if k = 255 then none else some k, fault := none }
     let s := on fun u => { u with copies := (List.range 256).map c }
     Ready s { sw := [3] } ∧ 255 ≤ s.team.closedCopies ∧ ∃ x ∈ s.team.copies, x.batch = none) ∧
    (let c : Copy := { id := 0, kind := .bytes false false, at_ := 0, dst := 0, src := 64, count := 4, done := 0, targets := [],
                       tile := none, batch := some 0, fault := some (.page, {}) }
     let s := on fun u => { u with cnext := 1, copies := [c] }
     Ready s { sr := [1] } ∧ (∀ x ∈ s.team.copies, x.fault ≠ none) ∧
       faultOf (s.team.copies.filter fun x => x.batch.any fun k => decide ((k : Int) ≤ 0)) = some (c, .page, {})) ∧
    (Ready withBatch { sr := [1] } ∧
      (withBatch.team.cnext : Int) - 1 - (((withBatch.team.cnext : Int) - 1 - ((withBatch.team.getS 1).toNat % 256 : Nat)) % 256) = 0 ∧
      (∃ c ∈ withBatch.team.copies, c.fault = none ∧ c.batch = some 0) ∧
      ∃ m ∈ withBatch.team.mqueue, m.batch = some 0) := by decide

/-! Witnesses: hypotheses of the statements on tiles and on the matrix unit. -/

/-- s1 to s3 name a tile of a tensor. -/
def naming (tensor row col : DWord) : State := withS [(1, tensor), (2, row), (3, col)]
/-- A tile that its home slice holds. -/
def lineAt (tensor row col : Nat) (state : TileState) (rec_ : Bool) : TileLine :=
  { ctx := 0, name := ⟨tensor, row, col⟩, state := state, map := false, mapRead := rec_, words := List.replicate 128 0,
    dirty := false, lastUse := false, recomputable := rec_ }
/-- The use of a form that names a tile in s1 to s3. -/
def namedUse (s : State) : Use := { sr := [1, 2, 3], lanes := some s.team.exec }

theorem witness_TileNames :
    (let s := on fun u => u.setExec 0
     s.team.rebrew = none ∧ s.team.exec = 0 ∧ Ready s (namedUse s) ∧ Ready s { namedUse s with vw := tileRegs 4 } ∧
       Ready s { namedUse s with vr := tileRegs 4 }) ∧
    (let s := naming (2 ^ 20) 0 0
     s.team.exec ≠ 0 ∧ Ready s (namedUse s) ∧ Ready s { namedUse s with vw := tileRegs 4 } ∧
       Ready s { namedUse s with vr := tileRegs 4 } ∧ 2 ^ 20 ≤ (s.team.getS 1).toNat) ∧
    (let s := naming 5 0 0
     s.desc s.ctx (s.team.getS 1).toNat = .invalid) := by decide

/-- What a form that names tile (1, 1) of an ordinary or read-only tensor finds. -/
def finds (s : State) (tensor : Nat) (p : Desc → Bool) (n : Need) : Bool :=
  match s.desc s.ctx tensor with
  | .ok x => x.hasTile 1 1 && (s.tileFault s.ctx x ⟨tensor, 1, 1⟩ n).isNone && p x
  | _ => false
theorem finds_desc (s : State) (tensor : Nat) (p : Desc → Bool) (n : Need) (h : finds s tensor p n = true) :
    ∃ x, s.desc s.ctx tensor = .ok x ∧ x.hasTile 1 1 = true ∧ s.tileFault s.ctx x ⟨tensor, 1, 1⟩ n = none ∧ p x = true := by
  unfold finds at h
  split at h
  · rename_i x hx; exact ⟨x, hx, by simp_all⟩
  · simp at h

/-- The bytes of a recipe record that are not zero: one word of code at 0x10000, a materialised copy and its bitmap. -/
def recipeBytes : Memory :=
  [(0x300002, 1), (0x300006, 1), (0x300008, 1), (0x30000C, 1), (0x300010, 1), (0x300034, 0x50), (0x30003A, 0x60)]
theorem witness_TileLoad :
    (let s : State := { naming 1 1 1 with tiles := [lineAt 1 1 1 .present false] }
     Ready s { namedUse s with vw := tileRegs 4 } ∧ s.team.rebrew = none ∧ s.team.exec ≠ 0 ∧
       finds s 1 (fun x => !s.readRebrews ⟨1, 1, 1⟩ x) .read = true ∧ s.team.keeps ≠ some ⟨1, 1, 1⟩) ∧
    (let s : State := { naming 3 1 1 with mem := recipeBytes }
     Ready s { namedUse s with vw := tileRegs 4 } ∧ finds s 3 (fun x => s.readRebrews ⟨3, 1, 1⟩ x) .read = true) ∧
    (let n : TileName := ⟨1, 1, 1⟩
     let s0 := naming 1 1 1
     let s : State := { s0.setTeam { s0.team with keeps := some n } with tiles := [lineAt 1 1 1 .present false] }
     Ready s { namedUse s with vw := tileRegs 4 } ∧ s.team.keeps = some n ∧ s.tileLine n = some (lineAt 1 1 1 .present false) ∧
       (lineAt 1 1 1 .present false).poisoned = false ∧ s.stores = [] ∧ s.team.rels = [] ∧ s.team.acqs = [] ∧
       s.team.pend = [] ∧ s.tileOwned n (some (s.cur, s.seq)) = false) ∧
    (let s := naming 1 1 1
     Ready s { namedUse s with vw := tileRegs 4 } ∧ finds s 1 (fun x => !s.readRebrews ⟨1, 1, 1⟩ x) .read = true ∧
       s.hitsTile ⟨1, 1, 1⟩ = false) := by
  and_intros <;> decide
theorem witness_TileStore :
    (let s := naming 1 1 1
     Ready s { namedUse s with vr := tileRegs 4 } ∧ Ready s (namedUse s) ∧ s.team.rebrew = none ∧ s.team.exec ≠ 0 ∧
       finds s 1 (fun x => !x.readonly && !x.compressed && !x.recomputable && !x.resident) .write = true ∧
       s.pinnedTensor 1 false = false ∧ s.tileLine ⟨1, 1, 1⟩ = none) ∧
    (let s := naming 2 1 1
     Ready s { namedUse s with vr := tileRegs 4 } ∧ finds s 2 (·.readonly) .write = true) ∧
    (let s := naming 4 1 1
     Ready s (namedUse s) ∧ finds s 4 (·.compressed) .write = true) ∧
    (let s : State := { naming 1 1 1 with tlbs := [] }
     (match s.desc s.ctx 1 with | .ok x => (s.tileFault s.ctx x ⟨1, 1, 1⟩ .write).isSome | _ => false) = true) ∧
    (let s : State := { naming 3 1 1 with tiles := [lineAt 3 1 1 .present true] }
     Ready s (namedUse s) ∧ finds s 3 (fun x => x.recomputable && !x.readonly && !x.resident && !x.compressed) .write = true ∧
       s.tileLine ⟨3, 1, 1⟩ = some (lineAt 3 1 1 .present true)) := by decide

/-- The recipe that they are. -/
def recipe3 : Recipe :=
  { entry := 0x10000, slen := 1, cyc := 1, nj := 1, depth := 1, blocks := 1, tiles := 0, stashKiB := 0, mat := 0x500000,
    map := 0x600000, cdepth := 0, sources := [] }
/-- The descriptor of tensor 3. -/
def desc3 : Desc :=
  { base := 0, rows := 32, cols := 16, pitch := 0, fmt := 0, w := 32, tw := 8, compressed := false, recomputable := true,
    resident := false, readonly := false, index := 0, cbase := 0, recipe := 0x300000 }
theorem witness_Materialise :
    (Ready (naming 1 1 1) (namedUse (naming 1 1 1)) ∧ finds (naming 1 1 1) 1 (fun x => !x.recomputable) .read = true) ∧
    (let s : State := { naming 3 1 1 with tiles := [lineAt 3 1 1 .present true], mem := recipeBytes }
     Ready s (namedUse s) ∧ s.team.rebrew = none ∧ s.team.exec ≠ 0 ∧ s.desc s.ctx 3 = .ok desc3 ∧
       desc3.hasTile 1 1 = true ∧ s.cacheDesc s.ctx 3 = s ∧ s.dropsTile s.cur ⟨3, 1, 1⟩ = false ∧ s.hitsTile ⟨3, 1, 1⟩ = true ∧
       s.tileLine ⟨3, 1, 1⟩ = some (lineAt 3 1 1 .present true) ∧ s.recipe s.ctx 3 desc3 = some recipe3 ∧
       s.withMap s.ctx desc3 recipe3 ⟨3, 1, 1⟩ = some (lineAt 3 1 1 .present true) ∧
       (s.writeVirt s.ctx (0x500000 + 512 * (1 * desc3.tileCols + 1)) (lineBytes (List.replicate 128 0))).isSome = true ∧
       (s.writeMap s.ctx desc3 recipe3 ⟨3, 1, 1⟩ true).isSome = true ∧
       (s.writeMap s.ctx desc3 recipe3 ⟨3, 1, 1⟩ false).isSome = true) ∧
    (let s : State := { naming 3 1 1 with mem := recipeBytes.take 5 }
     s.desc s.ctx 3 = .ok desc3 ∧ (s.recipe s.ctx 3 desc3).map (·.mat) = some 0) ∧
    (let l : TileLine := { lineAt 3 1 1 .present true with map := true }
     let s : State := { naming 3 1 1 with tiles := [l], mem := recipeBytes }
     s.desc s.ctx 3 = .ok desc3 ∧ s.withMap s.ctx desc3 recipe3 ⟨3, 1, 1⟩ = some l) ∧
    (let s : State := { naming 3 1 1 with tlbs := [] }
     s.desc s.ctx 3 = .ok desc3 ∧ s.recipe s.ctx 3 desc3 = none ∧ s.launch.priced.contains 3 = false) ∧
    (let s0 := naming 3 1 1
     let s : State := { s0.setTeam { s0.team with imageVa := 0x5FE000 } with mem := recipeBytes }
     s.desc s.ctx 3 = .ok desc3 ∧ s.recipe s.ctx 3 desc3 = some recipe3 ∧
       (s.recipeFault s.ctx desc3 ⟨3, 1, 1⟩ true).isSome = true ∧ (s.recipeFault s.ctx desc3 ⟨3, 1, 1⟩ false).isSome = true) ∧
    (let s : State := { naming 3 1 1 with mem := recipeBytes }
     s.recipeFault s.ctx desc3 ⟨3, 1, 1⟩ true = none ∧ s.recipeFault s.ctx desc3 ⟨3, 1, 1⟩ false = none ∧
       s.readRebrews ⟨3, 1, 1⟩ desc3 = true ∧
       (match s.fillRead s.ctx (0x500000 + 512 * 3) 512 with | .ok _ => true | .error _ => false) = true) ∧
    (let s : State := { naming 3 1 1 with tiles := [lineAt 3 1 1 .present true], mem := recipeBytes }
     s.readRebrews ⟨3, 1, 1⟩ desc3 = false) := by
  and_intros <;> decide

/-- The team with fm and s1 set. -/
def fmS (fm : Word) (x : DWord) : State := on fun u => (u.setFm fm).setS 1 x
/-- A matrix item. -/
def itemOf (i : Instr) (steps b : Nat) (fm : Word) : MItem :=
  { id := 0, instr := i, at_ := 0x10004, stepsLeft := steps, nextA := 0, nextB := b, fm := fm, batch := none }

theorem witness_MatrixForms :
    (let s := on fun u => { u with ntile := 0 }
     Ready s { vr := [0, 1, 2, 3], sr := [1], lanes := some s.team.exec } ∧ s.team.exec ≠ 0 ∧ s.team.ntile ≤ (0 : ZReg).toNat) ∧
    (Ready demo { vr := [0, 1, 2, 3], sr := [1], lanes := some demo.team.exec } ∧ (7 : ZReg).toNat < demo.team.ntile ∧
      formFmOk demo.team.fm (.mmaBf16 false 7 0 1 false) = false) ∧
    (let s := fmS 0x22 64
     Ready s { vr := [0, 1, 2, 3], sr := [1], lanes := some s.team.exec } ∧
       formFmOk s.team.fm (.mmaBf16 false 7 0 1 false) = true ∧ (s.team.getS 1).toNat % 128 ≠ 0) ∧
    (let s := fmS 0x22 (65536 - 1024)
     let i : Instr := .mmaBf16 false 7 0 1 false
     Ready s { vr := [0, 1, 2, 3], sr := [1], lanes := some s.team.exec } ∧ formFmOk s.team.fm i = true ∧
       (s.team.getS 1).toNat % 128 = 0 ∧ (s.team.getS 1).toNat + bSpan i s.team.fm ≤ 1024 * s.block.stashKiB ∧
       isTernary i = false ∧ s.team.mqueue.length < 16) ∧
    (let s := fmS 0x22 (65536 - 896)
     let i : Instr := .mmaBf16 false 7 0 1 false
     Ready s { vr := [0, 1, 2, 3], sr := [1], lanes := some s.team.exec } ∧ formFmOk s.team.fm i = true ∧
       (s.team.getS 1).toNat % 128 = 0 ∧ 1024 * s.block.stashKiB < (s.team.getS 1).toNat + bSpan i s.team.fm) ∧
    (let s := on fun u => { (u.setFm 0x22) with mqueue := List.replicate 16 (itemOf (.zclr false 0) 1 0 0) }
     let i : Instr := .mmaBf16 false 7 0 1 false
     Ready s { vr := [0, 1, 2, 3], sr := [1], lanes := some s.team.exec } ∧ formFmOk s.team.fm i = true ∧
       16 ≤ s.team.mqueue.length) ∧
    (let s := on fun u => (u.setFm 0xA69).setV 0 1 fun _ => 2
     Ready s { vr := [0, 1], sr := [1], lanes := some s.team.exec } ∧
       formFmOk s.team.fm (.tsa false 7 0 1 false) = true ∧ s.team.badTernLanes [0, 1] ≠ 0) ∧
    (let s := fmS 0xA69 0
     let i : Instr := .tsl false 7 0 1 false 2 4 16
     Ready s { vr := [0, 1, 4, 5], sr := [1], lanes := some s.team.exec } ∧ formFmOk s.team.fm i = true ∧
       (∀ j : Nat, j < 2 → 0 ≤ (0 : Int) + j * 2048 ∧ (0 : Int) + j * 2048 + bSpan i s.team.fm ≤ 1024 * s.block.stashKiB) ∧
       isTernary i = true ∧ s.team.badTernLanes [0, 1, 4, 5] = 0) := by decide
theorem witness_MatrixArithmetic : [(1 : Int), 2].length = [(3 : Int), 4].length ∧ (0x4000 : Word).getLsbD 14 = true := by decide
theorem witness_TileTransfers :
    (demo.team.exec ≠ 0 ∧ demo.team.mqueue.length < 16 ∧ Ready demo { lanes := some demo.team.exec } ∧
      (7 : ZReg).toNat < demo.team.ntile) ∧
    (let s := fmS 0 (65536 - 4096)
     Ready s { sr := [1], lanes := some s.team.exec } ∧ (s.team.getS 1).toNat % 128 = 0 ∧
       (s.team.getS 1).toNat + 4096 ≤ 1024 * s.block.stashKiB ∧ s.block.maps = []) ∧
    (let s := fmS 0 (65536 - 3968)
     Ready s { sr := [1], lanes := some s.team.exec } ∧ (s.team.getS 1).toNat % 128 = 0 ∧
       1024 * s.block.stashKiB < (s.team.getS 1).toNat + 4096 ∧ (fmS 0 64).team.getS 1 % 128 ≠ 0) ∧
    (let s := on fun u => u.setExec 0
     s.team.exec = 0 ∧ Ready s { lanes := some s.team.exec } ∧ Ready s { sr := [1], lanes := some s.team.exec } ∧
       Ready s { vw := (List.range 16).map (16 + ·), lanes := some s.team.exec } ∧ Fmt.ofCode (Fm.cfmt s.team.fm) = some .fp32) ∧
    (let s := on fun u => { u with mqueue := List.replicate 16 (itemOf (.zclr false 0) 1 0 0) }
     s.team.exec ≠ 0 ∧ 16 ≤ s.team.mqueue.length ∧ (7 : ZReg).toNat < s.team.ntile ∧ Ready s { lanes := some s.team.exec } ∧
       Ready s { sr := [1], lanes := some s.team.exec } ∧ (s.team.getS 1).toNat + 4096 ≤ 1024 * s.block.stashKiB ∧
       Fmt.ofCode (Fm.cfmt s.team.fm) = some .fp32 ∧ Ready s { vw := (List.range 16).map (16 + ·), lanes := some s.team.exec }) ∧
    (let s := fmS 0xB00 0
     10 < Fm.cfmt s.team.fm ∧ Ready s { lanes := some s.team.exec }) ∧
    (let s := fmS 0x300 0
     Fm.cfmt s.team.fm ≤ 10 ∧ Fmt.ofCode (Fm.cfmt s.team.fm) = some .e4m3 ∧ (4 : VReg).toNat % 4 = 0 ∧
       Ready s { vw := [4, 5, 6, 7], lanes := some s.team.exec } ∧ Fm.afmt s.team.fm = 0) ∧
    (let s := fmS 0x301 0
     Ready s { vw := [4, 5, 6, 7], lanes := some s.team.exec } ∧ Fm.afmt s.team.fm ≠ 0 ∧ Fm.afmt s.team.fm ≠ 10) ∧
    (on fun u => { u with ntile := 0 }).team.ntile ≤ (0 : ZReg).toNat := by
  and_intros <;> decide
/-- A range mapped at stash offset 512, while tensor 1 is a pinned source of tensor 3, and s1 and s3 name places of copies. -/
def mappedAt (va : Nat) (perm : BitVec 3 := 7) : State :=
  let s0 := on fun u => ((u.setS 1 512).setS 2 1).setS 3 0x10001
  let s : State := { s0 with mem := recipeBytes.take 5 ++ (0x300011, 1) :: (0x300014, 1) :: recipeBytes.drop 5,
                             launches := s0.launches.set 1 { s0.launch with priced := [3] } }
  s.setBlock { s.block with maps := [{ off := 512, len := 4096, va := va, pages := [⟨va / 65536, va / 65536, perm⟩] }] }
theorem witness_TileTransfers_mapped :
    (let s := mappedAt 0x40000000
     Ready s { sr := [1], lanes := some s.team.exec } ∧ s.block.mappedVa 512 = some 0x40000000 ∧
       s.readonlyPage s.ctx 0x40000000 = true) ∧
    (let s := mappedAt 0x100000
     Ready s { sr := [1], lanes := some s.team.exec } ∧ s.block.mappedVa 512 = some 0x100000 ∧
       s.block.mayWrite 512 = true ∧ s.readonlyPage s.ctx 0x100000 = false ∧
       s.block.place 512 = .lin 0x100000 ∧ s.pinnedPa 0x100000 = true) ∧
    (let s := mappedAt 0x100000 5
     Ready s { sr := [1], lanes := some s.team.exec } ∧ s.block.mayWrite 512 = false) := by
  and_intros <;> decide
theorem witness_Copies_pinned :
    (let s := mappedAt 0x100000
     Ready s { sr := [1, 2, 3] } ∧ (s.team.getS 1).toNat % 128 = 0 ∧
       finds s 1 (fun x => !x.readonly && !x.compressed && !x.recomputable) .write = true ∧
       s.pinnedTensor 1 false = true) := by
  and_intros <;> decide
theorem witness_TileStore_recomputable :
    (let s : State := { naming 3 1 1 with mem := recipeBytes }
     s.desc s.ctx 3 = .ok desc3 ∧ desc3.recomputable = true ∧ s.recipe s.ctx 3 desc3 = some recipe3 ∧
       (s.writeMap s.ctx desc3 recipe3 ⟨3, 1, 1⟩ false).isSome = true) := by
  and_intros <;> decide
/-- Team 1 has a queued item. -/
def stepping (m : MItem) : State := on fun u => { u with mqueue := [m] }
/-- The hypotheses of a step that runs. -/
def steps (m : MItem) : Bool :=
  let s := stepping m
  decide ((s.teamOf 1).mqueue = [m] ∧ (s.teamOf 1).status = .live ∧ 0 < m.stepsLeft ∧ m.done < 4096) && s.stepReady 1 m
    && !(s.launchOf (s.teamOf 1).launch).saving && !s.stepPoisoned 1 m
theorem witness_MatrixSteps :
    ((steps (itemOf (.mmlBf16 false 3 0 1 false 2 4 8) 2 0 0x22) && steps (itemOf (.mmaI8 false 3 0 1 false) 1 0 0xA66) &&
      steps (itemOf (.tsa false 3 0 1 false) 1 0 0xA69) && steps (itemOf (.zclr false 3) 1 0 0) &&
      steps (itemOf (.zld false 3 1) 1 0 0) && steps (itemOf (.zst false 3 1) 1 128 0) &&
      steps { itemOf (.zst false 3 1) 1 128 0 with done := 3968 } && steps (itemOf (.zcvt false 3 4) 1 0 0)) = true ∧
      tileOfForm (.zst false 3 1) = 3) ∧
    ((stepping (itemOf (.zst false 3 1) 1 128 0)).block.maps = [] ∧
      ((stepping (itemOf (.zst false 3 1) 1 128 0)).team.getZ 3).length = 1024) ∧
    (min (4096 - 0) (512 - (128 + 0) % 512) = 384 ∧ min (4096 - 3968) (512 - (128 + 3968) % 512) = 128) ∧
    (let m := { itemOf (.zld false 3 1) 1 0 0 with id := 1 }
     let c : Copy := { id := 0, kind := .bytes true false, at_ := 0, dst := 0, src := 64, count := 4, done := 0, targets := [],
                       tile := none, batch := none, fault := none }
     let s := on fun u => { u with mqueue := [m], copies := [c] }
     s.stepReady 1 m = false) ∧
    (let m : MItem := { itemOf (.zst false 3 1) 1 512 0 with done := 512 }
     let s0 := mappedAt 0x100000
     let s1 := s0.setTeam { s0.team with mqueue := [m] }
     let s := s1.setLaunchOf 1 { s1.launch with saving := true }
     s.team.mqueue = [m] ∧ s.team.status = .live ∧ s.stepReady 1 m = true ∧ (s.launchOf 1).saving = true ∧
       m.begun = true ∧ s.stepPoisoned 1 m = false ∧ s.block.place (512 + 512) = .lin 0x100200 ∧ s.block.saved = false) ∧
    (let m := itemOf (.zld false 3 1) 1 512 0
     let s0 := mappedAt 0x100000
     let s : State := { s0.setTeam { s0.team with mqueue := [m] } with poisoned := [0x100000 / 512] }
     s.stepReady 1 m = true ∧ s.stepPoisoned 1 m = true) ∧
    (let fm : Word := 0x300
     Fmt.ofCode (Fm.afmt fm) = some .fp32 ∧ Fmt.ofCode (Fm.cfmt fm) = some .e4m3 ∧ Fm.afmt fm ≤ 10 ∧ Fm.cfmt fm ≤ 10) := by
  and_intros <;> decide

/-! Witnesses: hypotheses of the statements on control. A program of two clauses: the team is at the first word of the first,
and the second, at word 16, is a call target. -/

/-- The program, with its team changed. -/
def prog (f : Team → Team) : State :=
  let s := demo
  let k := { Kernel.none with clen := 32, regs := 8, tiles := 8, depth := 1, spawn := 1, launch := 1, callees := [16] }
  let s1 : State := { s with images := s.images.map fun (m : Image) => { m with cmap := 0x10001, kernels := [k] } }
  s1.setTeam (f { s.team with pc := 0x10004 })
/-- An IF entry, and a LOOP entry with two trips left, whose loop begins at word 16. -/
def ifEntry : Entry := { kind := .ifArm, mask := 3, aux := 2, at_ := 0x10040 }
def loopEntry : Entry := { kind := .loop, mask := 3, at_ := 0x10040, rpc := 0x10040, trips := 2, count := 2 }

theorem witness_BranchesAndConditions :
    (Ready (prog id) {} ∧ (prog id).Reaches 0x10040 ∧ condHolds 2 (prog id).team.cc = true ∧
      condHolds 1 (prog id).team.cc = false) ∧
    (Ready (prog id) { kr := [0] } ∧ (prog id).team.getK 0 &&& (prog id).team.exec ≠ 0 ∧
      (prog id).team.getK 1 &&& (prog id).team.exec = 0) ∧
    (let s := prog fun u => u.setS 1 0x10040
     Ready s { sr := [1] } ∧ s.team.pc.toNat < (s.team.getS 1).toNat ∧ s.inCode (s.team.getS 1).toNat = true) ∧
    (let s := prog fun u => u.setS 1 0x10004
     Ready s { sr := [1] } ∧ (s.team.getS 1).toNat ≤ s.team.pc.toNat) := by
  and_intros <;> decide
theorem witness_CallsAndExit :
    (let s := prog fun u => u.setExec 0
     s.team.exec = 0 ∧ Ready s {} ∧ Ready s { sr := [1] }) ∧
    (let s := prog fun u => u.setS 1 0x10040
     s.team.exec ≠ 0 ∧ s.team.spilled = [] ∧ s.team.stack.length < 16 ∧ Ready s { sw := [63] } ∧ Ready s { sr := [1], sw := [63] } ∧
       (s.team.stack.filter fun e => e.kind == .call).length < s.callBound ∧ s.callTarget 0x10040 = true ∧ s.Reaches 0x10040 ∧
       (s.team.getS 1).toNat = 0x10040) ∧
    (let s := prog fun u => { u with stack := [{ kind := .call, mask := 1, rpc := 0x10040 }] }
     Ready s { sw := [63] } ∧ ¬ (s.team.stack.filter fun e => e.kind == .call).length < s.callBound ∧ Ready s {} ∧
       s.isHeader s.ctx 0x10040 = true ∧ s.Reaches 0x10040) ∧
    ((prog id).callTarget ((prog id).team.getS 1).toNat = false ∧ Ready (prog id) { sr := [1], sw := [63] }) ∧
    (Ready (prog fun u => { u with stack := [ifEntry] }) {} ∧ ifEntry.kind ≠ .call) ∧
    (Ready (prog id) {} ∧ (prog id).team.stack = [] ∧ (prog id).team.spilled = []) ∧
    (let s := prog fun u => { u with stack := [{ kind := .trap }] }
     Ready s {} ∧ s.team.inHandler = true) ∧
    ((prog id).team.rebrew = none ∧ (prog id).team.inHandler = false ∧ (prog id).team.copies = [] ∧
      (prog id).team.atoms = [] ∧ (prog id).team.mqueue = []) ∧
    (let c : Copy := { id := 0, kind := .bytes false false, at_ := 0, dst := 0, src := 64, count := 4, done := 0, targets := [],
                       tile := none, batch := none, fault := some (.page, {}) }
     let s := prog fun u => { u with copies := [c] }
     Ready s {} ∧ s.team.rebrew = none ∧ s.team.inHandler = false ∧ faultOf s.team.copies = some (c, .page, {})) ∧
    (let s := prog fun u => { u with mqueue := [itemOf (.zclr false 0) 1 0 0] }
     Ready s {} ∧ s.team.rebrew = none ∧ s.team.inHandler = false ∧ s.team.copies = [] ∧ s.team.mqueue ≠ []) := by
  and_intros <;> decide
theorem witness_MaskedArms :
    (Ready (prog id) { kr := [1] } ∧ (prog id).team.stack.length < 16 ∧ (prog id).team.exec &&& (prog id).team.getK 1 = 0 ∧
      (prog id).team.exec &&& (prog id).team.getK 0 ≠ 0 ∧ (prog id).Reaches 0x10040) ∧
    (let s := prog fun u => { u with stack := [ifEntry] }
     Ready s {} ∧ s.team.stack = [ifEntry] ∧ ifEntry.kind = .ifArm ∧ ifEntry.aux &&& s.team.k0 ≠ 0 ∧ ifEntry.demoted = false) ∧
    (let e := { ifEntry with aux := 0 }
     let s := prog fun u => { u with stack := [e] }
     Ready s {} ∧ e.kind = .ifArm ∧ e.aux &&& s.team.k0 = 0 ∧ s.Reaches 0x10040) ∧
    (let s := prog fun u => { u with stack := [loopEntry] }
     Ready s {} ∧ loopEntry.kind ≠ .ifArm ∧ loopEntry.kind ≠ .elseArm) ∧
    (let e := { ifEntry with demoted := true }
     let s := prog fun u => { u with stack := [e, loopEntry] }
     Ready s {} ∧ s.team.stack = [e, loopEntry] ∧ loopEntry.kind = .loop ∧ s.Reaches e.at_) := by
  and_intros <;> decide
theorem witness_Loops :
    (Ready (prog id) { sr := [1] } ∧ (prog id).team.getS 1 = 0 ∧ (prog id).Reaches 0x10040) ∧
    (let s := prog fun u => u.setS 1 (2 ^ 32)
     Ready s { sr := [1] } ∧ s.team.exec ≠ 0 ∧ 0 < (s.team.getS 1).toNat ∧ s.team.stack.length < 16 ∧ Ready s {}) ∧
    (Ready (prog fun u => u.setExec 0) {} ∧ (prog fun u => u.setExec 0).team.exec = 0) ∧
    (Ready (prog fun u => { u with stack := [ifEntry] }) {} ∧ ifEntry.kind ≠ .loop) ∧
    (let e := { loopEntry with count := 0 }
     let s := prog fun u => { u with stack := [e] }
     Ready s {} ∧ e.kind = .loop ∧ e.whileLoop = false ∧ e.count = 0 ∧ s.Reaches e.rpc) ∧
    (let e := { loopEntry with trips := 0 }
     let s := prog fun u => { u with stack := [e] }
     Ready s {} ∧ ¬ ((s.team.exec ||| e.aux) &&& s.team.k0 = 0 ∨ (e.whileLoop = false ∧ e.count = 0)) ∧ e.trips = 0) ∧
    (let s := prog fun u => { u with stack := [loopEntry], changes := 1 }
     Ready s {} ∧ ¬ ((s.team.exec ||| loopEntry.aux) &&& s.team.k0 = 0 ∨ (loopEntry.whileLoop = false ∧ loopEntry.count = 0)) ∧
       loopEntry.trips ≠ 0 ∧ s.team.pend = [] ∧ loopEntry.mark ≤ s.team.changes ∧ s.Reaches loopEntry.at_) ∧
    (let e : Entry := { loopEntry with mark := 1, steps := 0x04010000 }
     let s := prog fun u => { u with stack := [e] }
     Ready s {} ∧ s.team.changes < e.mark ∧ BitVec.extractLsb' 26 6 e.steps ≠ 0 ∧ BitVec.extractLsb' 16 10 e.steps ≠ 0) ∧
    (let words (o : BitVec 15) : Nat := ((prog id).team.pc + 4 * BitVec.setWidth 48 o).toNat / 4 - (prog id).after.toNat / 4
     words 33 = 32 ∧ words 34 = 33 ∧ words 2 = 1 ∧ words 1 = 0) ∧
    (let e : Entry := { loopEntry with mark := 1 }
     let s := prog fun u => { u with stack := [e, ifEntry] }
     Ready s {} ∧ s.team.stack = [e, ifEntry] ∧ s.team.stack.length < 16 ∧ ifEntry.kind = .ifArm ∧
       ifEntry.demoted = false ∧ ifEntry.aux ≠ 0 ∧ s.team.pend = [] ∧ s.team.changes < e.mark ∧ e.steps = 0 ∧
       (s.team.exec ||| e.aux) &&& s.team.k0 ≠ 0 ∧ e.count ≠ 0 ∧ e.trips ≠ 0 ∧ s.Reaches e.at_) := by
  and_intros <;> decide
theorem witness_LoopExits :
    (let s := prog fun u => { u with stack := [loopEntry] }
     Ready s { kr := [1] } ∧ s.team.spilled = [] ∧ loopEntry.kind = .loop ∧
       s.team.exec &&& ~~~ (s.team.exec &&& s.team.getK 1) ≠ 0) ∧
    (let s := prog fun u => { u with stack := [ifEntry, loopEntry] }
     Ready s { kr := [1] } ∧ s.team.stack = [ifEntry, loopEntry] ∧ ifEntry.kind = .ifArm ∧ ifEntry.demoted = false ∧
       s.team.exec &&& ~~~ (s.team.exec &&& s.team.getK 1) ≠ 0) ∧
    (let s := prog fun u => { u with stack := [loopEntry] }
     Ready s { kr := [0] } ∧ s.team.exec &&& ~~~ (s.team.exec &&& s.team.getK 0) = 0 ∧ loopEntry.aux &&& s.team.k0 = 0 ∧
       s.Reaches loopEntry.rpc) ∧
    (let e : Entry := { loopEntry with aux := 1, count := 0 }
     let s := prog fun u => { u with stack := [e] }
     e.aux &&& s.team.k0 ≠ 0 ∧ e.whileLoop = false ∧ e.count = 0 ∧ s.Reaches e.rpc) ∧
    (let e : Entry := { loopEntry with trips := 0 }
     let s := prog fun u => { u with stack := [e] }
     Ready s { kr := [0] } ∧ (e.aux ||| (s.team.exec &&& s.team.getK 0)) &&& s.team.k0 ≠ 0 ∧ e.count ≠ 0 ∧ e.trips = 0) ∧
    (let arm : Entry := { ifEntry with mask := 3, aux := 0 }
     let s := prog fun u => { u with stack := [arm, loopEntry], changes := 1 }
     let b := s.team.exec &&& s.team.getK 0
     Ready s { kr := [0] } ∧ s.team.exec &&& ~~~ b = 0 ∧ arm.mask &&& ~~~ b = 0 ∧ arm.aux &&& ~~~ b = 0 ∧
       (loopEntry.aux ||| b) &&& s.team.k0 ≠ 0 ∧ loopEntry.count ≠ 0 ∧ loopEntry.trips ≠ 0 ∧ s.team.pend = [] ∧
       loopEntry.mark ≤ s.team.changes ∧ s.Reaches loopEntry.at_) ∧
    (let call : Entry := { kind := .call, mask := 1, rpc := 0x10040 }
     let s := prog fun u => { u with stack := [ifEntry, call] }
     Ready s { kr := [1] } ∧ s.team.spilled = [] ∧ s.team.stack = [ifEntry, call] ∧ call.kind = .call) ∧
    (Ready (prog id) { kr := [1] } ∧ (prog id).team.stack = []) := by
  and_intros <;> decide

/-- A block of one or two participants: team 2 waits at barrier 0, at which nobody has arrived. -/
def pair (tpb : Nat) : State :=
  let s := prog id
  let b := s.block
  let bars : Vector Barrier 8 := Vector.replicate 8 { phase := false, waiters := [2], arrived := [] }
  let k := { Kernel.none with tpb := tpb }
  ({ s with teams := s.teams.set 2 { s.team with index := 1, slot := 1, wait := .barrier 0 0 },
            images := s.images.map fun (m : Image) => { m with kernels := [k] } } : State).setBlock
    { b with teams := [1, 2], bars := bars }
theorem witness_Barriers :
    (let s := pair 2
     Ready s {} ∧ s.team.rebrew = none ∧ s.team.spawner = none ∧ s.team.rels = [] ∧ s.team.acqs = [] ∧ s.team.wait = .none ∧
       s.team.status = .live ∧ s.cur ∉ (s.barrier s.cur 0 0).arrived ∧
       s.relDone s.cur { id := s.seq, scope := 1, dies := [], peers := [], age := 0, arrive := some (0, 0) } = true ∧
       s.cur ∉ (s.barrier s.cur 0 0).waiters ∧ ¬ (s.barrier s.cur 0 0).arrived.length + 1 = s.participants s.cur 0) ∧
    (let s := pair 1
     Ready s {} ∧ s.cur ∉ (s.barrier s.cur 0 0).arrived ∧
       (s.barrier s.cur 0 0).arrived.length + 1 = s.participants s.cur 0 ∧ s.cycleTraps = none ∧
       ∃ w ∈ (s.barrier s.cur 0 0).waiters, w ≠ s.cur ∧ (s.teamOf w).wait = .barrier 0 0 ∧ (s.teamOf w).status ≠ .saved) ∧
    ({ pair 1 with cycleTraps := some [] } : State).cycleTraps ≠ none ∧
    (let s := pair 2
     s.cur ∉ (s.barrier s.cur 2 1).arrived ∧ s.cur ∉ (s.barrier s.cur 2 1).waiters ∧ (1 : BitVec 3).toNat < 2 ∧
       s.relDone s.cur { id := s.seq, scope := 4, dies := [0, 1, 2, 3], peers := [], age := 0, arrive := some (2, 1) } = false) := by
  and_intros <;> decide
/-- What spawn reads. -/
def spawnUse : Use := { sr := (List.range 8).map fun i => BitVec.ofNat 6 (i + 1) }
theorem witness_Spawn :
    (Ready (prog id) spawnUse ∧ (prog id).inCode 0x10044 = false) ∧
    (let s := prog fun u => { u with spawns := 1 }
     Ready s spawnUse ∧ s.team.rebrew = none ∧ s.inCode (s.team.pc + 4 * BitVec.signExtend 48 (15 : BitVec 20)).toNat = true ∧
       s.kernel.spawn ≤ (s.teamOf (s.team.spawner.getD s.cur)).spawns) ∧
    (let s := prog id
     Ready s spawnUse ∧ s.inCode (s.team.pc + 4 * BitVec.signExtend 48 (15 : BitVec 20)).toNat = true ∧
       (s.teamOf (s.team.spawner.getD s.cur)).spawns < s.kernel.spawn ∧ (s.pickSlot s.team.core 1 (s.unplaced s.team.core none)).isSome = true ∧
       s.team.status = .live ∧ (s.teamOf (s.team.spawner.getD s.cur)).status ≠ .vacant) := by
  and_intros <;> decide
/-- A team in a rebrew slot, for a tile of tensor 3. -/
def slot3 : RebrewSlot :=
  { level := 1, name := ⟨3, 1, 1⟩, server := 0, cyc := 1, nj := 1, entry := 0x10000, bytes := 4, cdepth := 0, blocks := 1,
    callees := [] }
theorem witness_BlocksAndTimer :
    (Ready demo {} ∧ demo.team.held.getLsbD 7 = true ∧ Ready demo { vw := blockRegs 7 }) ∧
    (let s := on fun u => { u with held := 1 }
     Ready s {} ∧ s.team.held.getLsbD 7 = false ∧ s.team.heldCount < s.blockBound) ∧
    (let s := on fun u => { u with held := 1 }
     let t : State := { s with images := s.images.map fun (m : Image) => { m with kernels := [{ Kernel.none with regs := 1 }] } }
     Ready t {} ∧ t.team.held.getLsbD 7 = false ∧ t.blockBound ≤ t.team.heldCount) ∧
    (Ready demo { sr := [1] } ∧ demo.team.rebrew = none) ∧
    (Ready (on fun u => { u with rebrew := some slot3 }) { sr := [1] } ∧
      (on fun u => { u with rebrew := some slot3 }).team.rebrew ≠ none) := by
  and_intros <;> decide

/-! Witnesses: hypotheses of the statements on child grids, exceptions, system words and prefixes. -/

/-- A kernel of one team that launches children, and one that a launch or a child may run. -/
def kern : Kernel :=
  { Kernel.none with clen := 32, depth := 1, spawn := 1, launch := 1, callees := [16], flags := 6, childNs := 2 ^ 40,
                     childNj := 2 ^ 40 }
/-- The other one. -/
def leaf : Kernel := { Kernel.none with clen := 32, flags := 6 }
/-- The program with both kernels and a pool. -/
def host (f : Team → Team) : State :=
  let s := prog f
  let s1 : State := { s with images := s.images.map fun (m : Image) => { m with kernels := [kern, leaf] },
                             ctxTable := [(16, 16), (22, 15), (50, 1), (57, 1)] }
  let fig : QuoteRec := { cores := 1, slots := 4, rlines := 64, ishare := 4, llshare := 100 }
  let l := { s1.launch with grid := (1, 1, 1), fig := fig, entry := { pool := 0x10000, poolLen := 2 ^ 24 } }
  { s1.setLaunchOf 1 l with nextQid := 2 }
/-- A child launch record: kernel 1, grid 1 by 1 by 1. -/
def childRecord : List Byte := (List.range 64).map fun i => if i = 0 ∨ i = 8 ∨ i = 10 ∨ i = 12 then 1 else 0
/-- The request that it makes. -/
def creq : Request :=
  { ctx := 0, image := 1, kernel := 1, grid := (1, 1, 1), args := 0, cls := 0, lflags := 0, ishare := 4, life := 0, peerNs := 0,
    qrec := 0, compl := 0, ring := none, parent := some 1, depth := 1 }
/-- The record stands in memory at 0x100000, which s1 holds. -/
def launching : State :=
  { host (fun u => u.setS 1 0x100000) with mem := [(0x100000, 1), (0x100008, 1), (0x10000A, 1), (0x10000C, 1)] }
/-- A context without pieces has room for one that fits its pool, wherever the machine first tries. -/
theorem pieces_some (s : State) (ctx : Nat) (e : CtxEntry) (m : Image) (k : Kernel) (lflags : BitVec 8) (held : Nat)
    (ht : s.poolTaken ctx = []) (hd : m.hasData = false) (h : k.mainBytes lflags held ≤ e.poolLen) :
    ∃ ps, s.placePieces ctx e m k lflags held = some ps := by
  unfold State.placePieces
  rw [ht, hd]
  cases hp : placePiece e (2 * s.nextQid) (k.mainBytes lflags held) 512 [] with
  | some p => exact ⟨[p], by simp [hp]⟩
  | none =>
    exfalso
    simp only [placePiece, List.find?_eq_none, List.map_cons, List.map_nil, List.all_nil, Bool.and_true] at hp
    have := hp ⟨e.pool, k.mainBytes lflags held⟩ (by simp)
    simp at this
    omega
/-- The child is quoted. -/
theorem childQuote_some : ∃ c, launching.childQuote childRecord = some c := by
  obtain ⟨ps, hps⟩ := pieces_some launching 0 (launching.entryFor creq) (launching.images.headD tableImage) leaf 0 1 (by decide) (by decide) (by decide)
  have h1 : launching.imageOf creq.ctx creq.image = some (launching.images.headD tableImage) := by decide
  have h2 : (launching.images.headD tableImage).kernels[creq.kernel]? = some leaf := by decide
  have h3 : creq.inRange = true := by decide
  have h4 : launching.pricedSet creq leaf = .ok ([], [], []) := by rfl
  have h5 : (!leaf.flags.getLsbD (1 + creq.cls) || (leaf.flags.getLsbD 0 && !creq.lflags.getLsbD 0)) = false := by decide
  have h6 : decide (leaf.gridMax.1 < creq.grid.1 ∨ leaf.gridMax.2.1 < creq.grid.2.1 ∨ leaf.gridMax.2.2 < creq.grid.2.2 ∨ 2 ^ 32 ≤ gridCount creq.grid) = false := by decide
  have h7 : Needs.covers ⟨64, 4080, 768, 32⟩ (leaf.needs.plus ⟨0, 0, 0, 0⟩) = true := by decide
  have h10 : launching.place creq (gridCount creq.grid) leaf.needs ⟨0, 0, 0, 0⟩ false false (creq.lflags.getLsbD 1 || leaf.clusterNeeds) = .ok ([0], 1) := by rfl
  have hps' : launching.placePieces creq.ctx (launching.entryFor creq) (launching.images.headD tableImage) leaf creq.lflags ([0].length * 1) = some ps := hps
  have hc : ∃ c, launching.compute creq = .ok c ∧ c.fig.tq ≤ kern.childNs ∧ c.fig.eq ≤ kern.childNj := by
    unfold State.compute
    simp only [h1, h2, h3, h4, h5, h6, refuseIf, bind, Except.bind, pure, Except.pure, List.isEmpty_nil, Bool.not_true,  Bool.false_eq_true, ↓reduceIte, Bool.false_and, h7, h10, hps']
    exact ⟨_, rfl, Nat.le_of_ble_eq_true rfl, Nat.le_of_ble_eq_true rfl⟩
  obtain ⟨c, h, hq⟩ := hc
  refine ⟨c, ?_⟩
  have hr : launching.childRequest childRecord = some creq := by decide
  have hb : ¬ (10 ≤ launching.launch.depth ∨ launching.kernel.launch ≤ launching.team.launches) := by decide
  have hk : launching.kernel = kern := by decide
  unfold State.childQuote
  simp only [hr, hb, h, if_false]
  rw [hk, if_pos hq]

theorem launching_record : (List.range 64).map (fun i => launching.placeByte launching.cur (.lin 0x100000) i) = childRecord := by
  decide
theorem witness_Children :
    (let s := host fun u => u.setS 1 32
     Ready s { sr := [1], sw := [3] } ∧ s.team.rebrew = none ∧ (s.team.getS 1).toNat % 64 ≠ 0) ∧
    (Ready launching { sr := [1], sw := [3] } ∧ launching.team.rebrew = none ∧ (launching.team.getS 1).toNat = 0x100000 ∧
      (launching.translate launching.ctx 0x100000 .read).toOption = some 0x100000 ∧
      launching.earlierDone = true ∧ launching.lineOwned (0x100000 / 512) launching.cur launching.seq = false ∧
      launching.team.launch ≠ launching.nextQid) ∧
    (launching.accessFault launching.ctx 0x100000 .read = none ∧ launching.poisonedAt 0x100000 = false ∧
      (let s := host fun u => u.setS 1 (2 ^ 40)
       (s.team.getS 1).toNat % 64 = 0 ∧ (s.team.getS 1).toNat < 2 ^ 48 ∧ s.accessFault s.ctx (2 ^ 40) .read = some .page) ∧
      (let s : State := { launching with poisoned := [0x100000 / 512] }
       Ready s { sr := [1], sw := [3] } ∧ s.accessFault s.ctx 0x100000 .read = none ∧ s.earlierDone = true ∧
         s.poisonedAt 0x100000 = true)) ∧
    (let s := launching.setTeam { launching.team with launches := 1 }
     Ready s { sr := [1], sw := [3] } ∧ s.kernel.launch ≤ s.team.launches) ∧
    (launching.childQuote (List.replicate 64 0) = none) ∧
    (let s0 := host fun u => u.setS 1 7
     let s (w : Option DWord) : State :=
       (s0.setLaunchOf 1 { s0.launch with children := [7] }).setLaunchOf 7 { Launch.none with completion := w }
     Ready s0 { sr := [1], sw := [3] } ∧ (s0.team.getS 1).toNat ∉ s0.launch.children ∧
       Ready (s none) { sr := [1], sw := [3] } ∧ ((s none).team.getS 1).toNat ∈ (s none).launch.children ∧
       ((s none).launchOf 7).completion = none ∧ ((s (some 5)).launchOf 7).completion = some 5) ∧
    (let s0 := host fun u => { u with wait := .launching 7 3 0, rels := [{ id := 0, scope := 4, dies := [], peers := [], age := 0 }] }
     let s := s0.setLaunchOf 7 { Launch.none with phase := .open }
     (s.teamOf 1).wait = .launching 7 3 0 ∧ (s.launchOf 7).phase = .open ∧ s.relNumberDone 1 0 = true ∧
       (s.dropRelease 1 0).residentOk ((s.dropRelease 1 0).launchOf 7) = true) ∧
    (let s0 := host fun u => { u with wait := .launching 7 3 0, rels := [{ id := 0, scope := 4, dies := [0], peers := [], age := 0 }] }
     s0.relNumberDone 1 0 = false) := by
  and_intros <;> decide

/-- The context's user handler is the program's first clause. -/
def handling (f : Team → Team) : State :=
  let s := prog f
  s.setLaunchOf 1 { s.launch with entry := { uhand := 0x10000 } }
theorem witness_TrapEntry :
    ((handling id).CanEnter ∧ Cause.arith.privileged = false ∧ Cause.arith.resumable = true) ∧
    (Cause.fmt.privileged = false ∧ Cause.fmt.resumable = false ∧ (handling id).team.inTerminal = false) ∧
    ((prog id).team.rebrew = none ∧ (prog id).team.inv = none ∧ Cause.fmt.privileged = false ∧ Cause.fmt ≠ .timer ∧
      (prog id).handlerOk = false ∧ (prog id).cycleTraps = none ∧ (handling id).cycleTraps = none) ∧
    (let s := handling fun u => u.withPend 0 (.s 3) (.scalar 5)
     s.team.rebrew = none ∧ s.team.inv = none ∧ s.handlerOk = true ∧ s.team.handlerRuns < 65535 ∧ s.team.stack.length < 16 ∧
       s.team.retired = false) ∧
    ((prog id).emergency.find? (prog id).team.core = none ∧
      ({ prog id with emergency := [(0, 2)] } : State).emergency.find? 0 ≠ none) := by
  and_intros <;> decide
/-- What tret reads and writes. -/
def tretUse : Use := { sr := [59], sw := [59, 60, 61] }
theorem witness_TrapWords :
    (Ready (handling id) {} ∧ (handling id).CanEnter ∧ (handling id).team.status = .live) ∧
    (let e : Entry := { kind := .trap, rpc := 0x10040, at_ := 0x10004 }
     let s (e : Entry) (x : DWord) := handling fun u => ({ u with stack := [e] } : Team).setS 59 x
     (Ready (s e 0x10040) tretUse ∧ (s e 0x10040).team.stack = [e] ∧ (s e 0x10040).team.getS 59 = BitVec.setWidth 64 e.rpc ∧
       (s e 0x10040).Reaches e.rpc) ∧
     (Ready (s e 0) tretUse ∧ (s e 0).team.getS 59 = 0 ∧ (s e 0).Reaches (BitVec.ofNat 48 ((s e 0).nextOf e.at_.toNat))) ∧
     (Ready (s e 4) tretUse ∧ (s e 4).team.getS 59 ≠ BitVec.setWidth 64 e.rpc ∧ (s e 4).team.getS 59 ≠ 0) ∧
     (Ready (s { e with term := true } 0) tretUse ∧ (s { e with term := true } 0).team.stack = [{ e with term := true }] ∧ (s { e with term := true } 0).cycleTraps = none) ∧
     Ready (s ifEntry 0) tretUse ∧ ifEntry.kind ≠ .trap) := by
  and_intros <;> decide

/-- A privileged team with s1 and s2 set. -/
def priv (x y : DWord) : State := on fun u => { (u.setS 1 x).setS 2 y with privileged := true }
theorem witness_SystemWords :
    (Ready demo { sw := [3] } ∧ demo.team.privileged = false) ∧
    ((priv 0 0).team.privileged = true ∧ (priv 0 0).sysRead 0x003 = none ∧ (priv 0 0).sysRead 0x10E = some 0 ∧
      Ready (priv 0 0) { sw := [3] } ∧ Ready (priv 0 0) {} ∧ Ready (priv 0 0) { sr := [1] } ∧ Ready (priv 0 0) { sr := [1, 2] } ∧
      ((priv 0 0).team.getS 1).toNat % 2048 = 0) ∧
    (1 ≤ ((priv 1900 0).team.getS 1).toNat % 2048 ∧ ((priv 1900 0).team.getS 1).toNat % 2048 ≤ 1900) ∧
    (1900 < ((priv 1901 0).team.getS 1).toNat % 2048) ∧
    (bits ((priv (1 <<< 62) 0).team.getS 1).toNat 63 62 = 1) ∧
    (((priv 0xFFF 0xFFFFFFFFFFFF).team.getS 1).toNat < 2 ^ 12 ∧ ((priv 0xFFF 0xFFFFFFFFFFFF).team.getS 2).toNat < 2 ^ 48) ∧
    (2 ^ 12 ≤ ((priv 0x1000 0).team.getS 1).toNat) := by
  and_intros <;> decide

/-- The program with other words in its line of code. -/
def coded (ws : List Word) (f : Team → Team) : State :=
  let s := prog f
  { s with icache := s.icache.map fun (l : ICacheLine) => { l with words := ws ++ List.replicate (32 - ws.length) 0 } }
theorem witness_Prefixes :
    (let s := coded [0x4C000000, 0, 0x10144100] id
     Ready s {} ∧ s.repOk 1 0 0 0 = true ∧ s.repOk 0 0 0 1 = false) ∧
    ((coded [0x4C000000] id).routine 1 1 2 3 4 5 = none) ∧
    (let s := coded [0x4C000040, 0, 0, 0x10144100] id
     s.routine 1 1 2 3 4 5 = some ([{ at_ := 0x4003, lit := false, w := 0x10144100 }], 0x4004) ∧
       Ready s { vr := [1], vw := [2, 3, 4, 5], lanes := some s.team.exec } ∧
       (∀ l, l < 1024 → s.team.exec.getLsbD l = true → l < s.team.tsize) ∧ s.team.tsize ≤ 1024 ∧ s.team.exec ≠ 0 ∧
       s.team.exec.getLsbD 63 = true ∧ isNan32 (s.team.getV 1 63) = false ∧ isNan32 (s.team.getV 2 63) = false ∧
       isNan32 (s.team.getV 3 63) = false ∧ orderedImage (s.team.getV 2 63) ≤ orderedImage (s.team.getV 3 63)) ∧
    (let s := coded [0x4C000040, 0, 0, 0x10144100] fun u => u.setExec 0
     Ready s { vr := [1], vw := [2, 3, 4, 5], lanes := some s.team.exec } ∧ s.team.exec = 0) := by
  and_intros <;> decide
theorem witness_RecipeOutput :
    (demo.team.rebrew = none ∧ Ready demo { vr := tileRegs 4, lanes := some 0 }) ∧
    (let s := on fun u => { u with rebrew := some slot3 }
     s.team.rebrew = some slot3 ∧ Ready s { vr := tileRegs 4 } ∧ s.team.copies = [] ∧ s.team.mqueue = [] ∧ s.team.atoms = [] ∧
       s.team.pend = [] ∧ s.desc s.ctx slot3.name.tensor = .ok desc3) ∧
    (let s := on fun u => { u with rebrew := some slot3, mqueue := [itemOf (.zclr false 0) 1 0 0] }
     Ready s { vr := tileRegs 4 } ∧ s.team.mqueue ≠ []) := by
  and_intros <;> decide

/-! Witnesses: hypotheses of the statements on streams, the host and pre-emption. -/

/-- Stream 0 is enabled for context 0; endpoint 5 manages the device, and endpoint 6 owns the stream. -/
def streaming (s : State) : State :=
  { s with sys := { s.sys with mgmtep := 5 }, streamTable := [(33, 0x80), (36, 6)] }
/-- Its high ring. -/
def ring0 : Ring := ⟨0, true⟩
/-- The bytes of a small image at 0x200000 that are not zero: a header, three sections, a clause that exits, its map, and one
kernel (R54 to R56). -/
def imageCells : Memory :=
  ([(0, 0x4C), (1, 0x4E), (2, 0x42), (4, 1), (6, 3), (8, 0x41), (12, 0x92), (13, 1), (14, 0x39), (15, 0x5A), (16, 0x40), (17, 1),
    (20, 1), (64, 1), (68, 0x80), (72, 8), (80, 3), (84, 0xC0), (88, 1), (96, 4), (101, 1), (104, 0x40), (131, 0x1C), (135, 0x6F),
    (192, 1), (260, 2), (264, 1), (266, 1), (267, 1), (272, 1), (274, 1), (276, 1), (281, 6)] : List (Nat × Byte)).map
    fun p => (0x200000 + p.1, p.2)
/-- A stream that finds it, and the state in which its REG is handled. -/
def registering : State := streaming { demo with mem := imageCells }
def regKept (at_ : BitVec 64) : State :=
  let x := registering.ringOf ring0
  registering.setRing ring0 { x with delta := { x.delta with reg := (at_, 0) } }
/-- The image is admitted. -/
theorem image_admitted : ((regKept 0x200000).checkImage 0 0x200000).toOption.isSome = true := by decide
/-- What stands at 0x100000 is refused. -/
theorem image_refused : (match (regKept 0x100000).checkImage 0 0x100000 with | .error r => r | .ok _ => 0) = 1 := by decide
/-- A QUOTE for kernel 1 of image 1. -/
def quote1 : QuoteFields := ⟨1, 1, 0x100010001, 0, 0x40000, 0, 0, 0⟩
/-- One member satisfies a test: it is what the list without repeats leaves. -/
theorem eraseDups_filter_one (p : Nat → Bool) (a : Nat) (ha : p a = true) : ∀ (n : Nat) (l : List Nat), l.length ≤ n → a ∈ l →
    (∀ x ∈ l, p x = true → x = a) → l.eraseDups.filter p = [a]
  | 0, l, hn, hm, _ => by cases l <;> simp_all
  | n + 1, l, hn, hm, hx => by
    cases l with
    | nil => simp at hm
    | cons b bs =>
      have hl : (bs.filter fun c => !c == b).length ≤ n :=
        Nat.le_trans (List.length_filter_le ..) (by simpa using hn)
      rw [List.eraseDups_cons]
      by_cases hb : b = a
      · subst hb
        rw [List.filter_cons_of_pos ha]
        congr 1
        rw [List.filter_eq_nil_iff]
        intro c hc hp
        have hc' := List.mem_filter.1 (List.mem_eraseDups.1 hc)
        have := hx c (List.mem_cons_of_mem _ hc'.1) hp
        simp [this] at hc'
      · rw [List.filter_cons_of_neg fun h => hb (hx b List.mem_cons_self h)]
        have hm' : a ∈ bs := by
          cases hm with
          | head => exact absurd rfl hb
          | tail _ h => exact h
        refine eraseDups_filter_one p a ha n _ hl (List.mem_filter.2 ⟨hm', by simpa using fun h : a = b => hb h.symm⟩) fun x h hp => ?_
        exact hx x (List.mem_cons_of_mem _ (List.mem_filter.1 h).1) hp
/-- The state in which its packet is handled: every core but core 0 is fenced. -/
def asking : State :=
  ({ streaming (host id) with fenced := 2 ^ 192 - 2 } : State).setRing ring0
    { RingState.start with delta := { Delta.zero with quote := quote1 } }
/-- The request that it makes. -/
def request1 : Request := { creq with ring := some ring0, parent := none, depth := 0 }
theorem request1_eq : asking.requestOf ring0 quote1 = request1 := by decide
/-- It fits. -/
theorem compute_ok : ∃ l, asking.compute request1 = .ok l := by
  obtain ⟨ps, hps⟩ := pieces_some asking 0 (asking.entryFor request1) (asking.images.headD tableImage) leaf 0 1 (by decide) (by decide) (by decide)
  have h1 : asking.imageOf request1.ctx request1.image = some (asking.images.headD tableImage) := by decide
  have h2 : (asking.images.headD tableImage).kernels[request1.kernel]? = some leaf := by decide
  have h3 : request1.inRange = true := by decide
  have h4 : asking.pricedSet request1 leaf = .ok ([], [], []) := by rfl
  have h5 : (!leaf.flags.getLsbD (1 + request1.cls) || (leaf.flags.getLsbD 0 && !request1.lflags.getLsbD 0)) = false := by decide
  have h6 : decide (leaf.gridMax.1 < request1.grid.1 ∨ leaf.gridMax.2.1 < request1.grid.2.1 ∨ leaf.gridMax.2.2 < request1.grid.2.2 ∨
    2 ^ 32 ≤ gridCount request1.grid) = false := by decide
  have h7 : Needs.covers ⟨64, 4080, 768, 32⟩ (leaf.needs.plus ⟨0, 0, 0, 0⟩) = true := by decide
  have hc : asking.candidates request1 = [0] := by
    refine eraseDups_filter_one _ 0 (by decide) _ _ (Nat.le_refl _) (by simp) fun x hx h => ?_
    have hlt : x < 192 := by simpa using (List.mem_filter.1 hx).2
    exact (show ∀ x, x < 192 → asking.admitsCore request1.ctx x = true → x = 0 by decide) x hlt h
  have h10 : asking.place request1 (gridCount request1.grid) leaf.needs ⟨0, 0, 0, 0⟩ false false
      (request1.lflags.getLsbD 1 || leaf.clusterNeeds) = .ok ([0], 1) := by unfold State.place; rw [hc]; rfl
  have hps' : asking.placePieces request1.ctx (asking.entryFor request1) (asking.images.headD tableImage) leaf request1.lflags ([0].length * 1) = some ps := hps
  unfold State.compute
  simp only [h1, h2, h3, h4, h5, h6, refuseIf, bind, Except.bind, pure, Except.pure, List.isEmpty_nil, Bool.not_true,
    Bool.false_eq_true, ↓reduceIte, Bool.false_and, h7, h10, hps']
  exact ⟨_, rfl⟩
/-- A request for an image that the context does not hold. -/
theorem compute_error : (match asking.compute { request1 with image := 9 } with | .error r => r | .ok _ => 0) = 1 := by decide


/-- A stream whose launch 1 or quote 7 is in a phase. -/
def withLaunch (id : Nat) (l : Launch) : State := (streaming demo).setLaunchOf id l
theorem witness_Packets :
    (demo.ringRuns ring0 = false) ∧ ((streaming demo).ringRuns ring0 = true) ∧
    (({ streaming demo with quotingPaused := true } : State).quotingPaused = true) ∧
    (registering.ringRuns ring0 = true ∧ registering.ringCtx ring0 = 0) ∧
    (let s : State := { streaming (host id) with fenced := 2 ^ 192 - 2 }
     s.ringRuns ring0 = true ∧ s.quotingPaused = false ∧
       s.setRing ring0 { s.ringOf ring0 with delta := { (s.ringOf ring0).delta with quote := quote1 } } = asking) ∧
    (((streaming demo).launchOf 7).phase ≠ .open) ∧
    (let l := { Launch.none with phase := .open, fig := { expiry := 5 } }
     let s : State := { withLaunch 7 l with ns := 6 }
     s.launchOf 7 = l ∧ l.parent = none ∧ l.ctx = s.ringCtx ring0 ∧ l.fig.expiry < s.ns) ∧
    (let l := { Launch.none with phase := .open, fig := { expiry := 5 } }
     let s := withLaunch 7 l
     s.launchOf 7 = l ∧ s.ns ≤ l.fig.expiry ∧ s.sys.opp ≤ l.fig.opp ∧ (1 : BitVec 32).getLsbD 0 = true ∧ s.residentOk l = true) ∧
    (let l := { Launch.none with phase := .open, fig := { expiry := 5 }, residents := [9] }
     (withLaunch 7 l).launchOf 7 = l ∧ (withLaunch 7 l).residentOk l = false) ∧
    (let l := { Launch.none with phase := .live }
     (withLaunch 7 l).launchOf 7 = l ∧ l.ctx = (withLaunch 7 l).ringCtx ring0) ∧
    (let child := { Launch.none with phase := .open, parent := some 1 }
     let whole := { Launch.none with phase := .live, retiredBlocks := 1 }
     let part := { Launch.none with phase := .live, grid := (1, 1, 1) }
     (withLaunch 7 child).launchOf 7 = child ∧ (withLaunch 7 whole).allRetired 7 = true ∧ (withLaunch 7 part).allRetired 7 = false ∧
       part.ctx = (withLaunch 7 part).ringCtx ring0) ∧
    ((streaming demo).readVirtLE 0 (2 ^ 40) 8 = none) ∧ ((streaming demo).readVirtLE 0 0x100000 8 = some 0) ∧
    (((streaming demo).launchOf 7).phase ≠ .live ∧ ((streaming demo).launchOf 1).phase = .live ∧
      ((streaming demo).launchOf 1).ctx = (streaming demo).ringCtx ring0) ∧
    ((1 : BitVec 32).getLsbD 0 = true ∧ ((streaming demo).writeVirt 0 0x100000 [1, 2, 3, 4, 5, 6, 7, 8]).isSome = true) ∧
    (((streaming demo).ringOf ring0).hold = none) ∧
    ((({ streaming demo with rings := [(ringKey ring0, { RingState.start with hold := some [1] })] } : State).ringOf ring0).hold
      = some [1]) := by
  and_intros <;> decide

/-- The small machine with endpoint 5 as manager, and with a bit of its system registers changed. -/
def managed (f : SysRegs → SysRegs) : State := { demo with sys := f { demo.sys with mgmtep := 5 } }
/-- Every pipe, and every agent that has none, finds the small machine's first page. -/
theorem demo_translates (s : State) (pipe : Option Nat) (va : Nat) (n : Need) (hs : s.tlbs = demo.tlbs) (ha : s.asid 0 = 0)
    (h : va < 2 ^ 30) : s.translateOn pipe 0 va n = .ok va := by
  have hh : s.tlbHit pipe 0 va = some { asid := 0, va := 0, size := 2 ^ 30, pa := 0, perm := 7 } := by
    have hp : s.heldAt .pins 0 va = some { asid := 0, va := 0, size := 2 ^ 30, pa := 0, perm := 7 } := by
      unfold State.heldAt
      rw [hs]
      show Option.map _ (List.find? _ [_, _]) = _
      rw [List.find?_cons_of_pos (by simp [Tlb.covers]; omega)]
      rfl
    have hn : ∀ p, p ≠ .pins → s.heldAt p 0 va = none := by
      intro p hp
      unfold State.heldAt
      rw [hs, Option.map_eq_none_iff, List.find?_eq_none]
      intro x hx
      have : x.1 = .pins := by
        have hd : ∀ y ∈ demo.tlbs, y.1 = .pins := by decide
        exact hd x hx
      simp [this, Ne.symm hp]
    unfold State.tlbHit tlbPlaces
    cases pipe <;> simp [ha, hp, hn]
  unfold State.translateOn State.lookupOn
  rw [hh, if_neg (by omega : ¬ va ≥ 2 ^ 48)]
  cases n <;> simp [Need.allowed]
/-- An address below 1 GiB may be accessed in the small machine. -/
theorem managed_access (va : Nat) (h : va < 2 ^ 30) : (managed id).accessFault 0 va .write = none := by
  have hi : (managed id).inImage 0 va = false := rfl
  unfold State.accessFault State.accessFaultOn
  rw [hi, demo_translates (managed id) _ va _ rfl (by decide) h]
  rfl
/-- What a report needs of its 7968 bytes. -/
theorem witness_EndpointWrites_report : ∀ i, i < 7968 → (managed id).accessFault 0 (0x100000 + i) .write = none :=
  fun _ h => managed_access _ (by omega)
theorem witness_EndpointWrites :
    (demo.sys.mgmtep = 0) ∧ ((managed id).sys.mgmtep ≠ 0 ∧ (5 : DWord) = (managed id).sys.mgmtep) ∧
    (¬ ((managed id).sys.mgmtep ≠ 0 ∧ (6 : DWord) = (managed id).sys.mgmtep)) ∧
    (1 ≤ (1900 : DWord).toNat % 2048 ∧ (1900 : DWord).toNat % 2048 ≤ 1900) ∧ 1900 < (1901 : DWord).toNat % 2048 ∧
    (3 : DWord).toNat % 4 = 3 ∧ (2 : DWord).toNat % 4 ≤ (managed fun r => { r with opp := 2 }).sys.opp ∧
    (let s := (managed id).setLaunchOf 1 { (managed id).launch with phase := .live }
     s.sys.opp < 2 ∧ ∃ e ∈ s.launches, e.2.phase = .live ∧ e.2.fig.opp < 2) ∧
    (let s : State := { managed id with launches := [] }
     s.sys.opp < 2 ∧ ∀ e ∈ s.launches, ¬ (e.2.phase = .live ∧ e.2.fig.opp < 2)) ∧
    ((0x328 : BitVec 24).toNat / 8 * 8 = 8 * 0x065 ∧ (0x808 : BitVec 24).toNat / 8 * 8 = 8 * 0x101 ∧
      (0x80 : BitVec 24).toNat / 8 * 8 = 8 * 0x010 ∧ 0x8000 ≤ (0x8000 : BitVec 24).toNat / 8 * 8 ∧
      (0xFFFF : BitVec 24).toNat / 8 * 8 < 0x10000 ∧ 0x11000 ≤ (0x11000 : BitVec 24).toNat / 8 * 8 ∧
      (0x1FFFF : BitVec 24).toNat / 8 * 8 < 0x20000) ∧
    ((managed id).sys.astat ≠ 1 ∧ bits (0x1000000000 : DWord).toNat 15 4 < 64 ∧ bits (0x1000000000 : DWord).toNat 63 16 % 64 = 0 ∧
      (managed id).sys.ahandle = 0 ∧ bits (0x1000000000 : DWord).toNat 63 16 + 7968 ≤ 2 ^ 30) ∧
    (bits (0x10000 : DWord).toNat 63 16 % 64 ≠ 0) ∧
    ((0x10FFF : BitVec 24).toNat / 8 * 8 < 0x11000 ∧ 0x10000 ≤ (0x10000 : BitVec 24).toNat / 8 * 8) ∧
    ((0x22000 : BitVec 24).toNat / 8 * 8 = 0x22000 ∧ (0x100 : BitVec 24).toNat / 8 * 8 = 8 * 0x020) ∧
    ((streaming demo).streamOn 0 = true ∧ (streaming demo).endpt 0 = (6 : DWord).toNat ∧ ring0.stream < 128 ∧
      (streaming demo).sys.mgmtep ≠ 0 ∧ (streaming demo).streamErr 0 ≠ 6) ∧
    ((({ streaming demo with rings := [(ringKey ring0, { RingState.start with stopped := true })] } : State).ringOf ring0).stopped
      = true) ∧
    (({ streaming demo with streamTable := [(35, 6)] } : State).streamErr 0 = 6) ∧
    (let s := managed id
     (0x100000 : BitVec 64).toNat + [1, 2].length ≤ 0xFFF0000000000 ∧
       (∀ i, i < 2 → s.ownerOf ((0x100000 + i) / 512) = none) ∧ ∀ e ∈ s.launches, e.2.phase = .live → e.2.named = []) ∧
    2 ^ 52 < (2 ^ 52 - 1 : BitVec 64).toNat + [1, 2].length := by
  and_intros <;> decide

/-- Launch 1 runs at class YIELD. -/
def yielding (f : Launch → Launch) : State :=
  (managed id).setLaunchOf 1 (f { (managed id).launch with phase := .live, yieldClass := true, grid := (1, 1, 1) })
/-- The bytes of a launch record at 0x180000 that are not zero: kernel 1, a share of 4, a grid of 1 by 1 by 1, the features, and
the pool piece at 0x10000. -/
def recordCells : Memory :=
  ([(40, 1), (43, 4), (44, 1), (46, 1), (48, 1), (64, 1), (72, 1), (80, 0x7F), (88, 0xFF), (89, 0x0F), (96, 0x1F), (105, 3),
    (112, 32), (128, 9), (136, 9), (162, 1)] : List (Nat × Byte)).map fun p => (0x180000 + p.1, p.2)
/-- A device that holds the image, with that record at PREADDR. -/
def importing : State :=
  { asking with mem := recordCells, sys := { asking.sys with preaddr := 0x180000 },
                images := asking.images.map fun (m : Image) => { m with sha := List.replicate 32 0 } }
/-- Its image. -/
def image1 : Image := importing.images.headD tableImage
/-- The record's request, with the two values that the record does not hold. -/
def request2 (p c : Nat) : Request := { creq with ring := none, parent := none, depth := 0, peerNs := p, compl := c / 8 * 8 }
/-- That of its launch record. -/
def request3 : Request := request2 (Config.importedPeerNs importing.fresh) (Config.importedCompl importing.fresh)
theorem request2_eq : importRequest 0 1 importing.fresh (importing.mem.readBytes importing.sys.preaddr.toNat 256) =
    request3 := by
  have h : ∀ p c, ({ importRequest 0 1 importing.fresh (importing.mem.readBytes importing.sys.preaddr.toNat 256) with
      peerNs := p, compl := c / 8 * 8 } : Request) = request2 p c := by
    have h0 : ({ importRequest 0 1 importing.fresh (importing.mem.readBytes importing.sys.preaddr.toNat 256) with
      peerNs := 0, compl := 0 } : Request) = { request2 0 0 with peerNs := 0, compl := 0 } := by decide
    intro p c
    simp only [Request.mk.injEq] at h0 ⊢
    simp_all [request2]
  exact h _ _
/-- What the set, the cores and the placement of a request do not rest on. -/
theorem pricedSet_free (s : State) (q : Request) (p c : Nat) (k : Kernel) :
    s.pricedSet { q with peerNs := p, compl := c } k = s.pricedSet q k := rfl
theorem place_free (s : State) (q : Request) (p c n : Nat) (x y : Needs) (i j k : Bool) :
    s.place { q with peerNs := p, compl := c } n x y i j k = s.place q n x y i j k := rfl
/-- The launch is admitted with its record. -/
theorem witness_Preemption_import : ∃ m l, importing.contextOf (((importing.mem.readBytes importing.sys.preaddr.toNat 256).drop 8).take 32) = some m ∧
    importing.importQuote (importRequest m.ctx m.handle importing.fresh (importing.mem.readBytes importing.sys.preaddr.toNat 256))
      (importing.mem.readBytes importing.sys.preaddr.toNat 256) = some l ∧
    State.residentOk { importing with nextQid := importing.nextQid + 1, fresh := importing.fresh + 1 } l = true := by
  have hi : importing.contextOf (((importing.mem.readBytes importing.sys.preaddr.toNat 256).drop 8).take 32) = some image1 := by decide
  have hm : image1.ctx = 0 ∧ image1.handle = 1 := by decide
  have hf := request2_eq
  have hz : importing.poolTaken 0 = [] := by decide
  have hd : image1.hasData = false := by decide
  have hb : leaf.mainBytes 0 1 ≤ (importing.entryFor request3).poolLen := by rw [show importing.entryFor request3 = importing.entryFor (request2 0 0) from rfl]; decide
  obtain ⟨ps, hps⟩ := pieces_some importing 0 (importing.entryFor request3) image1 leaf 0 1 hz hd hb
  have h1 : importing.imageOf 0 1 = some image1 := by decide
  have h2 : image1.kernels[1]? = some leaf := by decide
  have h3 : request3.inRange = true := by simp [request3, request2, Request.inRange, creq]
  have h4 : importing.pricedSet request3 leaf = .ok ([], [], []) :=
    (pricedSet_free importing (request2 0 0) _ _ leaf).trans (by rfl)
  have h5 : (!leaf.flags.getLsbD (1 + creq.cls) || (leaf.flags.getLsbD 0 && !creq.lflags.getLsbD 0)) = false := by decide
  have h6 : decide (leaf.gridMax.1 < creq.grid.1 ∨ leaf.gridMax.2.1 < creq.grid.2.1 ∨ leaf.gridMax.2.2 < creq.grid.2.2 ∨
    2 ^ 32 ≤ gridCount creq.grid) = false := by decide
  have h7 : Needs.covers ⟨64, 4080, 768, 32⟩ (leaf.needs.plus ⟨0, 0, 0, 0⟩) = true := by decide
  have hc : importing.candidates (request2 0 0) = [0] := by
    refine eraseDups_filter_one _ 0 (by decide) _ _ (Nat.le_refl _) (by simp) fun x hx h => ?_
    have hlt : x < 192 := by simpa using (List.mem_filter.1 hx).2
    exact (show ∀ x, x < 192 → importing.admitsCore 0 x = true → x = 0 by decide) x hlt h
  have h10 : importing.place request3 (gridCount creq.grid) leaf.needs ⟨0, 0, 0, 0⟩ false false
      (creq.lflags.getLsbD 1 || leaf.clusterNeeds) = .ok ([0], 1) :=
    (place_free importing (request2 0 0) _ _ _ _ _ _ _ _).trans (by unfold State.place; rw [hc]; rfl)
  have hq : ∃ l, importing.compute request3 = .ok l ∧ l.coreList = [0] ∧ l.perCore = 1 ∧ l.dataVa = 0 ∧
      (l.image = 1 ∧ l.kernel = 1) ∧ l.ctx = 0 ∧ l.ring = none ∧ l.args = 0 ∧ l.residents = [] ∧ l.priced = [] ∧
      l.entry = importing.entryFor (request2 0 0) := by
    have g1 : importing.imageOf request3.ctx request3.image = some image1 := h1
    have g2 : image1.kernels[request3.kernel]? = some leaf := h2
    have g5 : (!leaf.flags.getLsbD (1 + request3.cls) || (leaf.flags.getLsbD 0 && !request3.lflags.getLsbD 0)) = false := h5
    have g6 : decide (leaf.gridMax.1 < request3.grid.1 ∨ leaf.gridMax.2.1 < request3.grid.2.1 ∨
      leaf.gridMax.2.2 < request3.grid.2.2 ∨ 2 ^ 32 ≤ gridCount request3.grid) = false := h6
    have g10 : importing.place request3 (gridCount request3.grid) leaf.needs ⟨0, 0, 0, 0⟩ false false
      (request3.lflags.getLsbD 1 || leaf.clusterNeeds) = .ok ([0], 1) := h10
    have g11 : importing.placePieces request3.ctx (importing.entryFor request3) image1 leaf request3.lflags ([0].length * 1) = some ps := hps
    have g12 : ∀ a b t o, worstBlock a b leaf.whole.nwait leaf.whole.twait leaf.whole.nsys request3.peerNs t o =
        worstBlock a b leaf.whole.nwait leaf.whole.twait 0 0 t o := fun a b t o => by
      have h : leaf.whole.nsys = 0 := by decide
      simp only [worstBlock, h, Nat.zero_mul]
    unfold State.compute
    simp only [g12, g1, g2, h3, h4, g5, g6, refuseIf, bind, Except.bind, pure, Except.pure, List.isEmpty_nil, Bool.not_true,
      Bool.false_eq_true, ↓reduceIte, Bool.false_and, h7, g10, g11]
    refine ⟨_, rfl, ?_⟩
    exact ⟨rfl, rfl, rfl, ⟨rfl, rfl⟩, rfl, rfl, rfl, rfl, rfl, rfl⟩
  obtain ⟨l, hl, e1, e2, e3, e4, e5, e6, e7, e8, e9, e10⟩ := hq
  have ek : importing.kernelOf l = leaf := by
    unfold State.kernelOf
    rw [e5, e4.1, e4.2, h1]
    decide
  have hx : ∃ x : Launch, importing.importQuote request3 (importing.mem.readBytes importing.sys.preaddr.toNat 256) = some x ∧
      State.residentOk { importing with nextQid := importing.nextQid + 1, fresh := importing.fresh + 1 } x = true := by
    unfold State.importQuote
    simp only [hl, e1, e2, e3, e10, ek, if_true]
    rw [if_pos (by decide)]
    refine ⟨_, rfl, ?_⟩
    unfold State.residentOk State.residentSet
    simp only [e4, e5, e6, e7, e8, e9, Option.isNone_none, ↓reduceIte]
    decide
  obtain ⟨x, h, hr⟩ := hx
  refine ⟨image1, x, hi, ?_, hr⟩
  rw [hm.1, hm.2, hf]
  exact h
theorem witness_Preemption :
    ((managed id).sys.mgmtep ≠ 0 ∧ ((managed id).launchOf 7).phase ≠ .live) ∧
    (let s : State := { yielding id with blocks := [] }
     (s.launchOf 1).phase = .live ∧ (s.launchOf 1).yieldClass = true ∧
       (∀ e ∈ s.blocks, ¬ (e.2.launch = 1 ∧ e.2.saved = false ∧ e.2.retired = false)) ∧ s.quiet 1 = true ∧
       ¬ ∃ e ∈ s.blocks, e.2.launch = 1 ∧ e.2.saved = true ∧ e.2.retired = false) ∧
    (let s := (yielding id).setTeam { (yielding id).team with due := some { cause := .page, lanes := allLanes 64, detail := {} } }
     s.stores = [] ∧ (∀ e ∈ s.blocks, s.blockOf e.1 = e.2) ∧
       (∃ e ∈ s.blocks, e.2.launch = 1 ∧ e.2.saved = false ∧ e.2.retired = false) ∧
       (∀ e ∈ s.blocks, ∃ u ∈ e.2.teams, (s.teamOf u).status = .live ∧ (s.teamOf u).savable = false) ∧
       (s.launchOf 1).ending = none ∧ s.allRetired 1 = false) ∧
    (let s := yielding id
     s.stores = [] ∧ (∀ e ∈ s.blocks, s.blockOf e.1 = e.2) ∧ s.blocksOf 1 Block.placed = [1] ∧
       (∀ v ∈ (s.blockOf 1).teams, (s.teamOf v).status = .retired ∨ ((s.teamOf v).status = .live ∧ (s.teamOf v).savable = true)) ∧
       (∃ v ∈ (s.blockOf 1).teams, (s.teamOf v).status = .live) ∧ s.allRetired 1 = false) ∧
    (let s0 := yielding fun l => { l with fig := { slots := 4, rlines := 256, stashk := 64, tiles := 32, ishare := 4 } }
     let s := (s0.setBlock { s0.block with saved := true }).setTeam { s0.team with status := .saved, tsize := 64 }
     (s.blockOf 1).launch = 1 ∧ (s.blockOf 1).saved = true ∧ (s.blockOf 1).retired = false ∧ (s.launchOf 1).phase = .live ∧
       (s.launchOf 1).ending = none ∧ (s.launchOf 1).saving = false ∧ (s.launchOf 1).withdrawn = false ∧
       0 ∈ (s.launchOf 1).coreList ∧ s.offers 1 0 = true ∧ (s.blockOf 1).teams = [1] ∧ (s.teamOf 1).status = .saved ∧
       0 + (s.teamOf 1).tsize / 64 ≤ 64 ∧ 0 % 4 = (s.teamOf 1).slot % 4 ∧ s.slotFree 0 0 ((s.teamOf 1).tsize / 64) = true) ∧
    (let s := yielding fun l => { l with grid := (0, 1, 1) }
     (s.launchOf 1).phase = .live ∧ s.allRetired 1 = true) ∧
    (let s : State := { yielding fun l => { l with yieldClass := false } with blocks := [] }
     (s.launchOf 1).phase = .live ∧ s.allRetired 1 = false ∧ (s.launchOf 1).yieldClass = false ∧
       ∀ e ∈ s.blocks, ¬ (e.2.launch = 1 ∧ e.2.saved = false ∧ e.2.retired = false)) ∧
    (let sha := ((managed id).mem.readBytes (managed id).sys.preaddr.toNat 256).drop 8 |>.take 32
     ∀ i ∈ (managed id).images, i.ctx < 64 → i.sha ≠ sha) := by
  and_intros <;> decide

/-- Every member has an image. -/
theorem mapM_some {α β : Type} (f : α → Option β) : ∀ l : List α, (∀ x ∈ l, (f x).isSome = true) → (l.mapM f).isSome = true
  | [], _ => rfl
  | x :: xs, h => by
    obtain ⟨y, hy⟩ := Option.isSome_iff_exists.1 (h x List.mem_cons_self)
    obtain ⟨ys, hys⟩ := Option.isSome_iff_exists.1 (mapM_some f xs fun z hz => h z (List.mem_cons_of_mem _ hz))
    simp [List.mapM_cons, hy, hys]
/-- A saved block whose one team's image stands at an address. -/
def saved (va : Nat) : State :=
  let s0 := yielding id
  (s0.setBlock { s0.block with saved := true }).setTeam { s0.team with status := .saved, tsize := 64, imageVa := va }
/-- Bytes below 1 GiB can be read. -/
theorem readVirt_some (s : State) (va n : Nat) (hs : s.tlbs = demo.tlbs) (ha : s.asid 0 = 0) (h : va + n ≤ 2 ^ 30) :
    ∃ bs, s.readVirt 0 va n = some bs := by
  rw [← Option.isSome_iff_exists]
  unfold State.readVirt
  refine mapM_some _ _ fun i hi => ?_
  have hi : i < n := by simpa using hi
  unfold State.translate
  rw [demo_translates s _ _ _ hs ha (by omega)]
  rfl
/-- The image and the stash of a saved block are read back. -/
theorem witness_Preemption_restore : ∃ bs s1 s2, (saved 0x100000).readVirt ((saved 0x100000).launchOf 1).ctx
    ((saved 0x100000).teamOf 1).imageVa (imageBytes ((saved 0x100000).teamOf 1).tsize ((saved 0x100000).teamOf 1).ntile) = some bs ∧
    (saved 0x100000).rereadImage 1 1 = some s1 ∧ s1.rereadStash 1 = some s2 ∧ ((saved 0x100000).teamOf 1).wait = .none := by
  have e1 : ((saved 0x100000).teamOf 1).imageVa = 0x100000 := by decide
  have e2 : imageBytes ((saved 0x100000).teamOf 1).tsize ((saved 0x100000).teamOf 1).ntile ≤ 2 ^ 20 := by decide
  obtain ⟨bs, hb⟩ := readVirt_some (saved 0x100000) 0x100000
    (imageBytes ((saved 0x100000).teamOf 1).tsize ((saved 0x100000).teamOf 1).ntile) rfl (by decide) (by omega)
  obtain ⟨xs, hx⟩ := readVirt_some (saved 0x100000) 512 320 rfl (by decide) (by decide)
  have hr : ∃ s1, (saved 0x100000).rereadImage 1 1 = some s1 ∧ s1.tlbs = demo.tlbs ∧ s1.ctxTable = demo.ctxTable ∧
      s1.blocks = (saved 0x100000).blocks ∧ s1.launches = (saved 0x100000).launches ∧ s1.images = (saved 0x100000).images := by
    unfold State.rereadImage
    have f1 : ((saved 0x100000).launchOf ((saved 0x100000).teamOf 1).launch).ctx = 0 := by decide
    have f2 : ((saved 0x100000).blockOf 1).imageVa + 512 + 320 * (((List.range ((saved 0x100000).kernelOf
      ((saved 0x100000).launchOf ((saved 0x100000).teamOf 1).launch)).teams).find? fun i => (saved 0x100000).areaTeam
      ((saved 0x100000).blockOf 1) i == some 1).getD 0) = 512 := by decide
    simp only [f1, f2, e1, hb, hx, Option.bind_some, Option.map_some]
    exact ⟨_, rfl, rfl, rfl, rfl, rfl, rfl⟩
  obtain ⟨s1, h1, ht, hc, hbl, hl, hi⟩ := hr
  have ha : s1.asid 0 = 0 := by
    have h : ∀ s : State, s.ctxTable = demo.ctxTable → s.asid 0 = demo.asid 0 := fun s h => by
      unfold State.asid State.ctxField; rw [h]
    rw [h s1 hc]; decide
  have hb1 : s1.blockOf 1 = (saved 0x100000).blockOf 1 := by unfold State.blockOf; rw [hbl]
  have hl1 : s1.launchOf 1 = (saved 0x100000).launchOf 1 := by unfold State.launchOf; rw [hl]
  have hk : ∀ l, s1.kernelOf l = (saved 0x100000).kernelOf l := fun l => by
    unfold State.kernelOf State.imageOf; rw [hi]
  have hs : ∃ s2, s1.rereadStash 1 = some s2 := by
    unfold State.rereadStash State.stashVa
    have g1 : ((saved 0x100000).blockOf 1).launch = 1 := by decide
    have g2 : ((saved 0x100000).launchOf 1).ctx = 0 := by decide
    have g3 : ((saved 0x100000).blockOf 1).imageVa + 512 + 320 * ((saved 0x100000).kernelOf ((saved 0x100000).launchOf 1)).teams +
      1024 * ((saved 0x100000).kernelOf ((saved 0x100000).launchOf 1)).stashKiB ≤ 2 ^ 30 := by decide
    obtain ⟨ys, hy⟩ := readVirt_some s1 _ _ ht ha g3
    simp only [hb1, g1, hl1, g2, hk, hy, Option.map_some]
    exact ⟨_, rfl⟩
  obtain ⟨s2, h2⟩ := hs
  refine ⟨bs, s1, s2, ?_, h1, h2, by decide⟩
  rw [e1]
  exact hb
/-- An image whose pool is gone is not. -/
theorem witness_Preemption_lost : (saved (2 ^ 40)).rereadImage 1 1 = none := by
  have h : ∀ (s : State) va n, s.translate 0 va .read = .error .page → 0 < n → s.readVirt 0 va n = none := by
    intro s va n hv hn
    obtain ⟨m, rfl⟩ : ∃ m, n = m + 1 := ⟨n - 1, by omega⟩
    unfold State.readVirt
    rw [List.range_succ_eq_map]
    simp [List.mapM_cons, hv]
  unfold State.rereadImage
  have f1 : ((saved (2 ^ 40)).launchOf ((saved (2 ^ 40)).teamOf 1).launch).ctx = 0 := by decide
  have e1 : ((saved (2 ^ 40)).teamOf 1).imageVa = 2 ^ 40 := by decide
  have e2 : 0 < imageBytes ((saved (2 ^ 40)).teamOf 1).tsize ((saved (2 ^ 40)).teamOf 1).ntile := by decide
  have e3 : (match (saved (2 ^ 40)).translate 0 (2 ^ 40) .read with | .error .page => true | _ => false) = true := by decide
  have e4 : (saved (2 ^ 40)).translate 0 (2 ^ 40) .read = .error .page := by
    revert e3
    cases (saved (2 ^ 40)).translate 0 (2 ^ 40) .read with
    | ok x => simp
    | error c => cases c <;> simp
  simp only [f1, e1, h _ _ _ e4 e2, Option.bind_none]

/-! Witnesses: hypotheses of the statements on what other agents do. -/

/-- A team with one pending result. -/
def pending (dst : PendDst) (src : PendSrc) : State :=
  let p : Pend := { id := 0, dst := dst, src := src, landed := false }
  on fun u => { u with pend := [p] }
/-- That result. -/
def pend0 (dst : PendDst) (src : PendSrc) : Pend := { id := 0, dst := dst, src := src, landed := false }
/-- A store that its core has accepted and that the home slice has not ordered. -/
def store0 : Store := storeOf (.lin 0x100000 [1]) true
/-- A lane of an atomic, and an atomic of two lanes on one word. -/
def lane0 (i : Nat) : AtomLane := { lane := i, pa := 0x100000, compare := 0, operand := 1 }
def atom0 (n : Nat) : Atom := { id := 0, op := .add, wide := false, dst := none, results := [], todo := (List.range n).map lane0 }
/-- A team with that atomic. -/
def atomic (n : Nat) : State := on fun u => { u with atoms := [atom0 n] }
theorem witness_ResultsAndStores :
    (let s := pending (.s 3) (.scalar 5)
     s.team.pend.find? (fun q => q.id = 0) = some (pend0 (.s 3) (.scalar 5)) ∧ s.team.wait = .none ∧ s.poisoned = []) ∧
    (let s := pending (.k 3) (.mask 5)
     s.team.pend.find? (fun q => q.id = 0) = some (pend0 (.k 3) (.mask 5))) ∧
    (let vals := [(4, 0, (7 : Word)), (5, 0, 8)]
     (pending (.v 4 2) (.lanes vals)).team.pend.find? (fun q => q.id = 0) = some (pend0 (.v 4 2) (.lanes vals)) ∧
       (vals.map fun x => (x.1, x.2.1)).Nodup ∧ ∀ x ∈ vals, x.1 < 64 ∧ x.2.1 < demo.team.tsize ∧ x.2.1 < 1024) ∧
    (let items : List (Nat × Place × Option DWord) := [(0, .lin 0x100000, some 7)]
     (pending (.v 4 1) (.load 2 items)).team.pend.find? (fun q => q.id = 0) = some (pend0 (.v 4 1) (.load 2 items)) ∧
       4 < 64 ∧ 2 < 3 ∧ (items.map (·.1)).Nodup ∧ ∀ x ∈ items, x.1 < demo.team.tsize ∧ x.1 < 1024 ∧ x.2.2 ≠ none) ∧
    (let s := on fun u => { u with wait := .park 1, pend := [{ pend0 (.s 3) (.scalar 5) with landed := true }] }
     s.team.wait = .park 1 ∧ (∀ q ∈ s.team.pend, 1 ≤ q.id ∨ q.landed = true) ∧ ∀ q ∈ s.team.pend, q.id = 0 → q.landed = true) ∧
    (let s : State := { demo with stores := [store0] }
     s.stores.find? (fun v => v.id = 0) = some store0 ∧ store0.accepted = true ∧ s.canPerform store0 = true) ∧
    (let w := storeOf (.lin 0x100000 [1]) false
     let s : State := { demo with stores := [w] }
     s.stores.find? (fun v => v.id = 0) = some w ∧ w.accepted = false ∧ w.stream = false ∧ s.canAccept w = true) ∧
    (let w := storeOf (.stash 1 64 [1, 2]) false
     let s : State := { demo with stores := [w] }
     s.stores.find? (fun v => v.id = 0) = some w ∧ w.stream = false ∧ w.accepted = false ∧ s.canAccept w = true) ∧
    (let w := { storeOf (.lin 0x100000 [1]) false with id := 2 }
     let s0 := on fun u => u.withRelease 1 4 [0] []
     let s : State := { s0 with stores := [w] }
     s.stores.find? (fun v => v.id = 2) = some w ∧ w.accepted = false ∧ s.canAccept w = false) ∧
    (let w := { store0 with id := 1 }
     let s : State := { demo with stores := [store0, w] }
     s.stores.find? (fun v => v.id = 1) = some w ∧ w.accepted = true ∧ s.stores = [store0] ++ w :: [] ∧
       (∀ x ∈ [store0], x.id ≠ 1) ∧ store0 ∈ [store0] ∧ store0.accepted = true ∧ store0.core = w.core ∧
       0x100000 < 0x100000 + [(1 : Byte)].length) ∧
    ((atomic 1).team.atoms.find? (fun b => b.id = 0 / 1024) = some (atom0 1) ∧
      (atom0 1).todo.find? (fun o => o.lane = 0 % 1024) = some (lane0 0) ∧ (atomic 1).stores = [] ∧ (atomic 1).poisoned = [] ∧
      (atomic 1).canApply 1 (atom0 1) (lane0 0) = true ∧ (∀ o ∈ (atom0 1).todo, o.lane = (lane0 0).lane)) ∧
    ((atomic 2).team.atoms.find? (fun b => b.id = 1 / 1024) = some (atom0 2) ∧
      (atom0 2).todo.find? (fun o => o.lane = 1 % 1024) = some (lane0 1) ∧ (atomic 2).canApply 1 (atom0 2) (lane0 1) = false ∧
      (atomic 2).canApply 1 (atom0 2) (lane0 0) = true ∧ ∃ o ∈ (atom0 2).todo, o.lane ≠ (lane0 0).lane) := by
  and_intros <;> decide

/-- A fill that reads bytes. -/
def reads (e : Except FillFault (List Byte)) : Bool := match e with | .ok _ => true | .error _ => false
/-- A copy of 16 bytes between two places of global memory. -/
def copy0 (dst src : Nat) : Copy :=
  { id := 0, kind := .bytes false false, at_ := 0x10004, dst := dst, src := src, count := 16, done := 0, targets := [],
    tile := none, batch := none, fault := none }
/-- A team with that copy. -/
def copying (dst src : Nat) : State := { on (fun u => { u with copies := [copy0 dst src] }) with seq := 1 }
/-- Tensor 3 lives in the launch, and its recipe is in memory. -/
def brewed (f : Team → Team) : State :=
  let s := on f
  let l := { s.launch with priced := [3] }
  { s.setLaunchOf 1 l with mem := recipeBytes }
/-- A request to rebrew its tile. -/
def brew0 : BrewReq := { ctx := 0, launch := 1, name := ⟨3, 1, 1⟩, level := 1, depth := 1, core := 0, running := false }
theorem witness_Fills :
    (let n : TileName := ⟨1, 1, 1⟩
     let s := on fun u => { u with wait := .tile n }
     s.team.wait = .tile n ∧ s.tileOwned n (some (1, s.seq)) = false ∧ (s.at 1).dropsTile 1 n = false ∧ finds s 1 (fun d => !d.recomputable && !d.compressed &&
       reads (s.gatherTile 0 d n)) .read = true ∧ s.tileLine n = none) ∧
    (let n : TileName := ⟨1, 1, 1⟩
     let s : State := { on (fun u => { u with wait := .tile n }) with tlbs := [] }
     (s.desc 0 1 = demo.desc 0 1) ∧ s.tileLine n = none ∧
       (match s.desc 0 1 with | .ok d => !reads (s.gatherTile 0 d n) | _ => false) = true) ∧
    (let n : TileName := ⟨3, 1, 1⟩
     let s := brewed fun u => { u with wait := .tile n }
     s.team.wait = .tile n ∧ s.tileOwned n (some (1, s.seq)) = false ∧ (s.at 1).dropsTile 1 n = false ∧
       s.desc 0 3 = .ok desc3 ∧ desc3.recomputable = true ∧ s.team.rebrew = none ∧
       s.recipe 0 3 desc3 = some recipe3 ∧
       s.withMap 0 desc3 recipe3 n = some { s.rtile 0 n with map := false, mapRead := true } ∧ (s.rtile 0 n).state = .absent ∧
       3 ∈ s.launch.priced ∧ (s.rtile 0 n).name = n ∧ 1 ≤ recipe3.depth) ∧
    (demo.nextBrew 0 = none) ∧
    (let s0 := brewed id
     let s : State := { s0 with brews := [brew0], images := s0.images.map fun (m : Image) => { m with cmap := 1 } }
     s.nextBrew 0 = some brew0 ∧ s.recipeOf 0 3 = some recipe3 ∧ s.isHeader 0 recipe3.entry = true) ∧
    (let s := copying 0x100000 0x110000
     s.team.copies.find? (fun o => o.id = 0 / 4 ∧ s.copyRank o = 0 % 4) = some (copy0 0x100000 0x110000) ∧
       (copy0 0x100000 0x110000).left = [(0, 16)] ∧ s.pieceFault s.team (copy0 0x100000 0x110000) 0 16 = none ∧
       s.pieceBusy 1 (copy0 0x100000 0x110000) 0 16 = false ∧ s.poisoned = [] ∧
       s.dstPlace s.team (copy0 0x100000 0x110000) 0 = some (.lin 0x100000)) ∧
    (let s := copying (2 ^ 40) 0x110000
     (s.pieceFault s.team (copy0 (2 ^ 40) 0x110000) 0 16).isSome = true) ∧
    (let s0 := copying 0x100000 0x110000
     let s := s0.setTeam { s0.team with copies := [{ copy0 0x100000 0x110000 with id := 1 }], atoms := [atom0 1] }
     s.pieceFault s.team { copy0 0x100000 0x110000 with id := 1 } 0 16 = none ∧
       s.pieceBusy 1 { copy0 0x100000 0x110000 with id := 1 } 0 16 = true) ∧
    (let s := on fun u => { u with wait := .fetch 0x10080 }
     s.team.wait = .fetch 0x10080 ∧ s.poisoned = [] ∧
       (s.translateOn (some s.team.pipe) 0 (0x10080 / 128 * 128) .exec).toOption = some 0x10080 ∧
       ∀ x ∈ s.codeLevel, ¬ (x.die = s.team.core / 48 ∧ x.pa = 0x10080)) := by
  and_intros <;> decide

/-- A team with one release that waits for a peer's report. -/
def releasing (age : Nat) : State :=
  let r : Release := { id := 0, scope := 5, dies := [], peers := [3], age := age }
  on fun u => { u with rels := [r] }
/-- A team that waits, with its timer run out. -/
def late (w : Wait) (f : Team → Team) : State := on fun u => f { u with wait := w, timeout := 5, waited := 5 }
/-- A matrix item of a batch. -/
def item0 : MItem := { itemOf (.zclr false 0) 1 0 0 with batch := some 0 }
theorem witness_Limits :
    (let s := releasing 10
     s.launch.phase = .live ∧ s.launch.peerLate = false ∧ (∃ x ∈ s.team.rels, 3 ∈ x.peers ∧ s.launch.peerNs < x.age)) ∧
    ((∀ x ∈ (releasing 0).team.rels, 3 ∈ x.peers → x.age ≤ (releasing 0).launch.peerNs) ∧
      (∃ x ∈ (releasing 0).team.rels, 3 ∈ x.peers) ∧ ∀ x ∈ (releasing 0).team.rels, 4 ∉ x.peers) ∧
    ((on fun u => { u with timeout := 1 }).team.waited < 1) ∧
    (let s := late (.barrier 1 0) id
     s.team.timeout ≤ s.team.waited ∧ s.team.status = .live ∧ s.team.wait = .barrier 1 0) ∧
    (let s := late (.batchC 0 5) fun u => { u with copies := [{ copy0 0 0 with batch := some 0 }] }
     s.team.wait = .batchC 0 5 ∧ s.team.coveredCopies 0 ≠ [] ∧ (∀ x ∈ s.team.coveredCopies 0, x.fault = none) ∧
       5 ≤ s.team.timeout) ∧
    (let s := late (.batchC 0 6) fun u => { u with copies := [{ copy0 0 0 with batch := some 0 }] }
     s.team.coveredCopies 0 ≠ [] ∧ (∀ x ∈ s.team.coveredCopies 0, x.fault = none) ∧ s.team.timeout < 6) ∧
    (let s := late (.batchC 0 6) id
     s.team.coveredCopies 0 = []) ∧
    (let s := late (.batchC 0 6) fun u => { u with copies := [{ copy0 0 0 with batch := some 0, fault := some (.page, {}) }] }
     ∃ x ∈ s.team.coveredCopies 0, x.fault ≠ none) ∧
    (demo.cycleTraps = none) ∧
    (let s (p : Nat) := late (.batchM 0 p) fun u => { u with mqueue := [item0] }
     (s 5).team.wait = .batchM 0 5 ∧ (s 5).team.coveredItems 0 ≠ [] ∧ 5 ≤ (s 5).team.timeout ∧
       (s 6).team.coveredItems 0 ≠ [] ∧ (s 6).team.timeout < 6 ∧ demo.team.coveredItems 0 = []) ∧
    (let s (ns : Nat) : State :=
       { (late (.child 7 3) id).setLaunchOf 7 { Launch.none with fig := { tq := 5 } } with ns := ns }
     (s 5).team.wait = .child 7 3 ∧ ((s 5).launchOf 7).completion = none ∧ ((s 5).launchOf 7).breaches = [] ∧
       (s 5).ns - ((s 5).launchOf 7).accepted ≤ ((s 5).launchOf 7).fig.tq + ((s 5).launchOf 7).handlerNs ∧
       ((s 6).launchOf 7).fig.tq + ((s 6).launchOf 7).handlerNs < (s 6).ns - ((s 6).launchOf 7).accepted) ∧
    (let s := (late (.child 7 3) id).setLaunchOf 7 { Launch.none with completion := some 0 }
     (s.launchOf 7).completion ≠ none) ∧
    (let s := on fun u => { u with timerArmed := true, tdue := 5, tmr := 5 }
     s.team.status = .live ∧ s.team.timerArmed = true ∧ s.team.tdue ≤ s.team.tmr ∧ demo.team.timerArmed = false) ∧
    (let s := on fun u => { u with timerDue := true }
     s.team.status = .live ∧ s.team.wait = .none ∧ s.team.timerDue = true ∧ s.team.inHandler = false ∧ s.team.inv = none ∧
       s.team.rep = none ∧ s.team.timeout = 0 ∧ demo.team.timerDue = false ∧ demo.team.hcount < 256) ∧
    (let e (b : Bool) : Entry := { kind := .trap, term := b }
     let s (b : Bool) := on fun u => { u with hcount := 256, stack := [ifEntry, e b] }
     256 ≤ (s true).team.hcount ∧ (s true).team.spilled = [] ∧
       (s true).team.stack.find? (fun x => x.kind == .trap) = some (e true) ∧
       (s false).team.stack.find? (fun x => x.kind == .trap) = some (e false) ∧ (e false).term = false) ∧
    (let r : RebrewSlot := { slot3 with cyc := 0, nj := 0 }
     let s := on fun u => { u with rebrew := some r, energy := 1 }
     s.team.rebrew = some r ∧ s.team.status = .live ∧ r.cyc = 0 ∧ 10000 * r.nj < s.team.energy ∧ 0 < { r with cyc := 1 }.cyc ∧
       s.team.energy ≤ 10000 * { r with nj := 1 }.nj) ∧
    (let l := { Launch.none with phase := .open, fig := { expiry := 5 } }
     let s (ns : Nat) : State := { demo.setLaunchOf 7 l with ns := ns }
     ((s 5).launchOf 7).phase = .open ∧ ((s 5).launchOf 7).parent = none ∧ (s 5).ns ≤ ((s 5).launchOf 7).fig.expiry ∧
       ((s 6).launchOf 7).fig.expiry < (s 6).ns) := by
  and_intros <;> decide

/-- The launch's second block is still to be placed. -/
def placing : State :=
  let s := host id
  let f : QuoteRec := { cores := 1, slots := 4, tiles := 32, rlines := 256, stashk := 128, ishare := 4, llshare := 100 }
  s.setLaunchOf 1 { s.launch with grid := (2, 1, 1), nextBlock := 1, perCore := 2, pieces := [⟨0x100000, 2 ^ 20⟩], fig := f }
/-- Core 0 is the one core. -/
theorem placing_core : placing.nextCores 1 = some [0] := by
  have hl : (placing.launchOf 1).coreList = [0] := by decide
  have hc : (placing.launchOf 1).clusters = false := by decide
  have ho : placing.offers 1 0 = true := by decide
  have h : placing.tryCores 1 = [0] := by
    unfold State.tryCores
    simp only [hl]
    have h := eraseDups_filter_one (fun _ => true) 0 rfl _
      ((Config.corePreference placing.fresh ++ [0]).filter [0].contains) (Nat.le_refl _) (by simp)
      (fun x hx _ => by simpa using (List.mem_filter.1 hx).2)
    rwa [List.filter_eq_self.2 (by simp)] at h
  unfold State.nextCores
  simp [h, hl, hc, ho]
/-- A team whose handler runs. The tables map the first GiB. -/
def handled (e : PrivEntry) (f : Team → Team) : State :=
  let s := handling fun u => f { u with wait := .handler, privEntry := some e }
  { s with mem := [(0, 1), (1, 0x10), (0x1000, 0x1F)] }
/-- A page fault that its handler looks at. -/
def page0 (va : Nat) : PrivEntry :=
  { cause := .page, kept := none, mask := 3, lanes := 1, at_ := 0x10004, rpc := 0x10005, repj := 0, fm := 0,
    detail := { walk := some (va, 1) }, needsBlock := false }
theorem witness_Lifecycle :
    (demo.launch.gridBlocks ≤ demo.launch.nextBlock ∨ (demo.launchOf 7).phase ≠ .live) ∧
    ((placing.launchOf 1).phase = .live ∧ (placing.launchOf 1).ending = none ∧ (placing.launchOf 1).saving = false ∧
      (placing.launchOf 1).withdrawn = false ∧ (placing.launchOf 1).nextBlock < (placing.launchOf 1).gridBlocks ∧
      placing.nextCores 1 = some [0] ∧
      placing.pickSlots 0 ((placing.kernelOf (placing.launchOf 1)).tsize / 64) (placing.unplaced 0 (some 1))
        (placing.kernelOf (placing.launchOf 1)).tpb = some [1] ∧
      placing.freeShare 1 = some 0x100000) ∧
    (demo.team.finished = false ∧ demo.team.status ≠ .retired) ∧
    (let s := on fun u => (u.setExec 0).setK0 0
     s.team.finished = true ∧ (s.blockOf s.team.block).teams = [1] ∧ (s.blockOf s.team.block).retired = false ∧ s.stores = []) ∧
    ((yielding id).allRetired 1 = false) ∧
    (let s := yielding fun l => { l with retiredBlocks := 1, fig := { tq := 10, eq := 10 } }
     s.allRetired 1 = true ∧ s.heldBack 1 = false ∧ (s.launchOf 1).ending = none ∧ (s.drainStores 1).2 = true ∧ (s.launchOf 1).breaches = [] ∧ (s.launchOf 1).thermalCut = false ∧
       s.isLate (s.launchOf 1) = false ∧ s.isOver (s.launchOf 1) = false) ∧
    (let d : Desc := { desc3 with recomputable := false }
     let w := storeOf (.tile 0 ⟨3, 1, 1⟩ (List.replicate 128 0) d) true
     let s : State := { demo with stores := [w], brews := [{ brew0 with launch := 2 }] }
     s.heldBack 1 = true) ∧
    (demo.claimant 0 = none) ∧
    (let e := { page0 0 with needsBlock := true }
     let s := handled e id
     s.emergency.find? 0 = none ∧ s.claimant 0 = some 1 ∧ s.team.privEntry = some e) ∧
    (let s := handled (page0 0x100000) id
     s.team.privEntry = some (page0 0x100000) ∧ (page0 0x100000).detail.copy = none ∧ s.team.wait = .handler ∧ s.team.status = .live ∧
       (s.at 1).nowAllowed 0x100000 1 = true) ∧
    (let s := handled (page0 (2 ^ 30)) id
     (s.at 1).nowAllowed (2 ^ 30) 1 = false ∧ (s.launchOf 1).pins.any (·.pagesHold (2 ^ 30)) = false ∧ (s.at 1).CanEnter ∧
       s.team.inTerminal = false) ∧
    (let s := handled { page0 0 with cause := .mchk } id
     s.team.privEntry = some { page0 0 with cause := .mchk } ∧ s.cycleTraps = none) ∧
    (let s := on fun u => { u with wait := .tlbi 5 }
     s.team.wait = .tlbi 5 ∧ s.usersDone 5 = true ∧ ({ s with stores := [store0] } : State).usersDone 5 = false) := by
  and_intros <;> first | exact placing_core | decide

/-- A write of bytes that can all be reached. -/
theorem writeVirt_some (s : State) (ctx va : Nat) (bs : List Byte) (h : ∀ i, i < bs.length → s.accessFault ctx (va + i) .write = none) :
    ∃ t, s.writeVirt ctx va bs = some t := by
  rw [← Option.isSome_iff_exists]
  unfold State.writeVirt
  rw [Option.isSome_map]
  refine mapM_some _ _ fun i hi => ?_
  have hx := h i (by simpa using hi)
  unfold State.accessFault State.accessFaultOn at hx
  unfold State.translate
  cases ht : s.translateOn s.pipe? ctx (va + i) .write with
  | ok pa => rfl
  | error c => split at hx <;> simp_all
/-- A report has begun, to an address of context 0. -/
def reporting (va : DWord) : State := managed fun r => { r with astat := 1, areport := va <<< 16 }
theorem writeVirt_report : ∃ t, (reporting 0x100000).writeVirt 0 0x100000 ((reporting 0x100000).report (List.replicate 32 0)) = some t := by
  refine writeVirt_some _ _ _ _ fun i hi => ?_
  have hl : i < 2 ^ 20 := by
    have hh : ((reporting 0x100000).reportHead (List.replicate 32 0)).length ≤ 1024 := Nat.le_of_ble_eq_true rfl
    unfold State.report at hi
    rw [List.length_append, List.length_map, List.length_range] at hi
    omega
  have : (reporting 0x100000).accessFault 0 (0x100000 + i) .write = (managed id).accessFault 0 (0x100000 + i) .write := rfl
  rw [this]
  exact managed_access _ (by omega)
/-- A core holds a launch of a share of 4. -/
def sharing : State := yielding fun l => { l with fig := { ishare := 4 } }
theorem witness_DeviceEvents :
    (sharing.throttleLimit < (13 : BitVec 4).toNat ∧ (12 : BitVec 4).toNat ≤ sharing.throttleLimit) ∧
    (let s := sharing.setLaunchOf 1 { sharing.launch with thermalCut := true }
     (s.launchOf 1).phase = .live ∧ (s.launchOf 1).thermalCut = true ∧ (12 : BitVec 4).toNat ≤ s.throttleLimit ∧
       s.thermal = false ∧ ({ s with thermal := true } : State).thermal = true) ∧
    (let e (u : ErrUnit) (soft : Bool) : ErrorReport := { unit := u, location := 0, addr := 0, soft := soft, owner := none }
     (e .hbm true).soft = true ∧ (e .link false).unit = .link ∧
       ((e .pipe false).soft = false ∧ (e .pipe false).unit = .pipe ∧ (e .pipe false).location.toNat < 192 ∧
         demo.team.status = .live ∧ demo.team.core = (e .pipe false).location.toNat ∧ demo.team.rebrew = none ∧
         demo.launch.phase = .live) ∧
       ((e .slice false).unit = .slice ∧ (e .slice false).tile = none) ∧
       (let f : ErrorReport := { e .slice false with tile := some (1, 1, 1) }
        let s (rec_ : Bool) : State := { demo with tiles := [lineAt 1 1 1 .present rec_] }
        f.tile = some (1, 1, 1) ∧ (s true).tileLine ⟨1, 1, 1⟩ = some (lineAt 1 1 1 .present true) ∧
          (s false).tileLine ⟨1, 1, 1⟩ = some (lineAt 1 1 1 .present false)) ∧
       ((e .frontCore false).unit = .frontCore ∧ (e .frontCore false).location.toNat < 4) ∧
       (let s := demo.setLaunchOf 1 { demo.launch with ring := some ring0 }
        (s.launchOf 1).phase = .live ∧ (s.launchOf 1).ring = some ring0 ∧ ring0.stream / 32 = (e .frontCore false).location.toNat)) ∧
    (∀ x ∈ (demo.setLaunchOf 1 { demo.launch with phase := .done }).launches, x.2.phase ≠ .live) ∧
    (3 ∈ ({ demo with markers := [3] } : State).markers) ∧
    (demo.sys.oppPending = false) ∧
    (let s := managed fun r => { r with opp := 0, oppAsked := 2, oppPending := true }
     ∃ x ∈ s.launches, x.2.phase = .live ∧ x.2.fig.opp < s.sys.oppAsked) ∧
    (let s : State := { managed fun r => { r with opp := 0, oppAsked := 2, oppPending := true } with launches := [] }
     s.sys.oppPending = true ∧ ∀ x ∈ s.launches, ¬ (x.2.phase = .live ∧ x.2.fig.opp < s.sys.oppAsked)) ∧
    (∃ x ∈ demo.blocks, x.2.core = 0 ∧ x.2.retired = false ∧ x.2.saved = false) ∧
    (demo.stores = [] ∧ (∀ x ∈ demo.blocks, ¬ (x.2.core = 1 ∧ x.2.retired = false ∧ x.2.saved = false)) ∧
      ((demo.launches.filter fun x => (x.2.phase == .open || x.2.phase == .live) && x.2.parent.isNone && x.2.coreList.contains 1).map
        fun x => x.2.fig.stashk).sum ≤ 128 * demo.sys.stashcfg.toNat) ∧
    (demo.sys.astat ≠ 1) ∧
    ((reporting 0x100000).sys.astat = 1 ∧ (reporting 0x100000).sys.ahandle = 0 ∧
      bits (reporting 0x100000).sys.areport.toNat 15 4 = 0 ∧ bits (reporting 0x100000).sys.areport.toNat 63 16 = 0x100000) := by
  and_intros <;> decide

/-! Witnesses: hypotheses of the statements on the whole machine. -/

/-- An instruction for each of the two that say what decoding and encoding agree on. -/
theorem witness_DecodeEncode : WellFormed (.sadd false 3 4 5) = true ∧ isStep (.sadd false 3 4 5) = false := by decide
theorem witness_DecodeSound : decode 0x020C4140 [] = .ok (.instr (.sdiv false 3 4 5)) ∧
    decode 0x7E105195 [0x1C820000] = .ok (.inv 4 5 6 10 true 7 8 2) := ⟨rfl, rfl⟩
/-- The first word of a clause, and one inside a clause. -/
theorem witness_StepRunsDecoded :
    (demo.agenda = [.issue 1]) ∧ (demo.team.takesTimer = false ∧ demo.cycleTraps = none) ∧
    (let r := (demo.takeUp []).at 1
     demo.team.status = .live ∧ demo.team.wait = .none ∧ r.scheduledOn r.team.pipe = some 1 ∧ r.team.due = none ∧
       r.team.inv = none ∧ r.team.overHandler = false ∧ r.team.rep = none ∧ r.isHeader r.ctx r.team.pc.toNat = true ∧
       r.holdsCode r.team.pc.toNat = true ∧ ∃ hd, (r.code r.team.pc.toNat).bind decodeHeader = some hd ∧
       r.clauseMet hd.wait = true ∧ hd.wait.getLsbD 2 = false ∧ r.team.privEntry = none ∧
       (let q := r.enterClause hd.wait
        q.holdsCode q.team.pc.toNat = true ∧ q.code q.team.pc.toNat = some 0 ∧ q.misplaced q.team.pc.toNat 0 = false ∧
          (match decode 0 (q.litsAt q.team.pc.toNat) with | .ok d => d.names (.sadd false 0 0 0) | .error _ => false) = true)) ∧
    (let s := prog id
     let r := (s.takeUp []).at 1
     s.agenda = [.issue 1] ∧ s.team.status = .live ∧ s.team.wait = .none ∧ r.scheduledOn r.team.pipe = some 1 ∧
       r.team.due = none ∧ r.team.inv = none ∧ r.team.overHandler = false ∧ r.team.rep = none ∧
       r.isHeader r.ctx r.team.pc.toNat = false ∧ r.holdsCode r.team.pc.toNat = true ∧ r.code r.team.pc.toNat = some 0 ∧
       r.misplaced r.team.pc.toNat 0 = false ∧
       (match decode 0 (r.litsAt r.team.pc.toNat) with | .ok d => d.names (.sadd false 0 0 0) | .error _ => false) = true) := by
  refine ⟨by decide, by decide, ?_, ?_⟩
  all_goals and_intros <;> decide
theorem witness_StepKeepsMemoryWf : demo.MemoryWf ∧ ∃ t, step demo = .next t := by
  refine ⟨?_, _, rfl⟩
  unfold State.MemoryWf
  decide

end Sys2Proof.Tests
end

section
/-! SUPPORT. Laws that Laws/Run.lean does not state: the issuing team written twice, words that run alike, traps that a body
finds, and the registers of a team that has gone on. -/
namespace Sys2Proof.Machine

/-! The issuing team written twice, and words that differ only in the registers that they name. -/

theorem Tab.set_set {α : Type} (m : Tab α) (k : Nat) (x y : α) : (m.set k x).set k y = m.set k y := by
  induction m with
  | nil => simp [Tab.set]
  | cons e m ih =>
    obtain ⟨k', z⟩ := e
    by_cases h : k' = k
    · simp [Tab.set, h]
    · by_cases h' : k < k' <;> simp [Tab.set, h, h', ih]

theorem State.setTeam_setTeam (s : State) (t t' : Team) : (s.setTeam t).setTeam t' = s.setTeam t' := by
  simp [State.setTeam, State.setTeamOf, Tab.set_set]

/-- Writing the team back as it is does not show once the team has gone on. -/
theorem State.advance_setTeam_self (s : State) (n : Nat) (sw : Bool) : (s.setTeam s.team).advance n sw = s.advance n sw := by
  simp [State.advance, State.setTeam_setTeam]

/-- Writing cc back as it is does not show once a result is pending. -/
theorem State.addPend_setCc_self (s : State) (dst : PendDst) (src : PendSrc) :
    (s.setTeam (s.team.setCc s.team.cc)).addPend dst src = s.addPend dst src := by
  simp only [State.addPend, State.team_setTeam, State.setTeam_setTeam]
  rfl

theorem Team.setCc_self (t : Team) : t.setCc t.cc = t := rfl

theorem Team.cc_setS (t : Team) (d : SReg) (x : DWord) : (t.setS d x).cc = t.cc := by
  unfold Team.setS
  split <;> rfl

/-- A word that names fewer mask registers passes the checks too. -/
theorem Ready.of_kr_subset {s : State} {u : Use} (ks : List KReg) (h : Ready s u) (hks : ks ⊆ u.kr) :
    Ready s { u with kr := ks } := by
  obtain ⟨hpre, hhaz, hmat, hheld⟩ := h
  refine ⟨hpre, ?_, hmat, hheld⟩
  simp only [Team.hazard, List.any_eq_false, Bool.or_eq_true, not_or, List.any_append, List.any_eq_true, not_exists, not_and]
    at hhaz ⊢
  intro p hp
  obtain ⟨hvs, hkr, hkw⟩ := hhaz p hp
  exact ⟨hvs, fun q hq => hkr q (hks hq), hkw⟩

/-- Words whose checks find nothing, and which release the latch alike, run alike when their bodies end alike. -/
theorem run_congr {s : State} {u u' : Use} {body body' : State → Res} (n : Nat) (sw : Bool) (h : Ready s u)
    (h' : Ready s u') (hbody : (body (s.touch u)).finish s n sw = (body' (s.touch u')).finish s n sw) :
    run s sw n u body = run s sw n u' body' := by
  rw [run_of_ready _ _ _ _ _ h, run_of_ready _ _ _ _ _ h', hbody]

/-- Releasing the latch changes no register. -/
theorem State.touch_regs (s : State) (u : Use) : (s.touch u).team.regs = s.team.regs := by
  rcases s.touch_team u with h | ⟨h, _⟩ <;> rw [h]

theorem State.touch_lanes (s : State) (u : Use) (k : KReg) : (s.touch u).team.lanes k = s.team.lanes k := by
  unfold Team.lanes Team.exec Team.getK
  rw [s.touch_regs u]

theorem State.touch_fm (s : State) (u : Use) : (s.touch u).team.fm = s.team.fm := by
  unfold Team.fm
  rw [s.touch_regs u]

/-- A word with an empty lane set does not release the latch. -/
theorem State.touch_of_no_lanes (s : State) (u : Use) (h : u.lanes = some 0) : s.touch u = s := by
  cases hl : s.team.latch <;> simp [State.touch, hl, h]

/-- A trap that is not HAZARD, found by the body of a word, is taken at the word with no effect of it. -/
theorem run_trap (s : State) (sw : Bool) (n : Nat) (u : Use) (body : State → Res) (c : Cause) (lanes : Mask)
    (h : Ready s u) (hbody : body (s.touch u) = .trap c lanes {}) (hc : c ≠ .hazard) :
    run s sw n u body = .next (s.takeTrap c lanes) := by
  rw [run_of_ready _ _ _ _ _ h, hbody, Res.finish, if_neg hc]

/-! Going on past a word changes no register. -/

@[simp] theorem Team.getV_advance (u : Team) (seq n : Nat) (sw : Bool) (r : VReg) (l : Nat) :
    (u.advance seq n sw).getV r l = u.getV r l := by unfold Team.getV; rw [Team.advance_regs]
@[simp] theorem Team.getS_advance (u : Team) (seq n : Nat) (sw : Bool) (r : SReg) :
    (u.advance seq n sw).getS r = u.getS r := by unfold Team.getS; rw [Team.advance_regs]
@[simp] theorem Team.getK_advance (u : Team) (seq n : Nat) (sw : Bool) (k : KReg) :
    (u.advance seq n sw).getK k = u.getK k := by unfold Team.getK; rw [Team.advance_regs]
@[simp] theorem Team.getZ_advance (u : Team) (seq n : Nat) (sw : Bool) (z : ZReg) :
    (u.advance seq n sw).getZ z = u.getZ z := by unfold Team.getZ; rw [Team.advance_regs]
@[simp] theorem Team.exec_advance (u : Team) (seq n : Nat) (sw : Bool) : (u.advance seq n sw).exec = u.exec := by
  unfold Team.exec; rw [Team.advance_regs]
@[simp] theorem Team.fm_advance (u : Team) (seq n : Nat) (sw : Bool) : (u.advance seq n sw).fm = u.fm := by
  unfold Team.fm; rw [Team.advance_regs]
@[simp] theorem Team.cc_advance (u : Team) (seq n : Nat) (sw : Bool) : (u.advance seq n sw).cc = u.cc := by
  unfold Team.cc; rw [Team.advance_regs]

/-! The same effect said in other words. -/

theorem ScalarDone.congr {i : Instr} {s : State} {n : Nat} {sw : Bool} {d : SReg} {x x' : DWord} {p q : BitVec 5 → Prop}
    (h : ScalarDone i s n sw d x p) (hx : x = x') (hpq : ∀ c, p c → q c) : ScalarDone i s n sw d x' q := by
  subst hx
  obtain ⟨t, hexec, hout, hothers, hmem, hwork, hon, hd, hS, hcc, hrest⟩ := h
  exact ⟨t, hexec, hout, hothers, hmem, hwork, hon, hd, hS, hpq _ hcc, hrest⟩

theorem VectorDone.congr {i : Instr} {s : State} {n : Nat} {sw : Bool} {d : VReg} {k : KReg} {f g : Nat → Word}
    (h : VectorDone i s n sw d k f) (hfg : ∀ l, f l = g l) : VectorDone i s n sw d k g := by
  rwa [show g = f from funext fun l => (hfg l).symm]

section
variable {i : Instr} {s : State} {sw : Bool} {u : Use} {body : State → Res}

/-- A vector form that does nothing with an empty lane set meets its statement there, whatever it computes. -/
theorem vectorDone_of_no_lanes {d : VReg} {k : KReg} (f : Nat → Word) (hl : s.team.lanes k = 0)
    (h : Ready s u) (hu : u.lanes = some (s.team.lanes k)) (hi : exec i s = run s sw 1 u body) (hbody : body s = .ok s) :
    VectorDone i s 1 sw d k f := by
  have ht : s.touch u = s := s.touch_of_no_lanes u (by rw [hu, hl])
  have hrun : exec i s = run s sw 1 u fun s => .ok (s.setTeam s.team) := by
    rw [hi]
    refine run_congr 1 sw h h ?_
    rw [ht, hbody]
    exact (s.advance_setTeam_self 1 sw).symm
  refine completes_of_run i s _ 1 sw u _ s.team _ h hrun rfl (by rw [ht]) rfl rfl rfl rfl ?_
  refine ⟨fun l _ => ?_, fun r l _ => Team.getV_advance .., Team.cc_advance .., fun r _ => Team.getS_advance ..,
    fun r _ => Team.getK_advance .., ⟨Team.exec_advance .., Team.fm_advance .., fun z => Team.getZ_advance ..⟩,
    .inl (Team.advance_latch ..)⟩
  rw [hl, Team.getV_advance, if_neg (by simp)]

end

end Sys2Proof.Machine
end

section
/-! PROOFS. The scalar arithmetic, logic and division forms (R107, R109, R110). -/
namespace Sys2Proof.Machine

/-! The flags after each group of forms (R107). -/

theorem flagsAre_flagsAdd (cc : BitVec 5) (a b : DWord) :
    flagsAre (flagsAdd cc a b) (a + b == 0) (a + b).msb (decide (2 ^ 64 ≤ a.toNat + b.toNat))
      (decide (a.toInt + b.toInt ≠ (a + b).toInt)) (ccB cc) :=
  ⟨ccZ_mkCc .., ccN_mkCc .., ccC_mkCc .., ccV_mkCc .., ccB_mkCc ..⟩

theorem flagsAre_flagsSub (cc : BitVec 5) (a b : DWord) :
    flagsAre (flagsSub cc a b) (a - b == 0) (a - b).msb (decide (b.toNat ≤ a.toNat))
      (decide (a.toInt - b.toInt ≠ (a - b).toInt)) (ccB cc) :=
  ⟨ccZ_mkCc .., ccN_mkCc .., ccC_mkCc .., ccV_mkCc .., ccB_mkCc ..⟩

theorem flagsAre_flagsLogic (cc : BitVec 5) (r : DWord) :
    flagsAre (flagsLogic cc r) (r == 0) r.msb (ccC cc) (ccV cc) (ccB cc) :=
  ⟨ccZ_mkCc .., ccN_mkCc .., ccC_mkCc .., ccV_mkCc .., ccB_mkCc ..⟩

theorem flagsAre_flagsMask (cc : BitVec 5) (m : Mask) :
    flagsAre (flagsMask cc m) (ccZ cc) (ccN cc) (ccC cc) (ccV cc) (m == 0) :=
  ⟨ccZ_mkCc .., ccN_mkCc .., ccC_mkCc .., ccV_mkCc .., ccB_mkCc ..⟩

/-! The scalar forms of Machine/ScalarInt.lean. -/

section
variable {i : Instr} {s : State} {sw : Bool} {n : Nat} {d a b : SReg} {r : DWord → DWord → DWord}

theorem scalarArith_done {fl : BitVec 5 → DWord → DWord → BitVec 5} (h : Ready s { sr := [a, b], sw := [d] })
    (hi : exec i s = scalarArith s sw d a b r fl) :
    ScalarDone i s 1 sw d (r (s.team.getS a) (s.team.getS b))
      (· = fl s.team.cc (s.team.getS a) (s.team.getS b)) :=
  scalarOp_done i s sw 1 d [a, b] _ _ h hi

theorem scalarPlain_done (h : Ready s { sr := [a, b], sw := [d] }) (hi : exec i s = scalarPlain s sw d a b r) :
    ScalarDone i s 1 sw d (r (s.team.getS a) (s.team.getS b)) (· = s.team.cc) :=
  scalarOp_done i s sw 1 d [a, b] _ _ h hi

/-- A form that writes Z and N from its result. -/
theorem scalarOp_logic_done {reads : List SReg} {x : Team → DWord} (h : Ready s { sr := reads, sw := [d] })
    (hi : exec i s = scalarOp s sw n d reads x fun t => flagsLogic t.cc (x t)) :
    ScalarDone i s n sw d (x s.team) fun c =>
      flagsAre c (x s.team == 0) (x s.team).msb (ccC s.team.cc) (ccV s.team.cc) (ccB s.team.cc) :=
  (scalarOp_done i s sw n d reads _ _ h hi).congr rfl fun _ hc => hc ▸ flagsAre_flagsLogic ..

theorem scalarLogic_done (h : Ready s { sr := [a, b], sw := [d] }) (hi : exec i s = scalarLogic s sw d a b r) :
    ScalarDone i s 1 sw d (r (s.team.getS a) (s.team.getS b)) fun c =>
      flagsAre c (r (s.team.getS a) (s.team.getS b) == 0) (r (s.team.getS a) (s.team.getS b)).msb (ccC s.team.cc)
        (ccV s.team.cc) (ccB s.team.cc) :=
  scalarOp_logic_done h hi

theorem scalarUnary_done {f : DWord → DWord} (h : Ready s { sr := [a], sw := [d] }) (hi : exec i s = scalarUnary s sw d a f) :
    ScalarDone i s 1 sw d (f (s.team.getS a)) (· = s.team.cc) :=
  scalarOp_done i s sw 1 d [a] _ _ h hi

end

/-! Minimum and maximum by an order on words. -/

theorem ite_sle_eq {w : Nat} (x y : BitVec w) : (if x.sle y then x else y) = if x.toInt ≤ y.toInt then x else y := by
  simp [BitVec.sle]

theorem ite_ule_eq {w : Nat} (x y : BitVec w) : (if x.ule y then x else y) = if x.toNat ≤ y.toNat then x else y := by
  simp [BitVec.ule]

/-- A choice by one of two conditions is the opposite choice by the other, when one of them always holds and both hold of equal
values only. -/
theorem ite_swap_of_total {α : Type} {p q : Prop} [Decidable p] [Decidable q] {x y : α} (htotal : p ∨ q)
    (heq : p → q → x = y) : (if p then x else y) = if q then y else x := by
  by_cases hp : p
  · by_cases hq : q
    · rw [if_pos hp, if_pos hq, heq hp hq]
    · rw [if_pos hp, if_neg hq]
  · rw [if_neg hp, if_pos (htotal.resolve_left hp)]

theorem ite_sle_swap {w : Nat} (x y : BitVec w) : (if y.sle x then x else y) = if x.toInt ≤ y.toInt then y else x := by
  simp only [BitVec.sle, decide_eq_true_eq]
  exact ite_swap_of_total (Int.le_total _ _) fun h h' => BitVec.eq_of_toInt_eq (Int.le_antisymm h' h)

theorem ite_ule_swap {w : Nat} (x y : BitVec w) : (if y.ule x then x else y) = if x.toNat ≤ y.toNat then y else x := by
  simp only [BitVec.ule, decide_eq_true_eq]
  exact ite_swap_of_total (Nat.le_total _ _) fun h h' => BitVec.eq_of_toNat_eq (Nat.le_antisymm h' h)

/-! Counting bits. -/

/-- The leading zeros are zeros, and the bit below them is a one. -/
theorem leadingZeros_spec {w : Nat} (a : BitVec w) :
    leadingZeros a ≤ w ∧ (∀ j, w - leadingZeros a ≤ j → a.getLsbD j = false) ∧
      (leadingZeros a < w → a.getLsbD (w - 1 - leadingZeros a) = true) := by
  unfold leadingZeros
  by_cases ha : a = 0
  · simp [ha]
  · have hne : a.toNat ≠ 0 := fun e => ha (BitVec.eq_of_toNat_eq (by simpa using e))
    have hlog : Nat.log2 a.toNat < w := (Nat.log2_lt hne).2 a.isLt
    rw [if_neg ha]
    refine ⟨by omega, fun j hj => ?_, fun _ => ?_⟩
    · exact Nat.testBit_lt_two_pow ((Nat.log2_lt hne).1 (by omega))
    · rw [show w - 1 - (w - 1 - Nat.log2 a.toNat) = Nat.log2 a.toNat by omega]
      exact Nat.testBit_log2 hne

theorem popCount_eq {w : Nat} (x : BitVec w) : popCount x = ((List.range w).filter fun l => x.getLsbD l).length := rfl

/-- Settles O1: every form is one of the shapes above, read at its own operation. -/
theorem scalarArithmetic : Obligations.ScalarArithmetic := by
  refine ⟨fun s sw d a b c h => ?_, fun s sw d a b i n => ⟨fun h => ?_, fun h => ?_⟩⟩
  · exact ⟨
      (scalarArith_done h (exec_sadd ..)).congr rfl fun _ hc => hc ▸ flagsAre_flagsAdd ..,
      (scalarArith_done h (exec_ssub ..)).congr rfl fun _ hc => hc ▸ flagsAre_flagsSub ..,
      (scalarPlain_done h (exec_smul ..)).congr (by simp [BitVec.ofNat_mul]) fun _ => id,
      scalarPlain_done h (exec_smulh ..),
      scalarPlain_done h (exec_smulhU ..),
      scalarLogic_done h (exec_sand ..),
      scalarLogic_done h (exec_sor ..),
      scalarLogic_done h (exec_sxor ..),
      scalarPlain_done h (exec_sshl ..),
      scalarPlain_done h (exec_sshr ..),
      scalarPlain_done h (exec_ssar ..),
      (scalarPlain_done h (exec_smin ..)).congr (ite_sle_eq ..) fun _ => id,
      (scalarPlain_done h (exec_smax ..)).congr (ite_sle_swap ..) fun _ => id,
      (scalarPlain_done h (exec_sminU ..)).congr (ite_ule_eq ..) fun _ => id,
      (scalarPlain_done h (exec_smaxU ..)).congr (ite_ule_swap ..) fun _ => id,
      scalarOp_done _ s sw 1 d [a, b] _ _ h (exec_ssel ..)⟩
  · exact (scalarArith_done h (exec_scmp ..)).congr rfl fun _ hc => hc ▸ flagsAre_flagsSub ..
  · obtain ⟨hz, hzeros, hone⟩ := leadingZeros_spec (s.team.getS a)
    refine ⟨?_, ?_, ?_, scalarUnary_done h (exec_sshlImm ..), scalarUnary_done h (exec_sshrImm ..),
      scalarUnary_done h (exec_ssarImm ..), scalarUnary_done h (exec_smov ..), scalarUnary_done h (exec_spopc ..),
      leadingZeros (s.team.getS a), hz, hzeros, hone, scalarUnary_done h (exec_sclz ..)⟩
    · cases i <;>
        exact (scalarOp_done _ s sw _ d [a] _ _ h (exec_saddImm sw d a _ s)).congr rfl fun _ hc => hc ▸ flagsAre_flagsAdd ..
    · cases i <;> exact scalarOp_logic_done h (exec_sandImm sw d a _ s)
    · cases i <;> exact scalarOp_logic_done h (exec_sorImm sw d a _ s)

/-! Division (R110). -/

section
variable {i : Instr} {s : State} {sw : Bool} {d a b : SReg} {r : DWord → DWord → DWord}

/-- A zero divisor raises ARITH, and nothing is written. -/
theorem scalarDivide_zero (h : Ready s { sr := [a, b], sw := [d] }) (hi : exec i s = scalarDivide s sw d a b r)
    (hb : s.team.getS b = 0) : exec i s = .next (s.takeTrap .arith 0) := by
  rw [hi]
  refine run_trap s sw 1 _ _ .arith 0 h ?_ (by decide)
  rw [State.touch_of_no_write s _ rfl]
  exact if_pos hb

/-- Any other divisor gives the form's result, and cc stays. -/
theorem scalarDivide_done (h : Ready s { sr := [a, b], sw := [d] }) (hi : exec i s = scalarDivide s sw d a b r)
    (hb : s.team.getS b ≠ 0) :
    ScalarDone i s 1 sw d (r (s.team.getS a) (s.team.getS b)) (· = s.team.cc) := by
  refine scalarOp_done i s sw 1 d [a, b] (fun t => r (t.getS a) (t.getS b)) Team.cc h (hi.trans ?_)
  refine run_congr 1 sw h h ?_
  rw [State.touch_of_no_write s _ rfl]
  simp only [if_neg hb]
  rw [← Team.cc_setS s.team d, Team.setCc_self]

end

theorem sremWord_eq (x y : DWord) : sremWord x y = x - y * BitVec.ofInt 64 (x.toInt.tdiv y.toInt) := by
  refine BitVec.eq_sub_iff_add_eq.2 ?_
  calc sremWord x y + y * BitVec.ofInt 64 (x.toInt.tdiv y.toInt)
      = BitVec.ofInt 64 (x.toInt.tmod y.toInt + y.toInt * x.toInt.tdiv y.toInt) := by
        rw [sremWord, BitVec.ofInt_add, BitVec.ofInt_mul, BitVec.ofInt_toInt]
    _ = x := by rw [Int.tmod_add_mul_tdiv, BitVec.ofInt_toInt]

theorem ofNat_mod_eq (x y : DWord) :
    BitVec.ofNat 64 (x.toNat % y.toNat) = x - y * BitVec.ofNat 64 (x.toNat / y.toNat) := by
  refine BitVec.eq_sub_iff_add_eq.2 ?_
  calc BitVec.ofNat 64 (x.toNat % y.toNat) + y * BitVec.ofNat 64 (x.toNat / y.toNat)
      = BitVec.ofNat 64 (x.toNat % y.toNat + y.toNat * (x.toNat / y.toNat)) := by
        rw [BitVec.ofNat_add, BitVec.ofNat_mul, BitVec.ofNat_toNat, BitVec.setWidth_eq]
    _ = x := by rw [Nat.mod_add_div, BitVec.ofNat_toNat, BitVec.setWidth_eq]

/-- Settles O2: the four forms differ only in the function of the two operands. -/
theorem scalarDivision : Obligations.ScalarDivision := by
  refine fun s sw d a b h => ⟨⟨rfl, rfl⟩, fun hy => ?_, fun hy => ?_⟩
  · exact ⟨scalarDivide_zero h (exec_sdiv ..) hy, scalarDivide_zero h (exec_sdivU ..) hy,
      scalarDivide_zero h (exec_srem ..) hy, scalarDivide_zero h (exec_sremU ..) hy⟩
  · exact ⟨scalarDivide_done h (exec_sdiv ..) hy, scalarDivide_done h (exec_sdivU ..) hy,
      (scalarDivide_done h (exec_srem ..) hy).congr (sremWord_eq ..) fun _ => id,
      (scalarDivide_done h (exec_sremU ..) hy).congr (ofNat_mod_eq ..) fun _ => id⟩

end Sys2Proof.Machine
end

section
/-! PROOFS. The vector integer forms (R113), dot products, selection and bit fields (R114, R116, R117). -/
namespace Sys2Proof.Machine

/-! The vector forms of Machine/VectorInt.lean. -/

section
variable {i : Instr} {s : State} {sw : Bool} {d a b : VReg} {k : KReg}

theorem vectorBin_done {f : Word → Word → Word} (h : Ready s (vectorUse s d k [a, b]))
    (hi : exec i s = vectorBin s sw d a b k f) :
    VectorDone i s 1 sw d k fun l => f (s.team.getV a l) (s.team.getV b l) :=
  vectorOp_done i s sw 1 d k [a, b] _ h hi rfl

theorem vectorUn_done {f : Word → Word} (h : Ready s (vectorUse s d k [a])) (hi : exec i s = vectorUn s sw d a k f) :
    VectorDone i s 1 sw d k fun l => f (s.team.getV a l) :=
  vectorOp_done i s sw 1 d k [a] _ h hi rfl

end

theorem clampS32_eq (n : Int) : clampS32 n = BitVec.ofInt 32 (max (-(2 ^ 31)) (min (2 ^ 31 - 1) n)) := by
  rfl

theorem clampU32_eq (n : Int) : clampU32 n = BitVec.ofInt 32 (max 0 (min (2 ^ 32 - 1) n)) := by
  rfl

/-- Settles O4: the forms with two sources, with one, with an immediate, and with none. -/
theorem vectorInteger : Obligations.VectorInteger := by
  refine fun s sw d a b k i j => ⟨fun h => ?_, fun h => ?_, fun h => ?_, fun h => ⟨?_, ?_⟩⟩
  · exact ⟨
      vectorBin_done h (exec_vadd ..),
      vectorBin_done h (exec_vsub ..),
      (vectorBin_done h (exec_vadds ..)).congr fun _ => clampS32_eq _,
      (vectorBin_done h (exec_vsubs ..)).congr fun _ => clampS32_eq _,
      (vectorBin_done h (exec_vaddsU ..)).congr fun _ => clampU32_eq _,
      (vectorBin_done h (exec_vsubsU ..)).congr fun _ => clampU32_eq _,
      vectorBin_done h (exec_vmul ..),
      vectorBin_done h (exec_vmulh ..),
      vectorBin_done h (exec_vmulhU ..),
      vectorBin_done h (exec_vand ..),
      vectorBin_done h (exec_vor ..),
      vectorBin_done h (exec_vxor ..),
      vectorBin_done h (exec_vshl ..),
      vectorBin_done h (exec_vshr ..),
      vectorBin_done h (exec_vsar ..),
      (vectorBin_done h (exec_vmin ..)).congr fun _ => ite_sle_eq ..,
      (vectorBin_done h (exec_vmax ..)).congr fun _ => ite_sle_swap ..,
      (vectorBin_done h (exec_vminU ..)).congr fun _ => ite_ule_eq ..,
      (vectorBin_done h (exec_vmaxU ..)).congr fun _ => ite_ule_swap ..⟩
  · exact ⟨(vectorUn_done h (exec_vabs ..)).congr fun _ => clampS32_eq _, vectorUn_done h (exec_vpopc ..),
      vectorUn_done h (exec_vclz ..), vectorUn_done h (exec_vmov ..)⟩
  · cases i with
    | field f => exact vectorOp_done _ s sw _ d 0 [a] _ h (exec_vaddImm ..) rfl
    | lit w =>
      exact (vectorOp_done _ s sw _ d 0 [a] _ h (exec_vaddImm sw d a (.lit w) s) rfl).congr fun _ => by
        rw [immS, BitVec.signExtend_eq]
  · cases j with
    | field f => exact vectorOp_done _ s sw _ d 0 [] _ h (exec_vmovi sw d (.field f) s) rfl
    | lit w =>
      exact (vectorOp_done _ s sw _ d 0 [] _ h (exec_vmovi sw d (.lit w) s) rfl).congr fun _ => by
        rw [immS, BitVec.signExtend_eq]
  · exact vectorOp_done _ s sw 1 d 0 [] _ h (exec_vmovLane ..) rfl

/-! Multiply-add, dot products, selection and bit fields (R114, R116, R117). -/

theorem dot4_eq (byte : Word → Nat → Int) (sat : Bool) (a b c : Word) :
    dot4 byte sat a b c = BitVec.ofInt 32 (
      if sat then max (-(2 ^ 31)) (min (2 ^ 31 - 1) (c.toInt + (byte a 0 * byte b 0 + byte a 1 * byte b 1
        + byte a 2 * byte b 2 + byte a 3 * byte b 3)))
      else c.toInt + (byte a 0 * byte b 0 + byte a 1 * byte b 1 + byte a 2 * byte b 2 + byte a 3 * byte b 3)) := by
  have hsum : ((List.range 4).map fun i => byte a i * byte b i).sum =
      byte a 0 * byte b 0 + byte a 1 * byte b 1 + byte a 2 * byte b 2 + byte a 3 * byte b 3 := by
    simp [List.range_succ, Int.add_assoc]
  cases sat with
  | false => simp only [dot4, hsum]; rfl
  | true => simp only [dot4, hsum, clampS32_eq]; rfl

/-- vsel is a two-source form that reads the selecting mask beside its predicate (R116). -/
theorem execVsel_eq {s : State} {sw : Bool} {d a b : VReg} {k m : KReg}
    (h : Ready s { vectorUse s d k [a, b] with kr := m :: predK k }) :
    execVsel sw d a b k m s =
      vectorOp s sw 1 d k [a, b] fun t l => if (t.getK m).getLsbD l then t.getV a l else t.getV b l :=
  run_congr 1 sw h (h.of_kr_subset (predK k) (List.subset_cons_self _ _)) rfl

theorem bitField_eq {w : Nat} (x : BitVec w) (p n : Nat) :
    bitField x p (n + 1) = BitVec.ofNat w (x.toNat / 2 ^ p % 2 ^ (n + 1)) := by
  rw [bitField, bits, show p + (n + 1) - 1 + 1 - p = n + 1 by omega]

theorem toNat_bitField {w : Nat} (x : BitVec w) (p n : Nat) (hn : n + 1 ≤ w) :
    (bitField x p (n + 1)).toNat = x.toNat / 2 ^ p % 2 ^ (n + 1) := by
  have hlt : x.toNat / 2 ^ p % 2 ^ (n + 1) < 2 ^ w :=
    Nat.lt_of_lt_of_le (Nat.mod_lt _ (Nat.two_pow_pos _)) (Nat.pow_le_pow_right (by decide) hn)
  rw [bitField_eq, BitVec.toNat_ofNat, Nat.mod_eq_of_lt hlt]

/-- A value below 2 ^ (w + 1) in two's complement: the upper half stands for the negative numbers. -/
theorem signed_of_lt {w v : Nat} (hv : v < 2 ^ (w + 1)) :
    signed (w + 1) v = if 2 ^ w ≤ v then (v : Int) - 2 ^ (w + 1) else v := by
  simp only [signed, Nat.mod_eq_of_lt hv, Nat.add_sub_cancel]
  by_cases h : v < 2 ^ w
  · rw [if_pos h, if_neg (by omega)]
  · rw [if_neg h, if_pos (by omega)]
    push_cast
    rfl

/-- A bit of a value into which a field has been inserted. -/
theorem getLsbD_insertField {w : Nat} (old a : BitVec w) (p n j : Nat) (hj : j < w) :
    (insertField old a p (n + 1)).getLsbD j = if p ≤ j ∧ j ≤ p + n then a.getLsbD (j - p) else old.getLsbD j := by
  have hmask : (BitVec.ofNat w ((2 ^ (n + 1) - 1) * 2 ^ p)).getLsbD j = decide (p ≤ j ∧ j ≤ p + n) := by
    rw [BitVec.getLsbD_ofNat, Nat.testBit_mul_two_pow, Nat.testBit_two_pow_sub_one]
    by_cases hp : p ≤ j
    · simp only [hj, hp, decide_true, Bool.true_and, true_and, decide_eq_decide]
      omega
    · simp [hp]
  simp only [insertField, BitVec.getLsbD_or, BitVec.getLsbD_and, BitVec.getLsbD_not, BitVec.getLsbD_shiftLeft, hmask]
  by_cases hin : p ≤ j ∧ j ≤ p + n
  · simp [hin, hj, Nat.not_lt.2 hin.1]
  · simp [hin, hj]

/-- Settles O5: the sum of vdot4 is formed over the integers; a field is read and inserted bit by bit. -/
theorem vectorDotSelectAndFields : Obligations.VectorDotSelectAndFields := by
  refine ⟨fun s sw d a b c h => ⟨?_, ?_, ?_⟩, fun s sw d a b k m p w => ⟨fun h => ?_, fun h hpw => ⟨?_, ?_⟩, fun h hpw => ?_⟩⟩
  · exact vectorOp_done _ s sw 1 d 0 [a, b, c] _ h (exec_vmad ..) rfl
  · exact (vectorOp_done _ s sw 1 d 0 [a, b, c] _ h (exec_vdot4 ..) rfl).congr fun _ => dot4_eq ..
  · exact (vectorOp_done _ s sw 1 d 0 [a, b, c] _ h (exec_vdot4U ..) rfl).congr fun _ => dot4_eq ..
  · exact vectorOp_done _ s sw 1 d k [a, b] _ (h.of_kr_subset (predK k) (List.subset_cons_self _ _))
      ((exec_vsel ..).trans (execVsel_eq h)) rfl
  · exact (vectorUn_done h (exec_vbfxU ..)).congr fun l => bitField_eq ..
  · refine (vectorUn_done h (exec_vbfxS ..)).congr fun l => ?_
    rw [toNat_bitField _ _ _ (by omega), signed_of_lt (Nat.mod_lt _ (Nat.two_pow_pos _))]
  · exact ⟨_, fun l j hj => getLsbD_insertField _ _ _ _ _ hj, vectorOp_done _ s sw 1 d 0 [a, d] _ h (exec_vbfi ..) rfl⟩

end Sys2Proof.Machine
end

section
/-! PROOFS. Compares, votes and mask forms (R115, R120, R132 to R134). -/
namespace Sys2Proof.Machine

/-! Compares and votes (R115, R120, R132). -/

theorem mem_lanesOf_iff {n : Nat} {m : Mask} {l : Nat} :
    l ∈ lanesOf n m ↔ l < 1024 ∧ l < n ∧ m.getLsbD l = true := by
  rw [lanesOf, List.mem_filter, List.mem_range]
  exact ⟨fun ⟨hn, hm⟩ => ⟨BitVec.lt_of_getLsbD hm, hn, hm⟩, fun ⟨_, hn, hm⟩ => ⟨hn, hm⟩⟩

/-- All words of a list equal its first when any two of them are equal. -/
theorem all_beq_headD_iff (ws : List Word) :
    (ws.all fun w => w == ws.headD 0) = true ↔ ∀ x ∈ ws, ∀ y ∈ ws, x = y := by
  rw [List.all_eq_true]
  cases ws with
  | nil => simp
  | cons w ws =>
    simp only [List.headD_cons, beq_iff_eq]
    exact ⟨fun h x hx y hy => (h x hx).trans (h y hy).symm, fun h x hx => h x hx w List.mem_cons_self⟩

section
variable {i : Instr} {s : State} {sw : Bool}

/-- A compare writes the mask of the lanes of its set that pass; which lanes pass is said by `q`. -/
theorem compareOp_mask {d : KReg} {a b : VReg} {k : KReg} {p : Team → Nat → Bool} (q : Nat → Bool)
    (h : Ready s { vr := [a.toNat, b.toNat], kr := predK k, kw := [d], lanes := some (s.team.lanes k) }) (hd : d ≠ 0#3)
    (hi : exec i s = compareOp s sw d a b k p) (hq : ∀ l, p s.team l = q l) :
    ∃ m : Mask, (∀ l, m.getLsbD l = (decide (l < 1024 ∧ l < s.team.tsize) && (s.team.lanes k).getLsbD l && q l)) ∧
      MaskDone i s sw d m := by
  refine ⟨_, fun l => ?_, compareOp_done i s sw d a b k p h hd hi⟩
  rw [maskOf_getLsbD, hq, Bool.decide_and, Bool.and_assoc, Bool.and_assoc]

theorem floatCmp_mask {d : KReg} {a b : VReg} {k : KReg} {p : Val → Val → Bool} (q : Nat → Bool)
    (h : Ready s { vr := [a.toNat, b.toNat], kr := predK k, kw := [d], lanes := some (s.team.lanes k) }) (hd : d ≠ 0#3)
    (hi : exec i s = floatCmp s sw d a b k p) (hq : ∀ l, p (s.team.getF a l) (s.team.getF b l) = q l) :
    ∃ m : Mask, (∀ l, m.getLsbD l = (decide (l < 1024 ∧ l < s.team.tsize) && (s.team.lanes k).getLsbD l && q l)) ∧
      MaskDone i s sw d m :=
  compareOp_mask q h hd hi hq

theorem scalarPend_done {d : SReg} {k : KReg} {vreads : List VReg} {f : Team → DWord}
    (h : Ready s { vr := vreads.map (·.toNat), sw := [d], kr := predK k, lanes := some (s.team.lanes k) })
    (hi : exec i s = scalarPend s sw d k vreads f) : ScalarPending i s sw d (f s.team) := by
  refine pend_done i s sw _ (.s d) (.scalar (f s.team)) s.team.cc h _ hi ?_
  rw [State.touch_of_no_write s _ rfl, State.addPend_setCc_self]

/-- A vote's pending result is 1 or 0 as the lanes of its set have the property or not. -/
theorem voteOp_done {d : SReg} {a : VReg} {k : KReg} {p : List Word → Bool} {P : Prop}
    (h : Ready s { vr := [a.toNat], sw := [d], kr := predK k, lanes := some (s.team.lanes k) })
    (hi : exec i s = voteOp s sw d a k p)
    (hP : p ((lanesOf s.team.tsize (s.team.lanes k)).map (s.team.getV a ·)) = true ↔ P) :
    (P → ScalarPending i s sw d 1) ∧ (¬ P → ScalarPending i s sw d 0) := by
  have hpend := scalarPend_done (vreads := [a]) h hi
  refine ⟨fun hp => ?_, fun hp => ?_⟩
  · rwa [if_pos (hP.2 hp)] at hpend
  · rwa [if_neg (mt hP.1 hp)] at hpend

end

/-- Settles O6: the compares by the lanes that pass; the votes by the words of the lanes of their set. -/
theorem comparesAndVotes : Obligations.ComparesAndVotes := by
  refine ⟨fun s sw d a b k hd h => ?_, fun s sw d m a k => ⟨fun h => ⟨?_, ?_, ?_⟩, fun h => ?_⟩⟩
  · exact ⟨
      compareOp_mask _ h hd (exec_vcmpEq ..) fun _ => rfl,
      compareOp_mask _ h hd (exec_vcmpNe ..) fun _ => rfl,
      compareOp_mask _ h hd (exec_vcmpLt ..) fun _ => rfl,
      compareOp_mask _ h hd (exec_vcmpLe ..) fun _ => rfl,
      compareOp_mask _ h hd (exec_vcmpLtu ..) fun _ => rfl,
      compareOp_mask _ h hd (exec_vcmpLeu ..) fun _ => rfl,
      floatCmp_mask _ h hd (exec_fcmpEq ..) fun _ => rfl,
      floatCmp_mask _ h hd (exec_fcmpNe ..) fun _ => rfl,
      floatCmp_mask _ h hd (exec_fcmpLt ..) fun _ => rfl,
      floatCmp_mask _ h hd (exec_fcmpLe ..) fun _ => rfl,
      floatCmp_mask _ h hd (exec_fcmpUn ..) fun _ => rfl,
      floatCmp_mask _ h hd (exec_fcmpOrd ..) fun _ => rfl⟩
  · refine voteOp_done h (exec_voteAny ..) ?_
    simp only [List.any_map, List.any_eq_true, Function.comp, mem_lanesOf_iff, bne_iff_ne]
  · refine voteOp_done h (exec_voteAll ..) ?_
    simp only [List.all_map, List.all_eq_true, Function.comp, mem_lanesOf_iff, bne_iff_ne]
  · refine voteOp_done h (exec_voteUni ..) ?_
    simp only [all_beq_headD_iff, List.forall_mem_map, mem_lanesOf_iff]
    exact ⟨fun hall l l' hl hl' => hall l hl l' hl', fun hall l hl l' hl' => hall l l' hl hl'⟩
  · refine ⟨maskOf s.team.tsize fun l => (s.team.lanes k).getLsbD l && s.team.getV a l != 0, fun l => ?_, _,
      flagsAre_flagsMask _ _, ?_⟩
    · simp only [maskOf_getLsbD, Bool.and_eq_true, decide_eq_true_eq, bne_iff_ne, and_assoc]
    · refine pend_done _ s sw _ (.k m) (.mask _) _ h _ (exec_ballot ..) ?_
      rw [State.touch_of_no_write s _ rfl]

/-- A mask counting form writes its count and B from the mask read (R134). -/
theorem maskCount_done {i : Instr} {s : State} {sw : Bool} {d : SReg} {a : KReg} {f : Team → DWord}
    (h : Ready s { kr := [a], sw := [d] }) (hi : exec i s = maskCount s sw d a f) :
    ScalarDone i s 1 sw d (f s.team) fun c =>
      flagsAre c (ccZ s.team.cc) (ccN s.team.cc) (ccC s.team.cc) (ccV s.team.cc) (s.team.getK a == 0) := by
  have h' : Ready s { sr := [], sw := [d] } := h.of_kr_subset [] (List.nil_subset _)
  refine (scalarOp_done i s sw 1 d [] f (fun t => flagsMask t.cc (t.getK a)) h'
    (hi.trans (run_congr 1 sw h h' ?_))).congr rfl fun _ hc => hc ▸ flagsAre_flagsMask ..
  rw [State.touch_of_no_write s _ rfl, State.touch_of_no_write s _ rfl]

theorem firstLane_zero (n : Nat) : firstLane n 0 = none := by
  rw [firstLane, List.find?_eq_none]
  intro l _
  simp

/-- The lane below which a mask has none is its first. -/
theorem firstLane_eq_some {m : Mask} {l : Nat} (hl : m.getLsbD l = true) (hbelow : ∀ j, j < l → m.getLsbD j = false) :
    firstLane 1024 m = some l := by
  have hlt : l < 1024 := BitVec.lt_of_getLsbD hl
  rw [firstLane, List.find?_range_eq_some]
  exact ⟨hl, List.mem_range.2 hlt, fun j hj => by simp [hbelow j hj]⟩

theorem getLsbD_allLanes (n l : Nat) (hl : l < 1024) : (allLanes n).getLsbD l = decide (l < n) := by
  rw [allLanes, BitVec.getLsbD_ofNat, Nat.testBit_two_pow_sub_one]
  simp [hl]

/-- Settles O15: the mask forms write their mask and B, and the counting forms their count and B from the mask read. -/
theorem maskFormsAndCounts : Obligations.MaskFormsAndCounts := by
  refine ⟨fun s sw d a b hd => ⟨fun h => ?_, fun h => ?_⟩, fun s sw d a m n => ⟨fun h => ?_, fun hm h => ?_⟩⟩
  · exact ⟨maskOp_done _ s sw d [a, b] _ h hd (exec_kand ..), maskOp_done _ s sw d [a, b] _ h hd (exec_kor ..),
      maskOp_done _ s sw d [a, b] _ h hd (exec_kxor ..), maskOp_done _ s sw d [a, b] _ h hd (exec_kandn ..)⟩
  · exact ⟨maskOp_done _ s sw d [a] _ h hd (exec_knot ..), maskOp_done _ s sw d [a] _ h hd (exec_kmov ..)⟩
  · have hfirst := maskCount_done h (exec_kfirst sw d a s)
    refine ⟨?_, fun hx => hfirst.congr ?_ fun _ => id, fun l hl hbelow => hfirst.congr ?_ fun _ => id⟩
    · exact (maskCount_done h (exec_kpop ..)).congr (congrArg (BitVec.ofNat 64) (popCount_eq _)) fun _ => id
    · rw [hx, firstLane_zero]
    · rw [firstLane_eq_some hl hbelow]
  · refine ⟨allLanes n.toNat &&& s.team.k0, fun l hl => ?_, maskOp_done _ s sw m [] _ h hm (exec_kset ..)⟩
    rw [BitVec.getLsbD_and, getLsbD_allLanes _ _ hl]
    rfl

end Sys2Proof.Machine
end

section
/-! PROOFS. The fm forms, packing and block scales (R126, R128, R129). -/
namespace Sys2Proof.Machine

section
variable {i : Instr} {s : State} {sw : Bool} {u : Use} {body : State → Res}

/-- A word that writes fm, and nothing else. -/
theorem setFm_done {w : Word} (h : Ready s u) (hu : u.vw = []) (hi : exec i s = run s sw 1 u body)
    (hbody : body s = .ok (s.setTeam (s.team.setFm w))) :
    Completes i s 1 sw fun v v' => v'.fm = w ∧ v'.exec = v.exec ∧ v'.cc = v.cc ∧ v.SameV v' none ∧ v.SameS v' none ∧
      v.SameK v' none ∧ (∀ z, v'.getZ z = v.getZ z) ∧ v'.latch = v.latch := by
  have ht : s.touch u = s := s.touch_of_no_write u hu
  refine completes_of_run i s _ 1 sw u body (s.team.setFm w) _ h hi (by rw [ht, hbody]) (by rw [ht]) rfl rfl rfl rfl ?_
  refine ⟨Team.fm_advance .., Team.exec_advance .., Team.cc_advance .., fun r l _ => Team.getV_advance ..,
    fun r _ => Team.getS_advance .., fun r _ => Team.getK_advance .., fun z => Team.getZ_advance .., ?_⟩
  rw [Team.advance_latch]
  rfl

end

/-- fm.cfmt stands in bits [11:8] (R80). -/
theorem Fm.cfmt_eq (fm : Word) : Fm.cfmt fm = fm.toNat / 2 ^ 8 % 16 := rfl

/-- The code of a format (R81). -/
def Fmt.code : Fmt → Nat
  | .fp32 => 0 | .fp16 => 1 | .bf16 => 2 | .e4m3 => 3 | .e5m2 => 4 | .e2m1 => 5 | .int8 => 6 | .uint8 => 7 | .int4 => 8
  | .tern => 9 | .int32 => 10 | .ue8m0 => 11

theorem Fmt.ofCode_eq_some_iff {c : Nat} {g : Fmt} : Fmt.ofCode c = some g ↔ c = g.code := by
  constructor
  · intro h
    unfold Fmt.ofCode at h
    split at h <;> cases h <;> rfl
  · rintro rfl
    cases g <;> rfl

section
variable {i : Instr} {s : State} {sw : Bool} {d : VReg} {k : KReg} {reads : List VReg} {ok : Nat → Bool}
  {f : Team → Fmt → Nat → Word}

/-- A pack form under an accepted fm.cfmt writes the lanes of its set (R126). -/
theorem packOp_done {g : Fmt} {c : Nat} (h : Ready s (vectorUse s d k reads))
    (hi : exec i s = packOp s sw d k reads ok f) (hc : Fm.cfmt s.team.fm = c) (hok : ok c = true)
    (hg : Fmt.ofCode c = some g) (hf : f { s.team with latch := none } g = f s.team g) :
    VectorDone i s 1 sw d k (f s.team g) := by
  by_cases hl : s.team.lanes k = 0
  · exact vectorDone_of_no_lanes _ hl h rfl hi (if_pos hl)
  · refine vectorOp_done i s sw 1 d k reads (fun t => f t g) h (hi.trans (run_congr 1 sw h h ?_)) hf
    simp only [State.touch_lanes, State.touch_fm, if_neg hl, hc, if_pos hok, hg]

/-- Under any other code it raises FMT for the lanes of its set, with no effect. -/
theorem packOp_refused {c : Nat} (h : Ready s (vectorUse s d k reads)) (hi : exec i s = packOp s sw d k reads ok f)
    (hc : Fm.cfmt s.team.fm = c) (hok : ¬ ok c = true) (hl : s.team.lanes k ≠ 0) :
    exec i s = .next (s.takeTrap .fmt (s.team.lanes k)) := by
  rw [hi]
  refine run_trap s sw 1 _ _ .fmt _ h ?_ (by decide)
  simp only [State.touch_lanes, State.touch_fm, if_neg hl, hc, if_neg hok]

end

/-- The exponent byte of a block scale is the low byte of its lane. -/
theorem bits_low_byte (v : Nat) : bits v 7 0 = v % 256 := by simp [bits]

theorem bits_high_byte (w : Word) : bits w.toNat 31 24 = w.toNat / 2 ^ 24 := by
  have hlt : w.toNat < 2 ^ 32 := w.isLt
  rw [bits]
  omega

/-- Settles O12: fm is written and read as a register; a pack form needs an accepted fm.cfmt. -/
theorem formatAndPack : Obligations.FormatAndPack := by
  refine ⟨fun s sw d a i => ⟨fun h => ?_, fun h hx => ?_, fun h hx => ?_, fun h => ?_⟩,
    fun s sw d a b c k g => ⟨fun h => ⟨?_, fun hg hcode => ?_, fun hkind hg => ?_, fun hl hcode => ?_, fun hl h1 h2 => ?_⟩,
      fun h => ⟨fun hkind hg => ?_, fun hl h3 h4 h6 h7 => ?_⟩⟩⟩
  · exact setFm_done h rfl (exec_fmsetImm ..) rfl
  · exact setFm_done h rfl (exec_fmset ..) (if_neg (Nat.not_le.2 hx))
  · rw [exec_fmset]
    refine run_trap s sw 1 _ _ .fmt 0 h ?_ (by decide)
    rw [State.touch_of_no_write s _ rfl]
    exact if_pos hx
  · exact scalarOp_done _ s sw 1 d [] _ _ h (exec_fmget ..)
  · refine (vectorOp_done _ s sw 1 d k [a, b] _ h (exec_bscale ..) rfl).congr fun l => ?_
    rw [bits_low_byte]
    rfl
  · refine (packOp_done h (exec_bapply ..) (Fm.cfmt_eq _) (decide_eq_true hcode) hg rfl).congr fun l => ?_
    rw [bits_low_byte]
    rfl
  · refine packOp_done h (exec_pack2 ..) (Fm.cfmt_eq _) ?_ hg rfl
    rw [Fmt.ofCode_eq_some_iff.1 hg]
    rcases hkind with rfl | rfl <;> rfl
  · exact packOp_refused h (exec_bapply ..) (Fm.cfmt_eq _) (by simpa using hcode) hl
  · exact packOp_refused h (exec_pack2 ..) (Fm.cfmt_eq _) (by simpa using ⟨h1, h2⟩) hl
  · refine (packOp_done h (exec_pack4 ..) (Fm.cfmt_eq _) ?_ hg rfl).congr fun l => ?_
    · rw [Fmt.ofCode_eq_some_iff.1 hg]
      rcases hkind with rfl | rfl | rfl | rfl <;> rfl
    · rw [bits_high_byte]
      rfl
  · exact packOp_refused (k := 0) h (exec_pack4 ..) (Fm.cfmt_eq _) (by simpa using ⟨⟨⟨h3, h4⟩, h6⟩, h7⟩) hl

end Sys2Proof.Machine
end
